-- ==== Sys2Proof/Word.lean ====
section
/-!
DEFINITION. Sys2Proof/Word.lean: the word types of the engine (R14: 64-bit registers, little-endian bytes).
-/
namespace Sys2Proof

/-- A control-port register is 64 bits wide and is accessed whole (R14). -/
abbrev Word := BitVec 64

/-- A byte of a memory of the engine or of attached memory. -/
abbrev Byte := BitVec 8

/-- The bits of a binary32 value (R48, R224). -/
abbrev F32 := BitVec 32

/-- A pair (s, e) of binary32 words, standing for s + e (R95). -/
structure Pair where
  s : F32
  e : F32
deriving DecidableEq, Repr

/-- The pair (+0, +0): T(0), what a part with nothing to contribute supplies (R99). -/
def Pair.zero : Pair := ⟨0, 0⟩

/-- The five configurations of Table 0.1 (R6). -/
inductive Configuration where
  | e1 | e4 | e16 | e64 | e128
deriving DecidableEq, Repr

end Sys2Proof
end

