-- ==== Sys2Proof/Syntax/Image.lean ====
section
/-!
DEFINITION. Sys2Proof/Syntax/Image.lean: a schedule image (10 section 10.1 to 10.8) as the admission check reads it. The spec lays
out the header, the section table, descriptors, tile table entries and holder entries in bits; these are kept as bits. The
other sections have contents but no layout in the spec: they are records (log entry 8).
-/
namespace Sys2Proof

/-- Owner of a panel (R286). -/
inductive Owner where
  | sideA | sideB | both | whole
deriving DecidableEq, Repr

/-- One core record of STRUCT: the split flag and the context of side A (or of the whole core) and of side B (R284). -/
structure CoreRec where
  core : Nat
  split : Bool
  ctxA : Option Nat
  ctxB : Option Nat
deriving DecidableEq, Repr

/-- One context record of STRUCT: its save area in attached memory (R284). -/
structure CtxRec where
  ctx : Nat
  save : Nat
deriving DecidableEq, Repr

/-- One panel record (R286); companion 255 is none. -/
structure PanelRec where
  core : Nat
  panel : Nat
  base : Nat
  g32 : Nat
  rows : Nat
  owner : Owner
  companion : Nat
deriving DecidableEq, Repr

/-- Scope of a token (R294). -/
inductive Scope where
  | mb | step | job
deriving DecidableEq, Repr

/-- FX token kinds (R293). -/
inductive FxTok where
  | layerDone | seed | mbOpen | refusal
deriving DecidableEq, Repr

/-- Source of a token (R293). -/
inductive TokSource where
  | entry
  | fx (kind : FxTok) (layer : Nat)
  | unitLayerComplete (layer : Nat)
  | unitUpdateWritten (layer : Nat)
  | remote
  | doorbell
  | epochToken
  | clipToken
deriving DecidableEq, Repr

/-- One token declaration (R293). -/
structure TokDecl where
  ctx : Nat
  tok : Nat
  scope : Scope
  source : TokSource
deriving DecidableEq, Repr

/-- One cross-engine token wiring (R296). -/
structure Wiring where
  ctx : Nat
  tok : Nat
  rank : Nat
  toCtx : Nat
  toTok : Nat
deriving DecidableEq, Repr

/-- One queue of a tile table: 64-byte entries (R285, R287). -/
structure TileQueue where
  bucket : Nat
  ctx : Nat
  queue : Nat
  entries : List (BitVec 512)
deriving DecidableEq, Repr

/-- A tile table position: what RELEASE names (Table 7.1, R202). -/
structure Pos where
  ctx : Nat
  queue : Nat
  index : Nat
deriving DecidableEq, Repr

/-- Placement of a stash entry (Table 7.2). -/
inductive Place where
  | keg | hogs | recomp
deriving DecidableEq, Repr

/-- Stash entry (Table 7.1). -/
structure StashRec where
  entry : Nat
  tnum : Nat
  place : Place
  addr : Nat
  bytes : Nat
  ring : Nat
  release : Pos
deriving DecidableEq, Repr

/-- Landing ring of a bucket (R204). -/
structure RingRec where
  ring : Nat
  base : Nat
  size : Nat
deriving DecidableEq, Repr

/-- Seed entry (R202). -/
structure SeedRec where
  entry : Nat
  desc : Nat
  bytes : Nat
  release : Pos
deriving DecidableEq, Repr

/-- One length bucket (Table 10.2, R194 to R204). -/
structure Bucket where
  len : Nat
  nsetKeg : Nat
  nsetHogs : Nat
  kegStride : Nat
  hogsStride : Nat
  rings : List RingRec
  stash : List StashRec
  seeds : List SeedRec
deriving DecidableEq, Repr

/-- Static fields of a tracker entry (Table 6.1). KIND: 0 ACT, 1 AGRAD, 2 WGRAD, 3 WEIGHT, 4 STATE. -/
structure TrackRec where
  tnum : Nat
  kind : Nat
  format : Nat
  nbits : Nat
  chain : Bool
  resid : Bool
  window : Nat
  margin : Nat
  ot : Int
  spillLimit : Nat
  layer : Nat
  rxTracked : Bool
  rxInit : Int
  gt : Nat
  rt : Int
  initValid : Bool
  initSe : Int
deriving DecidableEq, Repr

/-- A slice of a layer's shard: unit and range of element indices (Table 8.1). -/
structure Slice where
  unit : Nat
  first : Nat
  count : Nat
deriving DecidableEq, Repr

/-- Layer record of the optimiser section (Table 8.1). FAMILY: 0 ADAPT, 1 MOM, 2 SIGN, 3 SGD; DECAY: 0 NONE, 1 COUPLED,
2 DECOUPLED; other numbers are unknown ones (R220). -/
structure LayerRec where
  family : Nat
  decay : Nat
  bias : Bool
  b1 : F32
  omb1 : F32
  b2 : F32
  omb2 : F32
  mu : F32
  eps : F32
  lam : F32
  lrm : F32
  gscale : F32
  clip : Bool
  wt : Nat
  tw : Nat
  tm : Nat
  tv : Nat
  dg : Nat
  dw : Nat
  dm : Nat
  dv : Nat
  dn : Nat
  ctx : Nat
  slices : List Slice
deriving DecidableEq, Repr

/-- The optimiser section (Table 10.2). Clip mode: 0 NONE, 1 EXACT, 2 PREV (Table 8.6). -/
structure Optim where
  layers : List LayerRec
  lr : List (Nat × F32)
  seed : BitVec 64
  clipMode : Nat
  clipMax : F32
  nfSkip : Bool
deriving DecidableEq, Repr

/-- One used Furlong port: tier, FEC mode, peer, route table (destination and outbound port, none: local), division of
the 64 receive buffers among the VCs and weights (R245, R251, R253). -/
structure PortRec where
  port : Nat
  tier : Nat
  light : Bool
  peerRank : Nat
  peerPort : Nat
  routes : List (Nat × Option Nat)
  vcBuf : List Nat
  weights : List Nat
deriving DecidableEq, Repr

/-- Kinds of collectives (Table 9.8). -/
inductive CollKind where
  | reduceScatter | allReduce | allGather | broadcast
deriving DecidableEq, Repr

/-- Carried width of a reduction (R103). -/
inductive Width where
  | pair | s32 | g16
deriving DecidableEq, Repr

/-- The cuts of a Chain (Table 9.1). -/
inductive Cut where
  | model | sequence | data
deriving DecidableEq, Repr

/-- A range of a collective's elements and the channel of its cut that carries it (R244). -/
structure ChanRange where
  channel : Nat
  first : Nat
  count : Nat
deriving DecidableEq, Repr

/-- A collective of LINKS: its number, kind, order mode, width, the ranks of its parts in part order, this engine's part,
the source and destination descriptors, the layer it reduces, the slots it needs here (their number, the first one, where in the working
region they are staged), the cut it runs on, the ranges of its elements by channel, and for each part and stage of a halving whether
the part keeps the upper half (R103, R244, R258, R259, R291). -/
structure Collective where
  num : Nat
  kind : CollKind
  ordered : Bool
  width : Width
  ranks : List Nat
  part : Nat
  src : Nat
  dst : Nat
  layer : Option Nat
  slots : Nat
  slotBase : Nat
  staging : Nat
  cut : Cut
  ranges : List ChanRange
  halves : List (List Bool)
deriving DecidableEq, Repr

/-- A channel of a cut: the port that faces the previous engine of the cut's ring and the port that faces the next (R244). -/
structure Channel where
  cut : Cut
  prev : Nat
  next : Nat
deriving DecidableEq, Repr

/-- A route of the Chain (R253): at an engine, for frames that come in on a port (none: its own), the port on which frames for a
destination leave. -/
structure RouteRec where
  rank : Nat
  inPort : Option Nat
  dest : Nat
  out : Nat
deriving DecidableEq, Repr

/-- A wire of the Chain: the port of one engine and the port of another that receives from it. -/
structure Wire where
  rank : Nat
  port : Nat
  peerRank : Nat
  peerPort : Nat
deriving DecidableEq, Repr

/-- The all-gather of a layer's narrow weights: the ranges of the elements of a piece by channel, for the stage over the data cut and the
stage over the sequence cut (R244, R263); and where in engine address space the image keeps the whole layer through the step, none where it
drops it (R264). -/
structure GatherRec where
  layer : Nat
  data : List ChanRange
  seq : List ChanRange
  keep : Option Nat
deriving DecidableEq, Repr

/-- LINKS (Table 10.2). The routes and wires of the whole Chain, which the conditions of R253 speak of, and the rings of channels as
the receive buffers (rank, port) that they run through, each in order; the broadcast tree from the chain head, as ranks with their
parents (R255). `moveSlots`: the destination descriptors of the ordered
distributed scatters with add for which the image assigns reduction slots, with the number of moves that make one chain (R151). -/
structure Links where
  ports : List PortRec
  collectives : List Collective
  groups : List (List Nat)
  channels : List Channel
  wires : List Wire
  routes : List RouteRec
  rings : List (List (Nat × Nat))
  tree : List (Nat × Nat)
  moveSlots : List (Nat × Nat)
  gathers : List GatherRec
deriving DecidableEq, Repr

/-- A round of a re-shard plan as this engine carries it out: remote sends (slot, rank, slot there), receives (rank, slot)
and local copies (from, to) (R269). -/
structure Round where
  sends : List (Nat × Nat × Nat)
  recvs : List (Nat × Nat)
  copies : List (Nat × Nat)
deriving DecidableEq, Repr

/-- A re-shard plan: block size in bytes, the engine address of each block slot, rounds, the holder table that follows. -/
structure Plan where
  ident : Nat
  block : Nat
  slots : List Nat
  rounds : List Round
  holders : List (BitVec 256)
deriving DecidableEq, Repr

/-- A mode table entry (Table 10.8a). -/
inductive ModeKind where
  | variant (pairs : List (Nat × Nat))
  | seed (s : BitVec 64)
  | reshard (plan : Nat)
  | clipMax (v : F32)
deriving DecidableEq, Repr

/-- The tile tables and tracker entries of one wider variant of one layer (R305, R440). -/
structure VariantRec where
  layer : Nat
  variant : Nat
  tiles : List TileQueue
  track : List TrackRec
deriving DecidableEq, Repr

/-- The snapshot section (R320, R331): group size n, position e, group number, ranks of every group's members by position,
partner, mirror source, the partner's feed domain, STATE_BYTES, the interval, and the MIRROR area. -/
structure Bushel where
  n : Nat
  pos : Nat
  group : Nat
  groups : List (List Nat)
  partner : Nat
  source : Nat
  partnerFeed : Nat
  stateBytes : Nat
  interval : Nat
  mirror : Nat
deriving DecidableEq, Repr

/-- A schedule image: the bytes that lie in the image store, and the contents of its sections. `journal`: where in the working region
the re-shard journal lies (R270). -/
structure Image where
  bytes : List Byte
  cores : List CoreRec
  contexts : List CtxRec
  panels : List PanelRec
  tokens : List TokDecl
  wiring : List Wiring
  tiles : List TileQueue
  descs : List (BitVec 512)
  nmb : Nat
  buckets : List Bucket
  lean : Bool
  autoWiden : Bool
  track : List TrackRec
  optim : Option Optim
  links : Links
  holders : List (BitVec 256)
  demand : List Nat
  classWeights : List Nat
  modes : List (Nat × ModeKind)
  variants : List VariantRec
  reshard : List Plan
  journal : Nat
  bushel : Option Bushel
  faults : List (Nat × Nat)
deriving DecidableEq, Repr

end Sys2Proof
end

