-- ==== Sys2Proof/Syntax/Messages.lean ====
section
/-!
DEFINITION. Sys2Proof/Syntax/Messages.lean: what the engine exchanges with its neighbours: bus sources, FX items, chain and
Furlong messages, sensor readings, patches.
-/
namespace Sys2Proof

/-- Who makes a register access: the control port or the TAP (R384). -/
inductive Src where
  | cp | tap
deriving DecidableEq, Repr

/-- A tensor's measurement as reports and epoch tokens carry it (R165): magnitude bits [30:0], NF and NONE. -/
structure Meas where
  tnum : Nat
  amax : Nat
  nf : Bool
  none : Bool
deriving DecidableEq, Repr

/-- Step report (Table 9.7): ready at dispatch (R302), complete, or failed with a fault code of Table 10.9. -/
structure StepReport where
  rank : Nat
  step : Nat
  ready : Bool
  failed : Option Nat
  meas : List Meas
  norm : Option Pair
  probe : Bool
deriving DecidableEq, Repr

/-- Epoch token (Table 9.7): the new step, the probe flag, the combined measurements, the norm for PREV. -/
structure EpochTok where
  step : Nat
  probe : Bool
  meas : List Meas
  norm : Option F32
deriving DecidableEq, Repr

/-- Hello (R273). -/
structure Hello where
  chainId : Nat
  rank : Nat
  port : Nat
  tier : Nat
  light : Bool
  imageId : Nat
deriving DecidableEq, Repr

/-- A Furlong frame: the 160 control bits and the data bytes that its sender encoded, and the symbols that came in error on the line:
codeword, place, what was added (R246 to R248). -/
structure Frame where
  control : BitVec 160
  data : List Byte
  errors : List (Nat × Nat × Nat)
deriving DecidableEq, Repr

/-- A segment of a collective (R258, R259): the collective, the stage of recursive halving or the ring step, the part it
comes from, the place of its first value among those of the stage, and the values carried. -/
structure Segment where
  coll : Nat
  stage : Nat
  part : Nat
  first : Nat
  vals : List Pair
deriving DecidableEq, Repr

/-- A remote read request (R150): requester, holder entry, descriptor index, PART, VTAG, element positions wanted. -/
structure ReadReq where
  rank : Nat
  holder : Nat
  desc : Nat
  part : Nat
  vtag : Nat
  elems : List (List Nat)
deriving DecidableEq, Repr

/-- A remote read response: the holder entry, the descriptor and PART of the request, and for each position the bytes of the
element and whether they come from a poisoned unit. -/
structure ReadResp where
  rank : Nat
  holder : Nat
  desc : Nat
  part : Nat
  items : List (List Nat × List Byte × Bool)
deriving DecidableEq, Repr

/-- A contribution of a remote write: index j, position, value as a pair, bytes of the element, poison. -/
structure WItem where
  j : Nat
  pos : List Nat
  val : Pair
  bytes : List Byte
  bad : Bool
deriving DecidableEq, Repr

/-- A remote write (R151): sender, holder entry, destination descriptor, VTAG, add or overwrite, ordered or arrival, PART, for an
add drain (R107) the accepted index of its micro-batch, and the contributions. -/
structure WriteReq where
  rank : Nat
  holder : Nat
  desc : Nat
  vtag : Nat
  add : Bool
  arrival : Bool
  part : Nat
  drainMb : Option Nat
  items : List WItem
deriving DecidableEq, Repr

/-- A re-shard round message (R270). -/
inductive RoundMsg where
  | done (rank round : Nat)
  | commit (round : Nat)
deriving DecidableEq, Repr

/-- What a snapshot keeps of one tracked tensor (Table 11.1). `rxPrev`: the RX that the moments were written under (log entry 40). -/
structure CtlTensor where
  tnum : Nat
  peck : List (BitVec 32)
  se : Int
  sePrev : Int
  rx : Int
  rxPrev : Int
  head : Nat
  flagged : Bool
  variant : Nat
deriving DecidableEq, Repr

/-- What a snapshot keeps of one layer record (Table 11.1). -/
structure CtlLayer where
  index : Nat
  p1 : F32
  p2 : F32
  applied : Nat
  last : Nat
deriving DecidableEq, Repr

/-- The control block of a shard (Table 11.1); `holderVar`: the holder table in force, 0 that of HOLDERS, p + 1 that of re-shard plan p;
`tags`: tensor and step of its last applied update. -/
structure CtlBlock where
  step : Nat
  imageId : Nat
  variants : List (Nat × Nat)
  seed : BitVec 64
  clipMax : F32
  norm : F32
  holderVar : Nat
  tensors : List CtlTensor
  layers : List CtlLayer
  tags : List (Nat × Nat)
deriving DecidableEq, Repr, Inhabited

/-- The state of a Bushel slot's records (R325). -/
inductive RecKind where
  | opened | done | committed
deriving DecidableEq, Repr

/-- A record of a Bushel slot (R324): slot B or A, kind, step, IMAGE_ID, n, k, e, CELL_UNITS. -/
structure SlotRec where
  slotB : Bool
  kind : RecKind
  step : Nat
  imageId : Nat
  n : Nat
  k : Nat
  e : Nat
  cellUnits : Nat
deriving DecidableEq, Repr

/-- A re-shard journal record (R270). -/
structure JournalRec where
  plan : Nat
  round : Nat
  commit : Bool
deriving DecidableEq, Repr

/-- A digest table: for each group position (for each rank in a SEAL) the shard digest and the parity digest (R324), as numbers
of 384 bits. -/
abbrev DigestTable := List (Nat × Nat)

/-- What a mirror message carries (R332). -/
inductive MirrorMsg where
  | control (b : CtlBlock)
  | slotRecord (r : SlotRec)
  | journal (r : JournalRec)
  | digests (slotB : Bool) (t : DigestTable)
  | heartbeat
deriving DecidableEq, Repr

/-- A Bushel transfer (KIND 15). Encoding (R328): a piece of a stripe's running pair, with the units that could not be read
(unit in the piece, data position), and the last pair on its way to a parity holder. The group exchange (R320). Restore (R334
to R339): the start of a phase for a choice of the head's, a piece's syndrome, rebuilt bytes of a cell, digests and control blocks asked for and given,
a loss. The journal of a re-shard asked for and given (R341). Offsets are bytes within the cell. -/
inductive BushelMsg where
  | chain (step stripe position offset : Nat) (p q : List Byte) (bad : List (Nat × Nat))
  | parity (step stripe offset : Nat) (isQ : Bool) (d : List Byte) (bad : List (Nat × Nat))
  | group (n pos stateBytes : Nat)
  | phaseStart (phase step : Nat) (erased : List Nat) (fallback : Bool) (round : Nat)
  | syndrome (step stripe offset : Nat) (isQ : Bool) (d : List Byte) (bad : List (Nat × Nat))
  | rebuilt (step cell offset : Nat) (d : List Byte)
  | askDigest (step : Nat)
  | digest (d : Option (Nat × Nat))
  | askControl (step : Nat)
  | control (b : Option CtlBlock)
  | lost (rank : Nat)
  | askJournal
  | journal (l : List JournalRec)
deriving DecidableEq, Repr

/-- The messages of the chain control and of the Furlong transport that this engine sends. -/
inductive NetMsg where
  | report (r : StepReport)
  | partialNorm (rank : Nat) (p : Pair)
  | epoch (t : EpochTok)
  | clip (c : F32) (nf : Bool)
  | proposal (rank entry : Nat)
  | refusedProposal (rank entry : Nat)
  | prepare (entry target : Nat)
  | ack (rank entry target : Nat)
  | nak (rank entry target : Nat)
  | commit (entry : Nat)
  | abort (entry : Nat)
  | halt (step fault : Nat)
  | token (rank ctx tok : Nat)
  | segment (toPart : Nat) (port : Option Nat) (s : Segment)
  | readReq (rank : Nat) (r : ReadReq)
  | readResp (rank : Nat) (r : ReadResp)
  | writeReq (rank : Nat) (w : WriteReq)
  | stale (rank holder desc part found vc : Nat)
  | block (rank slot round : Nat) (d : List Byte) (bad : List Nat) (tag : Nat)
  | round (m : RoundMsg)
  | mirror (rank : Nat) (m : MirrorMsg)
  | bushel (rank : Nat) (m : BushelMsg)
  | bushelAll (m : BushelMsg)
  | snapDone (rank step : Nat) (failed : Bool) (shard parity : Nat)
  | seal (step : Nat) (t : DigestTable) (skip : Bool)
  | abandon (step : Nat)
  | weights (ranks : List Nat) (layer : Nat) (channel : Option (Cut × Nat)) (pieces : List (Nat × List Byte))
  | layerMeas (layer : Nat) (amax : Nat) (nf : Bool)
  | scan (rank : Nat) (steps : List (Nat × Bool)) (mirror : List Nat)
  | phaseDone (rank phase : Nat) (ok : Bool) (round : Nat)
  | linkHello (port : Nat) (h : Hello)
deriving DecidableEq, Repr

/-- What the engine presents on FX outbound (Table 14.5 and R400). -/
inductive FxOut where
  | scale (tnum : Nat) (se : Int)
  | scalesReady (step : Nat)
  | weightsReady (step layer : Nat)
  | recompute (step mb entry ring : Nat)
  | refusal (step mb : Nat)
  | weightBeat (layer beat : Nat) (last : Bool) (d : List Byte)
deriving DecidableEq, Repr

/-- A patch image as the management controller reads it in region 0: header fields of Table 13.6 and the body (R378). -/
structure Patch where
  magic : Nat
  version : Nat
  minAfter : Nat
  length : Nat
  header64 : List Byte
  sigR : Nat
  sigS : Nat
  body : List Byte
deriving DecidableEq, Repr

/-- One power reading of the telemetry (R436): cluster averages in 0.125 W, block average in 0.25 W, energies added. -/
structure PowerSample where
  clusters : List (Nat × Nat)
  total : Nat
  energy : Nat
deriving DecidableEq, Repr

/-- Why a side is poisoned (R85, R128, R85 through poisoned operand data). -/
inductive PoisonCause where
  | obufWord (bank line : Nat)
  | stationaryParity
  | accWord (spill : Bool) (index : Nat)
deriving DecidableEq, Repr

/-- A word found in error by its symbol code while a command reads it (R85, R128, R203): corrected. -/
structure FixedWord where
  bank : Nat
  line : Nat
deriving DecidableEq, Repr

/-- Where a narrow-path access comes from (Table 5.12). -/
inductive NarrowOwner where
  | mc | debug | coder
deriving DecidableEq, Repr

/-- Outcome of a retrain (R276, R277): the hello that it brought, or none within its limit. -/
inductive RetrainOutcome where
  | hello (h : Hello)
  | failed
deriving DecidableEq, Repr

/-- Why a Doze ends (R356, Table 12.12). -/
inductive WakeCause where
  | targetWrite | doorbell | frame | fxBeat
deriving DecidableEq, Repr

/-- A TAP operation: those of set T, and those of IEEE 1149.1 that set N holds (R384, R385). -/
inductive ScanOp where
  | scan | extest | wrapper | bypass | idcode | sample
deriving DecidableEq, Repr

/-- The two ends of a register read: accepted with its address, tag and source, or the oldest slow read returning its data (R395,
R396). -/
inductive ReadPhase where
  | accepted (addr tag : Nat) (src : Src)
  | returned
deriving DecidableEq, Repr

end Sys2Proof
end

