-- ==== Sys2Proof/Syntax.lean ====
section
/-!
DEFINITION. Sys2Proof/Syntax.lean: the commands of the block, one constructor per row of spec/opcode_table.json. A register
write names its source (control port or TAP). An event of the hardware carries what it brings.
-/
namespace Sys2Proof

/-- The 143 commands, in the order of the table. -/
inductive Instr where
  | registerWrite (addr : Nat) (value : Word) (src : Src)
  | slowReadReturn (phase : ReadPhase)
  | admit_ (src : Src)
  | admissionEnd (img : Image)
  | dispatch (src : Src)
  | unload (src : Src)
  | modeProposal (entry : Nat) (fromMc : Bool) (src : Src)
  | proposalArrival (rank entry : Nat) (refused : Bool)
  | prepare (entry target : Nat)
  | modeAck (rank entry target : Nat)
  | modeNak (rank entry target : Nat)
  | commit
  | abort
  | preempt (ctx : Nat) (src : Src)
  | contextPreempted (ctx : Nat)
  | resume (ctx : Nat) (src : Src)
  | doorbell (ctx : Nat) (value : Word) (src : Src)
  | inval (src : Src)
  | invalAll (src : Src)
  | clrFlags (src : Src)
  | retrain (port : Nat) (src : Src)
  | clrCnt (port : Nat) (src : Src)
  | join (src : Src)
  | leave (src : Src)
  | ringLock (value : Word) (src : Src)
  | powerStateRequest (target : Nat) (src : Src)
  | powerTransitionDone (railsOk : Bool)
  | dozeWake (cause : WakeCause)
  | coldReset (viaPin : Bool) (src : Src)
  | warmReset (src : Src)
  | warmResetDone
  | rtmRelease (src : Src)
  | powerOnReset
  | porRelease (feed : BitVec 4)
  | firmwareVerifyEnd
  | calibrationLoad
  | vgrpWrite (group : Nat) (value : Word) (src : Src)
  | clusterFreqWrite (cluster : Nat) (value : Word) (src : Src)
  | vokChange (group : Nat) (level : Bool)
  | lockdown (src : Src)
  | install (arg : Nat) (src : Src)
  | feedStrict (src : Src)
  | calDiscard (src : Src)
  | seal (src : Src)
  | unseal (src : Src)
  | calWrite (src : Src)
  | feedShare (src : Src)
  | rollback (arg : Nat) (src : Src)
  | securityCommandEnd
  | debugRequest (level : Nat) (src : Src)
  | mcHalt (halt : Bool) (src : Src)
  | mcStep (src : Src)
  | scan (op : ScanOp)
  | testReset
  | logSelect (value : Word) (src : Src)
  | logEntryLoaded
  | clrCperr (src : Src)
  | clrErrsum (src : Src)
  | clrPeak (src : Src)
  | restore (src : Src)
  | localHalt (src : Src)
  | presenceAssert
  | presenceRelease
  | feedIdChange (level : BitVec 4)
  | throttleAssert
  | throttleRelease
  | tamper
  | zeroiseDone
  | droopEvent (cluster : Option Nat)
  | droopEnd (cluster : Nat)
  | thermAlmAssert
  | thermAlmRelease
  | thermalSample (readings : List Int)
  | telemetryUpdate (power : PowerSample) (temps : List Int)
  | fractionStep (cluster : Option Nat)
  | clusterIdleGate (cluster : Nat)
  | unitIdleGate (cod : Bool)
  | stashPush (entry beat : Nat) (last : Bool) (data : List Byte)
  | recomputeBeat (entry beat : Nat) (last : Bool) (data : List Byte)
  | seedBeat (entry beat : Nat) (last : Bool) (data : List Byte)
  | microBatchOpen (step mb n : Nat)
  | layerDone (step mb layer : Nat)
  | seedDone (step mb : Nat)
  | amaxRecord (type tnum : Nat) (amax : F32)
  | fxoCredit (beats records : Nat)
  | microBatchStart (ctx : Nat)
  | passIssue (ctx queue : Nat) (pageBad : Bool)
  | drainIssue (ctx queue : Nat) (pageBad : Bool)
  | moveIssue (ctx queue : Nat) (pageBad : Bool) (kegFixed kegLost : List FixedWord)
  | reduceIssue (ctx queue : Nat) (pageBad : Bool) (kegFixed kegLost : List FixedWord)
  | raise (ctx queue : Nat) (pageBad : Bool)
  | wait (ctx queue : Nat) (pageBad : Bool)
  | recomp (ctx queue : Nat) (pageBad : Bool)
  | end_ (ctx queue : Nat) (pageBad : Bool)
  | entryComplete (ctx queue index : Nat)
  | tokenMessage (rank ctx tok : Nat)
  | passStart (core : Nat) (sideB : Bool) (fixed : List FixedWord) (accFixed : List (Bool × Nat))
  | drainStart (core : Nat) (sideB tile1 : Bool) (rows : Nat) (bankError : Option (Nat × Nat)) (accFixed : List (Bool × Nat))
  | drainResume (core : Nat) (sideB tile1 : Bool) (rows : Nat) (bankError : Option (Nat × Nat)) (accFixed : List (Bool × Nat))
  | sidePoison (core : Nat) (sideB : Bool) (cause : PoisonCause)
  | reissue (core : Nat) (sideB : Bool)
  | narrowPathAccess (owner : NarrowOwner) (src dst : BitVec 512) (kegFixed kegLost : List FixedWord)
  | stackReadResponse (port tag : Nat) (err : Bool) (units : List (List Byte))
  | stackWriteResponse (port tag : Nat) (err : Bool)
  | stackPortTimeout (port : Nat)
  | reductionComplete (coll : Nat)
  | updateLayerStart (unit : Nat)
  | updateBlockDone (unit : Nat) (corrected uncorrectable : Nat) (fed : List Nat)
  | partialNorm (rank : Nat) (p : Pair)
  | clipToken (c : F32) (nf : Bool)
  | narrowWeightEmission (layer : Nat) (peers : List (Nat × Meas))
  | weightsSend (layer : Nat) (pieces : List (Nat × List Byte))
  | stepCompleteReport
  | stepReport (r : StepReport)
  | epochToken (t : EpochTok)
  | halt (step fault : Nat)
  | frameReceive (port : Nat) (f : Frame) (cut : Bool)
  | frameForward (port : Nat)
  | ackTimer (port : Nat)
  | ackTimeout (port : Nat)
  | retrainEnd (port : Nat) (o : RetrainOutcome)
  | bringupStageDone (port : Nat) (credits : List Nat)
  | bringupStageTimeout (port : Nat) (reordered : Bool)
  | hello (port : Nat) (h : Hello)
  | collectiveSegment (g : Segment)
  | remoteReadRequest (r : ReadReq) (kegFixed kegLost : List FixedWord)
  | remoteReadResponse (r : ReadResp)
  | remoteWrite (w : WriteReq)
  | staleResponse (rank holder desc part expect found : Nat)
  | reshardTransfer (rank slot round : Nat) (data : List Byte) (bad : List Nat) (tag : Nat)
  | reshardRoundMessage (m : RoundMsg)
  | partnerMirror (rank : Nat) (m : MirrorMsg)
  | heartbeat
  | partnerLost
  | bushelTransfer (rank : Nat) (m : BushelMsg)
  | snapshotDone
  | snapshotDoneReport (rank step : Nat) (failed : Bool) (shard parity : Nat)
  | snapshotSeal (step : Nat) (t : DigestTable) (skip : Bool)
  | abandon (step : Nat)
  | restorePhaseEnd (rank phase : Nat) (ok : Bool) (round : Nat) (steps : List (Nat × Bool)) (mirror : List Nat)
  | codewordLockLoss (port : Nat)
  | resetNRelease (feed : BitVec 4)
  | hardwareComparatorTrip (crossed : Bool)
deriving DecidableEq, Repr

end Sys2Proof
end

