-- ==== Sys2Proof/Decode.lean ====
section
/-!
DEFINITION. Sys2Proof/Decode.lean: the commands that words spell. The block has no instruction words: no row of the opcode
table gives bits.
-/
namespace Sys2Proof

/-- The command that a word of nbits bits spells: none, since no row of the table gives bits. -/
def decodeTableWord (_nbits _w : Nat) : Option Instr := none

end Sys2Proof
end

