-- ==== Sys2Proof/Machine/Hash.lean ====
section
/-!
DEFINITION. Sys2Proof/Machine/Hash.lean: SHA-384 (FIPS 180-4), the digest of images, patches, security records and
snapshots (R281, R366, R379, R387, R324), and CRC-32 of image pages (R283).
-/
namespace Sys2Proof.Machine

/-- The round constants of SHA-384. -/
def shaK : List Word :=
  [0x428A2F98D728AE22, 0x7137449123EF65CD, 0xB5C0FBCFEC4D3B2F, 0xE9B5DBA58189DBBC, 0x3956C25BF348B538, 0x59F111F1B605D019, 0x923F82A4AF194F9B, 0xAB1C5ED5DA6D8118, 0xD807AA98A3030242, 0x12835B0145706FBE, 0x243185BE4EE4B28C, 0x550C7DC3D5FFB4E2, 0x72BE5D74F27B896F, 0x80DEB1FE3B1696B1, 0x9BDC06A725C71235, 0xC19BF174CF692694] ++
  [0xE49B69C19EF14AD2, 0xEFBE4786384F25E3, 0x0FC19DC68B8CD5B5, 0x240CA1CC77AC9C65, 0x2DE92C6F592B0275, 0x4A7484AA6EA6E483, 0x5CB0A9DCBD41FBD4, 0x76F988DA831153B5, 0x983E5152EE66DFAB, 0xA831C66D2DB43210, 0xB00327C898FB213F, 0xBF597FC7BEEF0EE4, 0xC6E00BF33DA88FC2, 0xD5A79147930AA725, 0x06CA6351E003826F, 0x142929670A0E6E70] ++
  [0x27B70A8546D22FFC, 0x2E1B21385C26C926, 0x4D2C6DFC5AC42AED, 0x53380D139D95B3DF, 0x650A73548BAF63DE, 0x766A0ABB3C77B2A8, 0x81C2C92E47EDAEE6, 0x92722C851482353B, 0xA2BFE8A14CF10364, 0xA81A664BBC423001, 0xC24B8B70D0F89791, 0xC76C51A30654BE30, 0xD192E819D6EF5218, 0xD69906245565A910, 0xF40E35855771202A, 0x106AA07032BBD1B8] ++
  [0x19A4C116B8D2D0C8, 0x1E376C085141AB53, 0x2748774CDF8EEB99, 0x34B0BCB5E19B48A8, 0x391C0CB3C5C95A63, 0x4ED8AA4AE3418ACB, 0x5B9CCA4F7763E373, 0x682E6FF3D6B2B8A3, 0x748F82EE5DEFB2FC, 0x78A5636F43172F60, 0x84C87814A1F0AB72, 0x8CC702081A6439EC, 0x90BEFFFA23631E28, 0xA4506CEBDE82BDE9, 0xBEF9A3F7B2C67915, 0xC67178F2E372532B] ++
  [0xCA273ECEEA26619C, 0xD186B8C721C0C207, 0xEADA7DD6CDE0EB1E, 0xF57D4F7FEE6ED178, 0x06F067AA72176FBA, 0x0A637DC5A2C898A6, 0x113F9804BEF90DAE, 0x1B710B35131C471B, 0x28DB77F523047D84, 0x32CAAB7B40C72493, 0x3C9EBE0A15C9BEBC, 0x431D67C49C100D4C, 0x4CC5D4BECB3E42B6, 0x597F299CFC657E2A, 0x5FCB6FAB3AD6FAEC, 0x6C44198C4A475817]

/-- The initial hash value of SHA-384. -/
def shaInit : List Word :=
  [0xCBBB9D5DC1059ED8, 0x629A292A367CD507, 0x9159015A3070DD17, 0x152FECD8F70E5939, 0x67332667FFC00B31, 0x8EB44A8768581511, 0xDB0C2E0D64F98FA7, 0x47B5481DBEFA4FA4]

/-- The eight working variables. -/
structure ShaState where
  a : Word
  b : Word
  c : Word
  d : Word
  e : Word
  f : Word
  g : Word
  h : Word
deriving DecidableEq, Repr

/-- The message schedule from the last 16 words, newest last: n further words. -/
def shaSchedule : Nat → List Word → List Word
  | 0, w => w
  | n + 1, w =>
    match w with
    | w0 :: rest =>
      let w1 := rest.getD 0 0
      let w9 := rest.getD 8 0
      let w14 := rest.getD 13 0
      let s0 := (w1.rotateRight 1) ^^^ (w1.rotateRight 8) ^^^ (w1 >>> 7)
      let s1 := (w14.rotateRight 19) ^^^ (w14.rotateRight 61) ^^^ (w14 >>> 6)
      w0 :: shaSchedule n (rest ++ [w0 + s0 + w9 + s1])
    | [] => []

/-- One round with constant k and schedule word w. -/
def shaRound (s : ShaState) (kw : Word × Word) : ShaState :=
  let s1 := (s.e.rotateRight 14) ^^^ (s.e.rotateRight 18) ^^^ (s.e.rotateRight 41)
  let ch := (s.e &&& s.f) ^^^ ((~~~ s.e) &&& s.g)
  let t1 := s.h + s1 + ch + kw.1 + kw.2
  let s0 := (s.a.rotateRight 28) ^^^ (s.a.rotateRight 34) ^^^ (s.a.rotateRight 39)
  let mj := (s.a &&& s.b) ^^^ (s.a &&& s.c) ^^^ (s.b &&& s.c)
  ⟨t1 + (s0 + mj), s.a, s.b, s.c, s.d + t1, s.e, s.f, s.g⟩

/-- One block of 16 words. -/
def shaBlock (s : ShaState) (w : List Word) : ShaState :=
  let r := (shaK.zip (shaSchedule 64 w)).foldl shaRound s
  ⟨s.a + r.a, s.b + r.b, s.c + r.c, s.d + r.d, s.e + r.e, s.f + r.f, s.g + r.g, s.h + r.h⟩

/-- Big-endian number of bytes. -/
def bytesBE (l : List Byte) : Nat := l.foldl (fun n b => 256 * n + b.toNat) 0

/-- Little-endian number of bytes (R14). -/
def bytesLE (l : List Byte) : Nat := l.foldr (fun b n => b.toNat + 256 * n) 0

/-- n bytes of a number, lowest first (R14). -/
def toBytesLE : Nat → Nat → List Byte
  | 0, _ => []
  | n + 1, x => BitVec.ofNat 8 x :: toBytesLE n (x / 256)

/-- n bytes of a number, highest first. -/
def toBytesBE (n x : Nat) : List Byte := (toBytesLE n x).reverse

/-- The words of up to n groups of 8 bytes. -/
def wordsBE : Nat → List Byte → List Word
  | 0, _ => []
  | n + 1, l => BitVec.ofNat 64 (bytesBE (l.take 8)) :: wordsBE n (l.drop 8)

/-- n blocks of 128 bytes. -/
def shaBlocks : Nat → ShaState → List Byte → ShaState
  | 0, s, _ => s
  | n + 1, s, l => shaBlocks n (shaBlock s (wordsBE 16 (l.take 128))) (l.drop 128)

/-- The padded message. -/
def shaPad (m : List Byte) : List Byte :=
  let z := (239 - m.length % 128) % 128
  m ++ [0x80] ++ List.replicate z 0 ++ toBytesBE 16 (8 * m.length)

/-- SHA-384 of a message: 48 bytes. -/
def sha384 (m : List Byte) : List Byte :=
  let p := shaPad m
  let g := fun i => shaInit.getD i 0
  let s := shaBlocks (p.length / 128) ⟨g 0, g 1, g 2, g 3, g 4, g 5, g 6, g 7⟩ p
  [s.a, s.b, s.c, s.d, s.e, s.f].flatMap (fun w => toBytesBE 8 w.toNat)

/-- SHA-384 as a number. -/
def sha384Nat (m : List Byte) : Nat := bytesBE (sha384 m)

/-- n shifts of the reflected CRC-32 register. -/
def crcShift : Nat → BitVec 32 → BitVec 32
  | 0, c => c
  | n + 1, c => crcShift n (if c.getLsbD 0 then (c >>> 1) ^^^ 0xEDB88320 else c >>> 1)

/-- The CRC-32 of the IEEE 802.3 frame check sequence (R248, R283). -/
def crc32 (l : List Byte) : Nat :=
  (~~~ (l.foldl (fun c b => crcShift 8 (c ^^^ b.setWidth 32)) 0xFFFFFFFF)).toNat

end Sys2Proof.Machine
end

