-- ==== Sys2Proof/Config.lean ====
section
/-!
DEFINITION. Sys2Proof/Config.lean: what a configuration fixes (Tables 0.1 and 0.2) and the values the spec leaves open, as
opaque constants: nothing can be proved about them beyond their type.
-/
namespace Sys2Proof.Config

/-- Gradient cores (Table 0.1). -/
def cores : Configuration → Nat
  | .e1 => 1 | .e4 => 4 | .e16 => 16 | .e64 => 64 | .e128 => 128

/-- Clusters, a partial one counted (Table 0.4). -/
def clusters : Configuration → Nat
  | .e1 => 1 | .e4 => 1 | .e16 => 1 | .e64 => 4 | .e128 => 8

/-- Stack ports. -/
def sports : Configuration → Nat
  | .e1 => 1 | .e4 => 2 | .e16 => 6 | .e64 => 12 | .e128 => 24

/-- Furlong ports. -/
def fports : Configuration → Nat
  | .e1 => 2 | .e4 => 2 | .e16 => 4 | .e64 => 8 | .e128 => 16

/-- Update units. -/
def units : Configuration → Nat
  | .e1 => 1 | .e4 => 1 | .e16 => 2 | .e64 => 8 | .e128 => 16

/-- Contexts. -/
def ctx : Configuration → Nat
  | .e1 => 2 | .e4 => 8 | .e16 => 32 | .e64 => 64 | .e128 => 64

/-- Keg capacity in MiB. -/
def kegMib : Configuration → Nat
  | .e1 => 0 | .e4 => 0 | .e16 => 0 | .e64 => 128 | .e128 => 256

/-- VCORE groups (R349). -/
def vgroups : Configuration → Nat
  | .e1 => 1 | .e4 => 1 | .e16 => 1 | .e64 => 2 | .e128 => 4

/-- Reduction slots: 1,024 per core (Table 0.2). -/
def slots (c : Configuration) : Nat := 1024 * cores c

/-- Part number (R411, R425). -/
def part : Configuration → Nat
  | .e1 => 0xE001 | .e4 => 0xE004 | .e16 => 0xE016 | .e64 => 0xE064 | .e128 => 0xE128

/-- The clusters of a VCORE group (R349). -/
def groupClusters : Configuration → Nat → List Nat
  | .e128, g | .e64, g => [2 * g, 2 * g + 1]
  | _, _ => [0]

/-- The VCORE group of a cluster (R349). -/
def clusterGroup : Configuration → Nat → Nat
  | .e128, c | .e64, c => c / 2
  | _, _ => 0

/-- Whether sensor k's site exists (Table 14.14). -/
def sensorPresent (c : Configuration) (k : Nat) : Bool :=
  if k < 32 then decide (k / 4 < clusters c)
  else if k = 35 then decide (c = .e128)
  else decide (k < 40)

/-- Silicon revision, 4 bits (R425). Open: the part's. -/
opaque rev : Nat

/-- The part's identity from its fuses (R427). Open: the part's. -/
opaque uid : BitVec 64

/-- A fresh value that nothing constrains, by the count of free values drawn so far (log entry 2). -/
opaque freeWord : Nat → BitVec 64

/-- What a read of a register of the scanned logic returns after a scan, by the count of free values and the register's key: the
scan destroys the state of the logic (R385, log entry 25). -/
opaque scanWord : Nat → Nat → BitVec 64

/-- Whether every monitored rail is within its limits, while the host may remove them in Hibernate (R357, R414), by the count of free
values drawn so far (log entry 134). -/
opaque railsUp : Nat → Bool

/-- What a unit makes of a value between two formats that Table 2.6 does not pair (R54, log entry 142): from, to, the operand's bits. -/
opaque unlisted : Nat → Nat → Nat → BitVec 64

/-- The manufacturer's code of IDCODE, 11 bits (R411). Open: the part's. -/
opaque manufacturer : BitVec 11

/-- Whether TAMPER_N is low, once it has been low for a tamper event, by the count of free values drawn so far: no command says
when it rises again (log entry 66). -/
opaque tamperLow : Nat → Bool

/-- A fresh byte that nothing constrains. -/
opaque freeByte : Nat → BitVec 8

/-- One instruction of the management controller, whose instruction set the spec does not give (Table 13.20). -/
opaque mcStep : Nat → Nat

/-- Whether (r, s) is a valid ECDSA signature on P-384 over a digest under the vendor key in ROM (R379); the key is not
given. -/
opaque sigValid : Nat → Nat → Nat → Bool

/-- Whether a format version of the calibration set is one the firmware accepts (R388); the number is not given. -/
opaque calFormatOk : Nat → Bool

/-- TJ_THROTTLE and TJ_TRIP above the low end of their ranges, in 0.25 °C, from words 0x12A8 to 0x1307 of the set (Table
13.10, R415); their coding is not given. -/
opaque calTjThrottle : List (BitVec 64) → Nat
opaque calTjTrip : List (BitVec 64) → Nat

/-- Whether position `elem` (outermost index first) of the padded layout of a stash entry is padding (R201); the layout of a
pushed tensor is not given. -/
opaque stashPadding : Nat → Nat → Nat → Bool

/-- The body of a message, whose layout the spec does not give but for the header of a remote access (R247, log entry 132). -/
opaque msgBytes : NetMsg → List Byte

end Sys2Proof.Config
end

