-- ==== Sys2Proof/Machine/Cells.lean ====
section
/-!
DEFINITION. Sys2Proof/Machine/Cells.lean: sparse data by key in ONE canonical form (keys strictly rising, no entry equal
to what an unlisted key reads as), for memories, register words and token counts.
-/
namespace Sys2Proof.Machine

/-- Sparse data: key and value, keys strictly rising. -/
abbrev Cells (α : Type) := List (Nat × α)

/-- The value at key k; `d` says what an unlisted key reads as. -/
def cellGet {α : Type} (d : Nat → α) : Cells α → Nat → α
  | [], k => d k
  | (a, v) :: t, k => if a = k then v else if k < a then d k else cellGet d t k

/-- Put v at key k in a list of rising keys, in front of the first key above k. -/
def cellInsert {α : Type} (k : Nat) (v : α) : Cells α → Cells α
  | [] => [(k, v)]
  | (a, w) :: t => if a < k then (a, w) :: cellInsert k v t else if a = k then (k, v) :: t else (k, v) :: (a, w) :: t

/-- Remove key k from a list of rising keys. -/
def cellErase {α : Type} (k : Nat) : Cells α → Cells α
  | [] => []
  | (a, w) :: t => if a < k then (a, w) :: cellErase k t else if a = k then t else (a, w) :: t

/-- Write v at key k: the value an unlisted key reads as removes the entry. -/
def cellSet {α : Type} [DecidableEq α] (d : Nat → α) (c : Cells α) (k : Nat) (v : α) : Cells α :=
  if v = d k then cellErase k c else cellInsert k v c

/-- The canonical form: every key above `lo` (none: no bound), rising, no entry equal to its default. -/
def cellWfFrom {α : Type} [DecidableEq α] (d : Nat → α) : Option Nat → Cells α → Bool
  | _, [] => true
  | lo, (a, v) :: t => (match lo with | none => true | some b => decide (b < a)) && decide (v ≠ d a) && cellWfFrom d (some a) t

/-- The canonical form of sparse data. -/
def cellWf {α : Type} [DecidableEq α] (d : Nat → α) (c : Cells α) : Bool := cellWfFrom d none c

end Sys2Proof.Machine
end

