-- ==== Sys2Proof/Machine/Regs.lean ====
section
/-!
DEFINITION. Sys2Proof/Machine/Regs.lean: the control-port register map of Table 15.1 (R418) and every field table: place, width, access code
and reset value of each field (the tables of the chapters that Table 15.1 cites). A reset of NV, Sampled, Pins or Fuses
stands as 0 here: the load or the view gives the value.
-/
namespace Sys2Proof.Machine

/-- Register access codes (Table 0.6). -/
inductive Access where
  | ro | rw | w1c | w1s | wo | rwp | rwl
deriving DecidableEq, Repr

/-- The registers of Table 15.1, in address order; a repeated one has a unit number beside it. -/
inductive RegKind where
  | idPart | idCap | idStrap | idUid | cfgImage | cfgCtrl | cfgAdmit | cfgImgid | cfgDispatch | cfgMprop | cfgMstat | cfgSpcap | cfgRegion | cfgRegstat | seqCtrl | seqStatus | seqEpoch | seqFault | seqToksel | seqToken | seqDoorbell | seqQsel | seqQueue | arrCfg | arrStatus | arrPerf | arrBuferr | accCfg | accTile | accSatflag | accStatus | accDrain | accErr | sclCfg | sclSel | sclEntry | sclEntry2 | sclScale | sclPend | sclPeck | sclCnt | sclCntLast | sclSpill | sclStatus | sclFlagged | sclCtrl | layCfg | layStatus | layPerf | layNarrow | layIdxdrop | laySperr | laySpstat | layKeg | layStash | updCfg | updStatus | updNorm | updClip | updLr | updPerf | updErr | updLaysel | updLaystate | updLayinfo | mapChain | mapHead | mapSlots | mapRing | mapReshard | mapStatus | mapStale | furCfg | furLink | furFec | furRetry | furPerf | furCtrl | snpCfg | snpSched | snpStatus | snpSlota | snpSlotb | snpFill | snpPartner | snpCtrl | snpErr | pwrCtrl | pwrStatus | pwrReset | pwrThrot | pwrPace | pwrTherm | pwrClk | pwrVgrp | secState | secCmd | secPcmd | secCmdstat | secPolicy | secFw | secTamper | dbgCtrl | dbgStatus | calStatus | calSel | calData | calStage | mgtTime | mgtIrqPend | mgtIrqEn | mgtLogStatus | mgtLogSel | mgtLogE0 | mgtLogE1 | mgtLogE2 | mgtLogE3 | mgtCperr | mgtErrsum | mgtPwrTotal | mgtCtrl | mgtTemp | mgtClpwr
deriving DecidableEq, Repr

/-- A register: its kind and its unit (context, core, port, region, cluster, group or sensor; 0 for a single one). -/
structure Reg where
  kind : RegKind
  unit : Nat
deriving DecidableEq, Repr

/-- A field of a register. -/
structure Fld where
  kind : RegKind
  lo : Nat
  width : Nat
  access : Access
  reset : Nat
deriving DecidableEq, Repr


/-! ID.PART: R425, Table 15.3. -/
def idPartPart : Fld := ⟨.idPart, 0, 16, .ro, 0⟩
def idPartRev : Fld := ⟨.idPart, 16, 4, .ro, 0⟩
def idPartMapver : Fld := ⟨.idPart, 20, 8, .ro, 1⟩

/-! ID.CAP: R11, Table 0.4. -/
def idCapCores : Fld := ⟨.idCap, 0, 8, .ro, 0⟩
def idCapClusters : Fld := ⟨.idCap, 8, 4, .ro, 0⟩
def idCapSports : Fld := ⟨.idCap, 12, 6, .ro, 0⟩
def idCapFports : Fld := ⟨.idCap, 18, 5, .ro, 0⟩
def idCapUnits : Fld := ⟨.idCap, 23, 5, .ro, 0⟩
def idCapCtx : Fld := ⟨.idCap, 28, 7, .ro, 0⟩
def idCapKegMib : Fld := ⟨.idCap, 35, 10, .ro, 0⟩

/-! ID.STRAP: R426, Table 15.4. -/
def idStrapFeedId : Fld := ⟨.idStrap, 0, 4, .ro, 0⟩
def idStrapFeedNow : Fld := ⟨.idStrap, 4, 4, .ro, 0⟩
def idStrapChanged : Fld := ⟨.idStrap, 8, 1, .w1c, 0⟩

/-! ID.UID: R427, Table 15.5. -/
def idUidUid : Fld := ⟨.idUid, 0, 64, .ro, 0⟩

/-! CFG.IMAGE: R318, Table 10.12. -/
def cfgImageOffset : Fld := ⟨.cfgImage, 0, 24, .rwl, 0⟩

/-! CFG.CTRL: R318, Table 10.13. -/
def cfgCtrlAdmit : Fld := ⟨.cfgCtrl, 0, 1, .wo, 0⟩
def cfgCtrlDispatch : Fld := ⟨.cfgCtrl, 1, 1, .wo, 0⟩
def cfgCtrlUnload : Fld := ⟨.cfgCtrl, 2, 1, .wo, 0⟩

/-! CFG.ADMIT: R318, Table 10.14. -/
def cfgAdmitState : Fld := ⟨.cfgAdmit, 0, 3, .ro, 0⟩
def cfgAdmitCode : Fld := ⟨.cfgAdmit, 3, 4, .ro, 0⟩
def cfgAdmitMask : Fld := ⟨.cfgAdmit, 7, 10, .ro, 0⟩
def cfgAdmitSection : Fld := ⟨.cfgAdmit, 17, 4, .ro, 0⟩
def cfgAdmitIndex : Fld := ⟨.cfgAdmit, 21, 24, .ro, 0⟩

/-! CFG.IMGID: R318, Table 10.15. -/
def cfgImgidImageId : Fld := ⟨.cfgImgid, 0, 32, .ro, 0⟩
def cfgImgidVersion : Fld := ⟨.cfgImgid, 32, 16, .ro, 0⟩

/-! CFG.DISPATCH: R318, Table 10.16. -/
def cfgDispatchStep : Fld := ⟨.cfgDispatch, 0, 32, .rwl, 0⟩

/-! CFG.MPROP: R318, Table 10.17. -/
def cfgMpropEntry : Fld := ⟨.cfgMprop, 0, 16, .wo, 0⟩

/-! CFG.MSTAT: R318, Table 10.18. -/
def cfgMstatPending : Fld := ⟨.cfgMstat, 0, 1, .ro, 0⟩
def cfgMstatEntry : Fld := ⟨.cfgMstat, 1, 16, .ro, 0⟩
def cfgMstatLastResult : Fld := ⟨.cfgMstat, 17, 2, .ro, 0⟩
def cfgMstatAborts : Fld := ⟨.cfgMstat, 19, 16, .ro, 0⟩
def cfgMstatQueued : Fld := ⟨.cfgMstat, 35, 5, .ro, 0⟩
def cfgMstatCommitAbort : Fld := ⟨.cfgMstat, 40, 1, .w1c, 0⟩

/-! CFG.SPCAP: R219, Table 7.9. -/
def cfgSpcapCapGib : Fld := ⟨.cfgSpcap, 0, 8, .rwl, 0⟩
def cfgSpcapDataGib : Fld := ⟨.cfgSpcap, 8, 12, .ro, 0⟩
def cfgSpcapLocked : Fld := ⟨.cfgSpcap, 20, 1, .ro, 0⟩

/-! CFG.REGION0 to REGION6: R219, Table 7.10. -/
def cfgRegionBase : Fld := ⟨.cfgRegion, 0, 16, .rwl, 0⟩
def cfgRegionSize : Fld := ⟨.cfgRegion, 16, 16, .rwl, 0⟩
def cfgRegionCoded : Fld := ⟨.cfgRegion, 32, 1, .ro, 0⟩

/-! CFG.REGSTAT: R219, Table 7.11. -/
def cfgRegstatOverlap : Fld := ⟨.cfgRegstat, 0, 1, .ro, 0⟩
def cfgRegstatBeyond : Fld := ⟨.cfgRegstat, 1, 1, .ro, 0⟩

/-! SEQ.CTRL: R319, Table 10.20. -/
def seqCtrlPreempt : Fld := ⟨.seqCtrl, 0, 1, .wo, 0⟩
def seqCtrlResume : Fld := ⟨.seqCtrl, 1, 1, .wo, 0⟩

/-! SEQ.STATUS: R319, Table 10.21. -/
def seqStatusState : Fld := ⟨.seqStatus, 0, 3, .ro, 0⟩
def seqStatusMb : Fld := ⟨.seqStatus, 3, 11, .ro, 0⟩
def seqStatusBucket : Fld := ⟨.seqStatus, 14, 4, .ro, 0⟩
def seqStatusRestarts : Fld := ⟨.seqStatus, 18, 16, .ro, 0⟩
def seqStatusTokovf : Fld := ⟨.seqStatus, 34, 1, .w1c, 0⟩
def seqStatusFaulted : Fld := ⟨.seqStatus, 35, 1, .w1c, 0⟩
def seqStatusQueues : Fld := ⟨.seqStatus, 36, 9, .ro, 0⟩

/-! SEQ.EPOCH: R319, Table 10.22. -/
def seqEpochStep : Fld := ⟨.seqEpoch, 0, 32, .ro, 0⟩
def seqEpochProbe : Fld := ⟨.seqEpoch, 32, 1, .ro, 0⟩

/-! SEQ.FAULT: R319, Table 10.23. -/
def seqFaultName : Fld := ⟨.seqFault, 0, 4, .ro, 0⟩
def seqFaultAction : Fld := ⟨.seqFault, 4, 2, .ro, 0⟩
def seqFaultQueue : Fld := ⟨.seqFault, 6, 9, .ro, 0⟩
def seqFaultEntry : Fld := ⟨.seqFault, 15, 24, .ro, 0⟩
def seqFaultOrigin : Fld := ⟨.seqFault, 39, 3, .ro, 0⟩
def seqFaultStepLo : Fld := ⟨.seqFault, 42, 16, .ro, 0⟩

/-! SEQ.TOKSEL: R319, Table 10.24. -/
def seqTokselToken : Fld := ⟨.seqToksel, 0, 12, .rw, 0⟩

/-! SEQ.TOKEN: R319, Table 10.25. -/
def seqTokenCount : Fld := ⟨.seqToken, 0, 16, .ro, 0⟩
def seqTokenScope : Fld := ⟨.seqToken, 16, 2, .ro, 0⟩
def seqTokenSource : Fld := ⟨.seqToken, 18, 3, .ro, 0⟩
def seqTokenWaiters : Fld := ⟨.seqToken, 21, 9, .ro, 0⟩
def seqTokenDeclared : Fld := ⟨.seqToken, 30, 1, .ro, 0⟩

/-! SEQ.DOORBELL: R319, Table 10.26. -/
def seqDoorbellToken : Fld := ⟨.seqDoorbell, 0, 12, .wo, 0⟩

/-! SEQ.QSEL: R319, Table 10.27. -/
def seqQselQueue : Fld := ⟨.seqQsel, 0, 9, .rw, 0⟩

/-! SEQ.QUEUE: R319, Table 10.28. -/
def seqQueuePtr : Fld := ⟨.seqQueue, 0, 24, .ro, 0⟩
def seqQueueWaiting : Fld := ⟨.seqQueue, 24, 1, .ro, 0⟩
def seqQueueEnded : Fld := ⟨.seqQueue, 25, 1, .ro, 0⟩
def seqQueueWaitTok : Fld := ⟨.seqQueue, 26, 12, .ro, 0⟩

/-! ARR.CFG: R89, Table 3.9. -/
def arrCfgAssigned : Fld := ⟨.arrCfg, 0, 1, .ro, 0⟩
def arrCfgSplit : Fld := ⟨.arrCfg, 1, 1, .ro, 0⟩
def arrCfgCtxA : Fld := ⟨.arrCfg, 2, 6, .ro, 0⟩
def arrCfgCtxB : Fld := ⟨.arrCfg, 8, 6, .ro, 0⟩

/-! ARR.STATUS: R90, Table 3.10. -/
def arrStatusPoisonA : Fld := ⟨.arrStatus, 0, 1, .w1c, 0⟩
def arrStatusPoisonB : Fld := ⟨.arrStatus, 1, 1, .w1c, 0⟩
def arrStatusIexpA : Fld := ⟨.arrStatus, 2, 1, .w1c, 0⟩
def arrStatusIexpB : Fld := ⟨.arrStatus, 3, 1, .w1c, 0⟩
def arrStatusStoppedA : Fld := ⟨.arrStatus, 4, 1, .ro, 0⟩
def arrStatusStoppedB : Fld := ⟨.arrStatus, 5, 1, .ro, 0⟩

/-! ARR.PERF: R91, Table 3.11. -/
def arrPerfPasses : Fld := ⟨.arrPerf, 0, 32, .ro, 0⟩
def arrPerfGaps : Fld := ⟨.arrPerf, 32, 32, .ro, 0⟩

/-! ARR.BUFERR: R92, Table 3.12. -/
def arrBuferrCorrCnt : Fld := ⟨.arrBuferr, 0, 16, .ro, 0⟩
def arrBuferrUncorrCnt : Fld := ⟨.arrBuferr, 16, 8, .ro, 0⟩
def arrBuferrLastBank : Fld := ⟨.arrBuferr, 24, 5, .ro, 0⟩
def arrBuferrLastLine : Fld := ⟨.arrBuferr, 29, 11, .ro, 0⟩
def arrBuferrLastUncorr : Fld := ⟨.arrBuferr, 40, 1, .ro, 0⟩

/-! ACC.CFG: R123, Table 4.11. -/
def accCfgSlotsA : Fld := ⟨.accCfg, 0, 14, .ro, 0⟩
def accCfgSlotsB : Fld := ⟨.accCfg, 14, 14, .ro, 0⟩
def accCfgDemandA : Fld := ⟨.accCfg, 28, 14, .ro, 0⟩
def accCfgDemandB : Fld := ⟨.accCfg, 42, 14, .ro, 0⟩

/-! ACC.TILE: R124, Table 4.12. -/
def accTileA0State : Fld := ⟨.accTile, 0, 2, .ro, 0⟩
def accTileA0Tag : Fld := ⟨.accTile, 2, 14, .ro, 0⟩
def accTileA1State : Fld := ⟨.accTile, 16, 2, .ro, 0⟩
def accTileA1Tag : Fld := ⟨.accTile, 18, 14, .ro, 0⟩
def accTileB0State : Fld := ⟨.accTile, 32, 2, .ro, 0⟩
def accTileB0Tag : Fld := ⟨.accTile, 34, 14, .ro, 0⟩
def accTileB1State : Fld := ⟨.accTile, 48, 2, .ro, 0⟩
def accTileB1Tag : Fld := ⟨.accTile, 50, 14, .ro, 0⟩

/-! ACC.SATFLAG: R125, Table 4.13. -/
def accSatflagSatA0 : Fld := ⟨.accSatflag, 0, 1, .w1c, 0⟩
def accSatflagSatA1 : Fld := ⟨.accSatflag, 1, 1, .w1c, 0⟩
def accSatflagSatB0 : Fld := ⟨.accSatflag, 2, 1, .w1c, 0⟩
def accSatflagSatB1 : Fld := ⟨.accSatflag, 3, 1, .w1c, 0⟩
def accSatflagSatCnt : Fld := ⟨.accSatflag, 16, 32, .ro, 0⟩

/-! ACC.STATUS: R126, Table 4.14. -/
def accStatusCollideA : Fld := ⟨.accStatus, 0, 1, .w1c, 0⟩
def accStatusCollideB : Fld := ⟨.accStatus, 1, 1, .w1c, 0⟩
def accStatusHaltA : Fld := ⟨.accStatus, 2, 1, .ro, 0⟩
def accStatusHaltB : Fld := ⟨.accStatus, 3, 1, .ro, 0⟩
def accStatusDrainPoisonA : Fld := ⟨.accStatus, 4, 1, .w1c, 0⟩
def accStatusDrainPoisonB : Fld := ⟨.accStatus, 5, 1, .w1c, 0⟩

/-! ACC.DRAIN: R127, Table 4.15. -/
def accDrainRowsDoneA : Fld := ⟨.accDrain, 0, 8, .ro, 0⟩
def accDrainRowsDoneB : Fld := ⟨.accDrain, 8, 8, .ro, 0⟩
def accDrainAddA : Fld := ⟨.accDrain, 16, 1, .ro, 0⟩
def accDrainAddB : Fld := ⟨.accDrain, 17, 1, .ro, 0⟩

/-! ACC.ERR: R128, Table 4.16. -/
def accErrCorrCnt : Fld := ⟨.accErr, 0, 16, .ro, 0⟩
def accErrUncorrCnt : Fld := ⟨.accErr, 16, 8, .ro, 0⟩
def accErrLastSpill : Fld := ⟨.accErr, 24, 1, .ro, 0⟩
def accErrLastIndex : Fld := ⟨.accErr, 25, 13, .ro, 0⟩
def accErrLastUncorr : Fld := ⟨.accErr, 38, 1, .ro, 0⟩

/-! SCL.CFG: R184, Table 6.7. -/
def sclCfgTensors : Fld := ⟨.sclCfg, 0, 15, .ro, 0⟩
def sclCfgPolicy : Fld := ⟨.sclCfg, 15, 1, .ro, 0⟩
def sclCfgAutoWiden : Fld := ⟨.sclCfg, 16, 1, .ro, 0⟩

/-! SCL.SEL: R185, Table 6.8. -/
def sclSelTnum : Fld := ⟨.sclSel, 0, 14, .rw, 0⟩
def sclSelAge : Fld := ⟨.sclSel, 14, 4, .rw, 0⟩

/-! SCL.ENTRY: R186, Table 6.9. -/
def sclEntryKind : Fld := ⟨.sclEntry, 0, 3, .ro, 0⟩
def sclEntryFormat : Fld := ⟨.sclEntry, 3, 4, .ro, 0⟩
def sclEntryNbits : Fld := ⟨.sclEntry, 7, 3, .ro, 0⟩
def sclEntryScope : Fld := ⟨.sclEntry, 10, 1, .ro, 0⟩
def sclEntryResid : Fld := ⟨.sclEntry, 11, 1, .ro, 0⟩
def sclEntryWindowM1 : Fld := ⟨.sclEntry, 12, 4, .ro, 0⟩
def sclEntryMargin : Fld := ⟨.sclEntry, 16, 4, .ro, 0⟩
def sclEntryOt : Fld := ⟨.sclEntry, 20, 8, .ro, 0⟩
def sclEntrySpillLimit : Fld := ⟨.sclEntry, 28, 12, .ro, 0⟩
def sclEntryLayer : Fld := ⟨.sclEntry, 40, 12, .ro, 0⟩
def sclEntryRxMode : Fld := ⟨.sclEntry, 52, 1, .ro, 0⟩
def sclEntryInitValid : Fld := ⟨.sclEntry, 53, 1, .ro, 0⟩
def sclEntryInitSe : Fld := ⟨.sclEntry, 54, 8, .ro, 0⟩
def sclEntryLoaded : Fld := ⟨.sclEntry, 62, 1, .ro, 0⟩

/-! SCL.ENTRY2: R186, Table 6.10. -/
def sclEntry2Gt : Fld := ⟨.sclEntry2, 0, 14, .ro, 0⟩
def sclEntry2Rt : Fld := ⟨.sclEntry2, 14, 8, .ro, 0⟩
def sclEntry2RxInit : Fld := ⟨.sclEntry2, 22, 7, .ro, 0⟩
def sclEntry2Nvar : Fld := ⟨.sclEntry2, 29, 3, .ro, 0⟩

/-! SCL.SCALE: R187, Table 6.11. -/
def sclScaleSe : Fld := ⟨.sclScale, 0, 8, .ro, 0⟩
def sclScaleSePrev : Fld := ⟨.sclScale, 8, 8, .ro, 0⟩
def sclScaleRx : Fld := ⟨.sclScale, 16, 7, .ro, 0⟩
def sclScaleHead : Fld := ⟨.sclScale, 23, 4, .ro, 0⟩
def sclScaleValid : Fld := ⟨.sclScale, 27, 5, .ro, 0⟩
def sclScaleClamp : Fld := ⟨.sclScale, 32, 1, .ro, 0⟩
def sclScaleFlagged : Fld := ⟨.sclScale, 33, 1, .w1c, 0⟩
def sclScaleVariant : Fld := ⟨.sclScale, 34, 3, .ro, 0⟩

/-! SCL.PEND: R188, Table 6.12. -/
def sclPendAmax : Fld := ⟨.sclPend, 0, 31, .ro, 0⟩
def sclPendNf : Fld := ⟨.sclPend, 31, 1, .ro, 0⟩
def sclPendNone : Fld := ⟨.sclPend, 32, 1, .ro, 1⟩
def sclPendEarly : Fld := ⟨.sclPend, 33, 1, .ro, 0⟩

/-! SCL.PECK: R189, Table 6.13. -/
def sclPeckAmax : Fld := ⟨.sclPeck, 0, 31, .ro, 0x7FFFFFFF⟩
def sclPeckNf : Fld := ⟨.sclPeck, 31, 1, .ro, 0⟩

/-! SCL.CNT: R190, Table 6.14. -/
def sclCntOvf : Fld := ⟨.sclCnt, 0, 32, .ro, 0⟩
def sclCntUnf : Fld := ⟨.sclCnt, 32, 32, .ro, 0⟩

/-! SCL.CNT_LAST: R190, Table 6.15. -/
def sclCntLastOvfLast : Fld := ⟨.sclCntLast, 0, 32, .ro, 0⟩
def sclCntLastUnfLast : Fld := ⟨.sclCntLast, 32, 32, .ro, 0⟩

/-! SCL.SPILL: R190, Table 6.16. -/
def sclSpillSpill : Fld := ⟨.sclSpill, 0, 32, .ro, 0⟩
def sclSpillSpillLast : Fld := ⟨.sclSpill, 32, 32, .ro, 0⟩

/-! SCL.STATUS: R191, Table 6.17. -/
def sclStatusOvfAny : Fld := ⟨.sclStatus, 0, 1, .w1c, 0⟩
def sclStatusUnfAny : Fld := ⟨.sclStatus, 1, 1, .w1c, 0⟩
def sclStatusSpillAny : Fld := ⟨.sclStatus, 2, 1, .w1c, 0⟩
def sclStatusNfAny : Fld := ⟨.sclStatus, 3, 1, .w1c, 0⟩
def sclStatusClampAny : Fld := ⟨.sclStatus, 4, 1, .w1c, 0⟩
def sclStatusLate : Fld := ⟨.sclStatus, 5, 1, .w1c, 0⟩
def sclStatusFlaggedAny : Fld := ⟨.sclStatus, 6, 1, .w1c, 0⟩
def sclStatusHistLost : Fld := ⟨.sclStatus, 7, 1, .w1c, 0⟩
def sclStatusProbeReq : Fld := ⟨.sclStatus, 8, 1, .ro, 0⟩
def sclStatusProbeActive : Fld := ⟨.sclStatus, 9, 1, .ro, 0⟩
def sclStatusFolding : Fld := ⟨.sclStatus, 10, 1, .ro, 0⟩

/-! SCL.FLAGGED: R192, Table 6.18. -/
def sclFlaggedCount : Fld := ⟨.sclFlagged, 0, 15, .ro, 0⟩
def sclFlaggedFirst : Fld := ⟨.sclFlagged, 15, 14, .ro, 0⟩

/-! SCL.CTRL: R193, Table 6.19. -/
def sclCtrlInval : Fld := ⟨.sclCtrl, 0, 1, .wo, 0⟩
def sclCtrlInvalAll : Fld := ⟨.sclCtrl, 1, 1, .wo, 0⟩
def sclCtrlClrFlags : Fld := ⟨.sclCtrl, 2, 1, .wo, 0⟩

/-! LAY.CFG: R155, Table 5.9. -/
def layCfgMovers : Fld := ⟨.layCfg, 0, 5, .ro, 16⟩
def layCfgHolders : Fld := ⟨.layCfg, 5, 14, .ro, 0⟩

/-! LAY.STATUS: R156, Table 5.10. -/
def layStatusBusy : Fld := ⟨.layStatus, 0, 16, .ro, 0⟩
def layStatusPoisonW : Fld := ⟨.layStatus, 16, 1, .w1c, 0⟩
def layStatusIdxFault : Fld := ⟨.layStatus, 17, 1, .w1c, 0⟩
def layStatusSat : Fld := ⟨.layStatus, 18, 1, .w1c, 0⟩
def layStatusNarrowBusy : Fld := ⟨.layStatus, 19, 1, .ro, 0⟩

/-! LAY.PERF: R157, Table 5.11. -/
def layPerfFullBeats : Fld := ⟨.layPerf, 0, 32, .ro, 0⟩
def layPerfSlowBeats : Fld := ⟨.layPerf, 32, 32, .ro, 0⟩

/-! LAY.NARROW: R158, Table 5.12. -/
def layNarrowOwner : Fld := ⟨.layNarrow, 0, 2, .ro, 0⟩
def layNarrowBytes : Fld := ⟨.layNarrow, 2, 32, .ro, 0⟩

/-! LAY.IDXDROP: R159, Table 5.13. -/
def layIdxdropCount : Fld := ⟨.layIdxdrop, 0, 32, .rw, 0⟩
def layIdxdropFaulted : Fld := ⟨.layIdxdrop, 32, 1, .w1c, 0⟩

/-! LAY.SPERR: R219, Table 7.12. -/
def laySperrCorrCnt : Fld := ⟨.laySperr, 0, 16, .ro, 0⟩
def laySperrUncorrCnt : Fld := ⟨.laySperr, 16, 16, .ro, 0⟩
def laySperrPoisonRd : Fld := ⟨.laySperr, 32, 16, .ro, 0⟩

/-! LAY.SPSTAT: R219, Table 7.13. -/
def laySpstatFailed : Fld := ⟨.laySpstat, 0, 1, .ro, 0⟩
def laySpstatTimeout : Fld := ⟨.laySpstat, 1, 1, .w1c, 0⟩
def laySpstatBadtag : Fld := ⟨.laySpstat, 2, 1, .w1c, 0⟩
def laySpstatCtrlErr : Fld := ⟨.laySpstat, 3, 1, .w1c, 0⟩
def laySpstatOutRd : Fld := ⟨.laySpstat, 4, 11, .ro, 0⟩
def laySpstatOutWr : Fld := ⟨.laySpstat, 15, 11, .ro, 0⟩

/-! LAY.KEG: R219, Table 7.14. -/
def layKegCorrCnt : Fld := ⟨.layKeg, 0, 16, .ro, 0⟩
def layKegUncorrCnt : Fld := ⟨.layKeg, 16, 8, .ro, 0⟩
def layKegLastBank : Fld := ⟨.layKeg, 24, 6, .ro, 0⟩
def layKegLastLine : Fld := ⟨.layKeg, 30, 17, .ro, 0⟩
def layKegLastUncorr : Fld := ⟨.layKeg, 47, 1, .ro, 0⟩

/-! LAY.STASH: R219, Table 7.15. -/
def layStashBucketLast : Fld := ⟨.layStash, 0, 4, .ro, 0⟩
def layStashRefused : Fld := ⟨.layStash, 4, 16, .ro, 0⟩
def layStashHole : Fld := ⟨.layStash, 20, 1, .w1c, 0⟩
def layStashHoleCnt : Fld := ⟨.layStash, 21, 32, .ro, 0⟩
def layStashPushWait : Fld := ⟨.layStash, 53, 1, .ro, 0⟩

/-! UPD.CFG: R240, Table 8.6. -/
def updCfgUnits : Fld := ⟨.updCfg, 0, 5, .ro, 0⟩
def updCfgClipMode : Fld := ⟨.updCfg, 5, 2, .ro, 0⟩
def updCfgNfPolicy : Fld := ⟨.updCfg, 7, 1, .ro, 0⟩
def updCfgLayers : Fld := ⟨.updCfg, 8, 13, .ro, 0⟩
def updCfgLrPoints : Fld := ⟨.updCfg, 21, 11, .ro, 0⟩

/-! UPD.STATUS: R240, Table 8.7. -/
def updStatusBusy : Fld := ⟨.updStatus, 0, 16, .ro, 0⟩
def updStatusWaitClip : Fld := ⟨.updStatus, 16, 1, .ro, 0⟩
def updStatusNfSeen : Fld := ⟨.updStatus, 17, 1, .w1c, 0⟩
def updStatusSkipped : Fld := ⟨.updStatus, 18, 1, .w1c, 0⟩
def updStatusPoisonW : Fld := ⟨.updStatus, 19, 1, .w1c, 0⟩
def updStatusDrainHold : Fld := ⟨.updStatus, 20, 1, .ro, 0⟩

/-! UPD.NORM: R240, Table 8.8. -/
def updNormNormLast : Fld := ⟨.updNorm, 0, 32, .ro, 0x7FC00000⟩
def updNormLocalSq : Fld := ⟨.updNorm, 32, 32, .ro, 0⟩

/-! UPD.CLIP: R240, Table 8.9. -/
def updClipFactor : Fld := ⟨.updClip, 0, 32, .ro, 0x3F800000⟩
def updClipValid : Fld := ⟨.updClip, 32, 1, .ro, 0⟩
def updClipSource : Fld := ⟨.updClip, 33, 2, .ro, 0⟩
def updClipVerdictNf : Fld := ⟨.updClip, 35, 1, .ro, 0⟩

/-! UPD.LR: R240, Table 8.10. -/
def updLrLrt : Fld := ⟨.updLr, 0, 32, .ro, 0⟩
def updLrSeg : Fld := ⟨.updLr, 32, 10, .ro, 0⟩

/-! UPD.PERF: R240, Table 8.11. -/
def updPerfElements : Fld := ⟨.updPerf, 0, 48, .ro, 0⟩
def updPerfSkips : Fld := ⟨.updPerf, 48, 16, .ro, 0⟩

/-! UPD.ERR: R240, Table 8.12. -/
def updErrCorrCnt : Fld := ⟨.updErr, 0, 16, .ro, 0⟩
def updErrUncorrCnt : Fld := ⟨.updErr, 16, 8, .ro, 0⟩
def updErrLastUnit : Fld := ⟨.updErr, 24, 4, .ro, 0⟩
def updErrLastUncorr : Fld := ⟨.updErr, 28, 1, .ro, 0⟩

/-! UPD.LAYSEL: R240, Table 8.13. -/
def updLayselLayer : Fld := ⟨.updLaysel, 0, 12, .rw, 0⟩

/-! UPD.LAYSTATE: R240, Table 8.14. -/
def updLaystateP1 : Fld := ⟨.updLaystate, 0, 32, .ro, 0x3F800000⟩
def updLaystateP2 : Fld := ⟨.updLaystate, 32, 32, .ro, 0x3F800000⟩

/-! UPD.LAYINFO: R240, Table 8.15. -/
def updLayinfoFamily : Fld := ⟨.updLayinfo, 0, 2, .ro, 0⟩
def updLayinfoDecay : Fld := ⟨.updLayinfo, 2, 2, .ro, 0⟩
def updLayinfoBias : Fld := ⟨.updLayinfo, 4, 1, .ro, 0⟩
def updLayinfoDone : Fld := ⟨.updLayinfo, 5, 1, .ro, 0⟩
def updLayinfoApplied : Fld := ⟨.updLayinfo, 6, 32, .ro, 0⟩

/-! MAP.CHAIN: R278, Table 9.12. -/
def mapChainRank : Fld := ⟨.mapChain, 0, 10, .ro, 0⟩
def mapChainSizeM1 : Fld := ⟨.mapChain, 10, 10, .ro, 0⟩
def mapChainNdM1 : Fld := ⟨.mapChain, 20, 10, .ro, 0⟩
def mapChainNsM1 : Fld := ⟨.mapChain, 30, 10, .ro, 0⟩
def mapChainNmM1 : Fld := ⟨.mapChain, 40, 10, .ro, 0⟩
def mapChainIsHead : Fld := ⟨.mapChain, 50, 1, .ro, 0⟩
def mapChainChainId : Fld := ⟨.mapChain, 51, 12, .ro, 0⟩

/-! MAP.HEAD: R278, Table 9.13. -/
def mapHeadReported : Fld := ⟨.mapHead, 0, 11, .ro, 0⟩
def mapHeadWait : Fld := ⟨.mapHead, 11, 1, .ro, 0⟩
def mapHeadFailedRpt : Fld := ⟨.mapHead, 12, 1, .w1c, 0⟩
def mapHeadProbeNext : Fld := ⟨.mapHead, 13, 1, .ro, 0⟩
def mapHeadFirstFail : Fld := ⟨.mapHead, 14, 10, .ro, 0⟩

/-! MAP.SLOTS: R278, Table 9.14. -/
def mapSlotsOpen : Fld := ⟨.mapSlots, 0, 18, .ro, 0⟩
def mapSlotsPeak : Fld := ⟨.mapSlots, 18, 18, .ro, 0⟩
def mapSlotsLimit : Fld := ⟨.mapSlots, 36, 18, .ro, 0⟩

/-! MAP.RING: R278, Table 9.15. -/
def mapRingBypPorts : Fld := ⟨.mapRing, 0, 16, .rwl, 0⟩
def mapRingRtmPair : Fld := ⟨.mapRing, 16, 3, .rwl, 0⟩
def mapRingLock : Fld := ⟨.mapRing, 19, 1, .w1s, 0⟩
def mapRingBypAsserted : Fld := ⟨.mapRing, 20, 1, .ro, 1⟩
def mapRingLoopOk : Fld := ⟨.mapRing, 21, 1, .ro, 0⟩
def mapRingJoin : Fld := ⟨.mapRing, 22, 1, .wo, 0⟩
def mapRingLeave : Fld := ⟨.mapRing, 23, 1, .wo, 0⟩
def mapRingRtmActive : Fld := ⟨.mapRing, 24, 1, .ro, 0⟩

/-! MAP.RESHARD: R278, Table 9.16. -/
def mapReshardId : Fld := ⟨.mapReshard, 0, 16, .ro, 0⟩
def mapReshardRound : Fld := ⟨.mapReshard, 16, 16, .ro, 0⟩
def mapReshardRounds : Fld := ⟨.mapReshard, 32, 16, .ro, 0⟩
def mapReshardPhase : Fld := ⟨.mapReshard, 48, 2, .ro, 0⟩
def mapReshardActive : Fld := ⟨.mapReshard, 50, 1, .ro, 0⟩

/-! MAP.STATUS: R278, Table 9.17. -/
def mapStatusHalted : Fld := ⟨.mapStatus, 0, 1, .ro, 0⟩
def mapStatusStale : Fld := ⟨.mapStatus, 1, 1, .w1c, 0⟩
def mapStatusLinkDown : Fld := ⟨.mapStatus, 2, 1, .w1c, 0⟩
def mapStatusStepFailed : Fld := ⟨.mapStatus, 3, 1, .w1c, 0⟩
def mapStatusDownPorts : Fld := ⟨.mapStatus, 4, 16, .ro, 0⟩

/-! MAP.STALE: R278, Table 9.18. -/
def mapStaleHolder : Fld := ⟨.mapStale, 0, 13, .ro, 0⟩
def mapStaleExpect : Fld := ⟨.mapStale, 13, 16, .ro, 0⟩
def mapStaleFound : Fld := ⟨.mapStale, 29, 16, .ro, 0⟩
def mapStaleRank : Fld := ⟨.mapStale, 45, 10, .ro, 0⟩

/-! FUR.CFG: R279, Table 9.20. -/
def furCfgUsed : Fld := ⟨.furCfg, 0, 1, .ro, 0⟩
def furCfgTier : Fld := ⟨.furCfg, 1, 2, .ro, 0⟩
def furCfgFec : Fld := ⟨.furCfg, 3, 1, .ro, 0⟩
def furCfgPeerRank : Fld := ⟨.furCfg, 4, 10, .ro, 0⟩
def furCfgPeerPort : Fld := ⟨.furCfg, 14, 4, .ro, 0⟩

/-! FUR.LINK: R279, Table 9.21. -/
def furLinkState : Fld := ⟨.furLink, 0, 3, .ro, 0⟩
def furLinkCause : Fld := ⟨.furLink, 3, 4, .ro, 0⟩
def furLinkSeenRank : Fld := ⟨.furLink, 7, 10, .ro, 0⟩
def furLinkSeenPort : Fld := ⟨.furLink, 17, 4, .ro, 0⟩
def furLinkRetrains : Fld := ⟨.furLink, 21, 16, .ro, 0⟩

/-! FUR.FEC: R279, Table 9.22. -/
def furFecCorrSym : Fld := ⟨.furFec, 0, 32, .ro, 0⟩
def furFecUncorrCw : Fld := ⟨.furFec, 32, 16, .ro, 0⟩

/-! FUR.RETRY: R279, Table 9.23. -/
def furRetryCrcErr : Fld := ⟨.furRetry, 0, 16, .ro, 0⟩
def furRetryNakTx : Fld := ⟨.furRetry, 16, 16, .ro, 0⟩
def furRetryReplays : Fld := ⟨.furRetry, 32, 16, .ro, 0⟩
def furRetryStomps : Fld := ⟨.furRetry, 48, 16, .ro, 0⟩

/-! FUR.PERF: R279, Table 9.24. -/
def furPerfTxFrames : Fld := ⟨.furPerf, 0, 32, .ro, 0⟩
def furPerfRxFrames : Fld := ⟨.furPerf, 32, 32, .ro, 0⟩

/-! FUR.CTRL: R279, Table 9.25. -/
def furCtrlRetrain : Fld := ⟨.furCtrl, 0, 1, .wo, 0⟩
def furCtrlClrCnt : Fld := ⟨.furCtrl, 1, 1, .wo, 0⟩

/-! SNP.CFG: R345, Table 11.7. -/
def snpCfgNM1 : Fld := ⟨.snpCfg, 0, 4, .ro, 0⟩
def snpCfgPos : Fld := ⟨.snpCfg, 4, 4, .ro, 0⟩
def snpCfgGroup : Fld := ⟨.snpCfg, 8, 9, .ro, 0⟩
def snpCfgPartner : Fld := ⟨.snpCfg, 17, 10, .ro, 0⟩
def snpCfgSource : Fld := ⟨.snpCfg, 27, 10, .ro, 0⟩
def snpCfgCellUnits : Fld := ⟨.snpCfg, 37, 21, .ro, 0⟩
def snpCfgEnabled : Fld := ⟨.snpCfg, 58, 1, .ro, 0⟩

/-! SNP.SCHED: R345, Table 11.8. -/
def snpSchedInterval : Fld := ⟨.snpSched, 0, 16, .ro, 0⟩
def snpSchedLastUs : Fld := ⟨.snpSched, 16, 32, .ro, 0⟩
def snpSchedSkips : Fld := ⟨.snpSched, 48, 16, .ro, 0⟩

/-! SNP.STATUS: R345, Table 11.9. -/
def snpStatusPhase : Fld := ⟨.snpStatus, 0, 4, .ro, 0⟩
def snpStatusUpdHold : Fld := ⟨.snpStatus, 4, 1, .ro, 0⟩
def snpStatusSnapSkip : Fld := ⟨.snpStatus, 5, 1, .w1c, 0⟩
def snpStatusGroupMismatch : Fld := ⟨.snpStatus, 6, 1, .w1c, 0⟩
def snpStatusPartnerLost : Fld := ⟨.snpStatus, 7, 1, .w1c, 0⟩
def snpStatusVerifyFail : Fld := ⟨.snpStatus, 8, 1, .w1c, 0⟩
def snpStatusFallback : Fld := ⟨.snpStatus, 9, 1, .w1c, 0⟩
def snpStatusJobLost : Fld := ⟨.snpStatus, 10, 1, .ro, 0⟩
def snpStatusFilled : Fld := ⟨.snpStatus, 11, 1, .ro, 0⟩
def snpStatusLocalHalt : Fld := ⟨.snpStatus, 12, 1, .ro, 0⟩
def snpStatusSnapPoison : Fld := ⟨.snpStatus, 13, 1, .w1c, 0⟩

/-! SNP.SLOTA: R345, Table 11.10. -/
def snpSlotaStep : Fld := ⟨.snpSlota, 0, 32, .ro, 0⟩
def snpSlotaState : Fld := ⟨.snpSlota, 32, 2, .ro, 0⟩
def snpSlotaImageMatch : Fld := ⟨.snpSlota, 34, 1, .ro, 0⟩

/-! SNP.SLOTB: R345, Table 11.10. -/
def snpSlotbStep : Fld := ⟨.snpSlotb, 0, 32, .ro, 0⟩
def snpSlotbState : Fld := ⟨.snpSlotb, 32, 2, .ro, 0⟩
def snpSlotbImageMatch : Fld := ⟨.snpSlotb, 34, 1, .ro, 0⟩

/-! SNP.FILL: R345, Table 11.11. -/
def snpFillStep : Fld := ⟨.snpFill, 0, 32, .ro, 0⟩
def snpFillErased : Fld := ⟨.snpFill, 32, 5, .ro, 0⟩
def snpFillCellsDone : Fld := ⟨.snpFill, 37, 5, .ro, 0⟩
def snpFillMaxErase : Fld := ⟨.snpFill, 42, 2, .ro, 0⟩

/-! SNP.PARTNER: R345, Table 11.12. -/
def snpPartnerMirrorStep : Fld := ⟨.snpPartner, 0, 32, .ro, 0⟩
def snpPartnerHbAge : Fld := ⟨.snpPartner, 32, 16, .ro, 0⟩
def snpPartnerSrcAlive : Fld := ⟨.snpPartner, 48, 1, .ro, 0⟩

/-! SNP.CTRL: R345, Table 11.13. -/
def snpCtrlRestore : Fld := ⟨.snpCtrl, 0, 1, .wo, 0⟩
def snpCtrlLocalHalt : Fld := ⟨.snpCtrl, 1, 1, .wo, 0⟩

/-! SNP.ERR: R345, Table 11.14. -/
def snpErrCorrCnt : Fld := ⟨.snpErr, 0, 16, .ro, 0⟩
def snpErrUncorrCnt : Fld := ⟨.snpErr, 16, 16, .ro, 0⟩
def snpErrRebuilt : Fld := ⟨.snpErr, 32, 16, .ro, 0⟩

/-! PWR.CTRL: R364, Table 12.11. -/
def pwrCtrlTarget : Fld := ⟨.pwrCtrl, 0, 3, .rw, 3⟩

/-! PWR.STATUS: R364, Table 12.12. -/
def pwrStatusState : Fld := ⟨.pwrStatus, 0, 3, .ro, 3⟩
def pwrStatusRefused : Fld := ⟨.pwrStatus, 3, 1, .w1c, 0⟩
def pwrStatusRailFault : Fld := ⟨.pwrStatus, 4, 1, .w1c, 0⟩
def pwrStatusMcPreempt : Fld := ⟨.pwrStatus, 5, 1, .ro, 0⟩
def pwrStatusWakeSrc : Fld := ⟨.pwrStatus, 6, 3, .ro, 0⟩
def pwrStatusRailsOk : Fld := ⟨.pwrStatus, 9, 1, .ro, 0⟩

/-! PWR.RESET: R364, Table 12.13. -/
def pwrResetCold : Fld := ⟨.pwrReset, 0, 1, .wo, 0⟩
def pwrResetWarm : Fld := ⟨.pwrReset, 1, 1, .wo, 0⟩
def pwrResetRtmRelease : Fld := ⟨.pwrReset, 2, 1, .wo, 0⟩
def pwrResetLast : Fld := ⟨.pwrReset, 3, 2, .ro, 0⟩
def pwrResetCount : Fld := ⟨.pwrReset, 5, 32, .ro, 0⟩

/-! PWR.THROT: R364, Table 12.14. -/
def pwrThrotNThr : Fld := ⟨.pwrThrot, 0, 4, .rw, 8⟩
def pwrThrotActive : Fld := ⟨.pwrThrot, 4, 1, .ro, 0⟩
def pwrThrotSeen : Fld := ⟨.pwrThrot, 5, 1, .w1c, 0⟩
def pwrThrotCount : Fld := ⟨.pwrThrot, 6, 32, .ro, 0⟩

/-! PWR.PACE: R364, Table 12.15. -/
def pwrPaceNStart : Fld := ⟨.pwrPace, 0, 4, .rw, 4⟩
def pwrPaceGateIdle : Fld := ⟨.pwrPace, 4, 1, .rw, 1⟩
def pwrPaceDroopSeen : Fld := ⟨.pwrPace, 5, 1, .w1c, 0⟩
def pwrPaceHostDroopSeen : Fld := ⟨.pwrPace, 6, 1, .w1c, 0⟩
def pwrPaceDroopCnt : Fld := ⟨.pwrPace, 7, 32, .ro, 0⟩

/-! PWR.THERM: R364, Table 12.16. -/
def pwrThermNTherm : Fld := ⟨.pwrTherm, 0, 4, .rw, 8⟩
def pwrThermHot : Fld := ⟨.pwrTherm, 4, 1, .ro, 0⟩
def pwrThermTrip : Fld := ⟨.pwrTherm, 5, 1, .w1c, 0⟩
def pwrThermHottest : Fld := ⟨.pwrTherm, 6, 6, .ro, 0⟩
def pwrThermTemp : Fld := ⟨.pwrTherm, 12, 10, .ro, 0⟩
def pwrThermHostAlm : Fld := ⟨.pwrTherm, 22, 1, .ro, 0⟩

/-! PWR.CLK: R364, Table 12.17. -/
def pwrClkF : Fld := ⟨.pwrClk, 0, 7, .rw, 80⟩
def pwrClkNM1 : Fld := ⟨.pwrClk, 7, 4, .ro, 15⟩
def pwrClkGated : Fld := ⟨.pwrClk, 11, 1, .ro, 0⟩
def pwrClkNogate : Fld := ⟨.pwrClk, 12, 1, .rw, 0⟩
def pwrClkSlew : Fld := ⟨.pwrClk, 13, 1, .ro, 0⟩
def pwrClkFNow : Fld := ⟨.pwrClk, 14, 7, .ro, 80⟩

/-! PWR.VGRP: R364, Table 12.18. -/
def pwrVgrpVreq : Fld := ⟨.pwrVgrp, 0, 8, .rw, 60⟩
def pwrVgrpVok : Fld := ⟨.pwrVgrp, 8, 1, .ro, 0⟩
def pwrVgrpMinv : Fld := ⟨.pwrVgrp, 9, 8, .ro, 60⟩

/-! SEC.STATE: R391, Table 13.13. -/
def secStateState : Fld := ⟨.secState, 0, 2, .ro, 0⟩
def secStatePresence : Fld := ⟨.secState, 2, 1, .ro, 0⟩
def secStateBusy : Fld := ⟨.secState, 3, 1, .ro, 0⟩
def secStateZpend : Fld := ⟨.secState, 4, 1, .ro, 0⟩
def secStateZdone : Fld := ⟨.secState, 5, 1, .w1c, 0⟩
def secStateRecLost : Fld := ⟨.secState, 6, 1, .ro, 0⟩

/-! SEC.CMD: R391, Table 13.14. -/
def secCmdCode : Fld := ⟨.secCmd, 0, 4, .wo, 0⟩
def secCmdArg : Fld := ⟨.secCmd, 4, 24, .wo, 0⟩

/-! SEC.PCMD: R391, Table 13.15. -/
def secPcmdCode : Fld := ⟨.secPcmd, 0, 4, .rwp, 0⟩
def secPcmdArg : Fld := ⟨.secPcmd, 4, 24, .rwp, 0⟩

/-! SEC.CMDSTAT: R391, Table 13.16. -/
def secCmdstatCode : Fld := ⟨.secCmdstat, 0, 4, .ro, 0⟩
def secCmdstatPresenceCmd : Fld := ⟨.secCmdstat, 4, 1, .ro, 0⟩
def secCmdstatResult : Fld := ⟨.secCmdstat, 5, 3, .ro, 0⟩

/-! SEC.POLICY: R391, Table 13.17. -/
def secPolicySharedFeed : Fld := ⟨.secPolicy, 0, 1, .ro, 0⟩
def secPolicyZeroMem : Fld := ⟨.secPolicy, 1, 1, .rwp, 0⟩

/-! SEC.FW: R391, Table 13.18. -/
def secFwActiveVer : Fld := ⟨.secFw, 0, 16, .ro, 0⟩
def secFwFwMin : Fld := ⟨.secFw, 16, 16, .ro, 0⟩
def secFwSource : Fld := ⟨.secFw, 32, 1, .ro, 0⟩
def secFwFailCause : Fld := ⟨.secFw, 33, 3, .ro, 0⟩
def secFwSlotWrites : Fld := ⟨.secFw, 36, 16, .ro, 0⟩

/-! SEC.TAMPER: R391, Table 13.19. -/
def secTamperSeen : Fld := ⟨.secTamper, 0, 1, .w1c, 0⟩
def secTamperCount : Fld := ⟨.secTamper, 1, 16, .ro, 0⟩
def secTamperLevel : Fld := ⟨.secTamper, 17, 1, .ro, 0⟩
def secTamperCell : Fld := ⟨.secTamper, 18, 1, .ro, 0⟩

/-! DBG.CTRL: R391, Table 13.20. -/
def dbgCtrlReq : Fld := ⟨.dbgCtrl, 0, 2, .rw, 0⟩
def dbgCtrlMcHalt : Fld := ⟨.dbgCtrl, 2, 1, .rw, 0⟩
def dbgCtrlMcStep : Fld := ⟨.dbgCtrl, 3, 1, .wo, 0⟩

/-! DBG.STATUS: R391, Table 13.21. -/
def dbgStatusLevel : Fld := ⟨.dbgStatus, 0, 2, .ro, 0⟩
def dbgStatusRefused : Fld := ⟨.dbgStatus, 2, 1, .w1c, 0⟩
def dbgStatusMcHalted : Fld := ⟨.dbgStatus, 3, 1, .ro, 0⟩
def dbgStatusGrants : Fld := ⟨.dbgStatus, 4, 16, .ro, 0⟩
def dbgStatusScanned : Fld := ⟨.dbgStatus, 20, 1, .ro, 0⟩

/-! CAL.STATUS: R392, Table 13.23. -/
def calStatusValid : Fld := ⟨.calStatus, 0, 1, .ro, 0⟩
def calStatusLost : Fld := ⟨.calStatus, 1, 1, .ro, 0⟩
def calStatusCause : Fld := ⟨.calStatus, 2, 2, .ro, 0⟩
def calStatusWrites : Fld := ⟨.calStatus, 4, 16, .ro, 0⟩
def calStatusStaged : Fld := ⟨.calStatus, 20, 1, .ro, 0⟩

/-! CAL.SEL: R392, Table 13.24. -/
def calSelWord : Fld := ⟨.calSel, 0, 13, .rw, 0⟩

/-! CAL.DATA: R392, Table 13.24. -/
def calDataValue : Fld := ⟨.calData, 0, 64, .ro, 0⟩

/-! CAL.STAGE: R392, Table 13.24. -/
def calStageValue : Fld := ⟨.calStage, 0, 64, .rw, 0⟩

/-! MGT.TIME: R429, Table 15.7. -/
def mgtTimeTime : Fld := ⟨.mgtTime, 0, 56, .ro, 0⟩

/-! MGT.IRQ_PEND: R430, Table 15.8. -/
def mgtIrqPendFault : Fld := ⟨.mgtIrqPend, 0, 1, .w1c, 0⟩
def mgtIrqPendHalt : Fld := ⟨.mgtIrqPend, 1, 1, .w1c, 0⟩
def mgtIrqPendAdmit : Fld := ⟨.mgtIrqPend, 2, 1, .w1c, 0⟩
def mgtIrqPendEpoch : Fld := ⟨.mgtIrqPend, 3, 1, .w1c, 0⟩
def mgtIrqPendMode : Fld := ⟨.mgtIrqPend, 4, 1, .w1c, 0⟩
def mgtIrqPendSnap : Fld := ⟨.mgtIrqPend, 5, 1, .w1c, 0⟩
def mgtIrqPendRestore : Fld := ⟨.mgtIrqPend, 6, 1, .w1c, 0⟩
def mgtIrqPendPartner : Fld := ⟨.mgtIrqPend, 7, 1, .w1c, 0⟩
def mgtIrqPendLink : Fld := ⟨.mgtIrqPend, 8, 1, .w1c, 0⟩
def mgtIrqPendStack : Fld := ⟨.mgtIrqPend, 9, 1, .w1c, 0⟩
def mgtIrqPendScale : Fld := ⟨.mgtIrqPend, 10, 1, .w1c, 0⟩
def mgtIrqPendUncorr : Fld := ⟨.mgtIrqPend, 11, 1, .w1c, 0⟩
def mgtIrqPendTherm : Fld := ⟨.mgtIrqPend, 12, 1, .w1c, 0⟩
def mgtIrqPendThrottle : Fld := ⟨.mgtIrqPend, 13, 1, .w1c, 0⟩
def mgtIrqPendPower : Fld := ⟨.mgtIrqPend, 14, 1, .w1c, 0⟩
def mgtIrqPendSec : Fld := ⟨.mgtIrqPend, 15, 1, .w1c, 0⟩
def mgtIrqPendDebug : Fld := ⟨.mgtIrqPend, 16, 1, .w1c, 0⟩
def mgtIrqPendLog : Fld := ⟨.mgtIrqPend, 17, 1, .w1c, 0⟩

/-! MGT.IRQ_EN: R430, Table 15.9. -/
def mgtIrqEnEn : Fld := ⟨.mgtIrqEn, 0, 18, .rw, 0⟩

/-! MGT.LOG_STATUS: R431, Table 15.10. -/
def mgtLogStatusNewest : Fld := ⟨.mgtLogStatus, 0, 32, .ro, 0⟩
def mgtLogStatusHeld : Fld := ⟨.mgtLogStatus, 32, 13, .ro, 0⟩
def mgtLogStatusDropped : Fld := ⟨.mgtLogStatus, 45, 16, .ro, 0⟩
def mgtLogStatusWrapped : Fld := ⟨.mgtLogStatus, 61, 1, .ro, 0⟩

/-! MGT.LOG_SEL: R432, Table 15.11. -/
def mgtLogSelSeq : Fld := ⟨.mgtLogSel, 0, 32, .rw, 0⟩
def mgtLogSelLoaded : Fld := ⟨.mgtLogSel, 32, 1, .ro, 1⟩
def mgtLogSelAbsent : Fld := ⟨.mgtLogSel, 33, 1, .ro, 1⟩

/-! MGT.LOG_E0: R432, Table 15.12. -/
def mgtLogE0Seq : Fld := ⟨.mgtLogE0, 0, 32, .ro, 0⟩
def mgtLogE0Code : Fld := ⟨.mgtLogE0, 32, 16, .ro, 0⟩
def mgtLogE0Repeat : Fld := ⟨.mgtLogE0, 48, 16, .ro, 0⟩

/-! MGT.LOG_E1: R432, Table 15.12. -/
def mgtLogE1Time : Fld := ⟨.mgtLogE1, 0, 56, .ro, 0⟩

/-! MGT.LOG_E2: R432, Table 15.12. -/
def mgtLogE2Block : Fld := ⟨.mgtLogE2, 0, 4, .ro, 0⟩
def mgtLogE2Unit : Fld := ⟨.mgtLogE2, 4, 7, .ro, 0⟩
def mgtLogE2Side : Fld := ⟨.mgtLogE2, 11, 2, .ro, 0⟩
def mgtLogE2StepLo : Fld := ⟨.mgtLogE2, 13, 16, .ro, 0⟩

/-! MGT.LOG_E3: R432, Table 15.12. -/
def mgtLogE3Arg : Fld := ⟨.mgtLogE3, 0, 64, .ro, 0⟩

/-! MGT.CPERR: R434, Table 15.14. -/
def mgtCperrUnmapped : Fld := ⟨.mgtCperr, 0, 16, .ro, 0⟩
def mgtCperrLocked : Fld := ⟨.mgtCperr, 16, 16, .ro, 0⟩
def mgtCperrState : Fld := ⟨.mgtCperr, 32, 16, .ro, 0⟩

/-! MGT.ERRSUM: R435, Table 15.15. -/
def mgtErrsumCorr : Fld := ⟨.mgtErrsum, 0, 32, .ro, 0⟩
def mgtErrsumUncorr : Fld := ⟨.mgtErrsum, 32, 32, .ro, 0⟩

/-! MGT.PWR_TOTAL: R436, Table 15.16. -/
def mgtPwrTotalAvg : Fld := ⟨.mgtPwrTotal, 0, 13, .ro, 0⟩
def mgtPwrTotalPeak : Fld := ⟨.mgtPwrTotal, 13, 13, .ro, 0⟩
def mgtPwrTotalEnergy : Fld := ⟨.mgtPwrTotal, 26, 38, .ro, 0⟩

/-! MGT.CTRL: R437, Table 15.18. -/
def mgtCtrlClrCperr : Fld := ⟨.mgtCtrl, 0, 1, .wo, 0⟩
def mgtCtrlClrErrsum : Fld := ⟨.mgtCtrl, 1, 1, .wo, 0⟩
def mgtCtrlClrPeak : Fld := ⟨.mgtCtrl, 2, 1, .wo, 0⟩

/-! MGT.TEMP: R436, Table 15.17. -/
def mgtTempTemp : Fld := ⟨.mgtTemp, 0, 10, .ro, 0⟩
def mgtTempMax : Fld := ⟨.mgtTemp, 10, 10, .ro, 0⟩
def mgtTempPresent : Fld := ⟨.mgtTemp, 20, 1, .ro, 0⟩

/-! MGT.CLPWR: R436, Table 15.16. -/
def mgtClpwrAvg : Fld := ⟨.mgtClpwr, 0, 10, .ro, 0⟩
def mgtClpwrPeak : Fld := ⟨.mgtClpwr, 10, 10, .ro, 0⟩
def mgtClpwrEnergy : Fld := ⟨.mgtClpwr, 20, 44, .ro, 0⟩

/-- The fields of a register; every other bit is reserved (R17). -/
def regFields : RegKind → List Fld
  | .idPart => [idPartPart, idPartRev, idPartMapver]
  | .idCap => [idCapCores, idCapClusters, idCapSports, idCapFports, idCapUnits, idCapCtx, idCapKegMib]
  | .idStrap => [idStrapFeedId, idStrapFeedNow, idStrapChanged]
  | .idUid => [idUidUid]
  | .cfgImage => [cfgImageOffset]
  | .cfgCtrl => [cfgCtrlAdmit, cfgCtrlDispatch, cfgCtrlUnload]
  | .cfgAdmit => [cfgAdmitState, cfgAdmitCode, cfgAdmitMask, cfgAdmitSection, cfgAdmitIndex]
  | .cfgImgid => [cfgImgidImageId, cfgImgidVersion]
  | .cfgDispatch => [cfgDispatchStep]
  | .cfgMprop => [cfgMpropEntry]
  | .cfgMstat => [cfgMstatPending, cfgMstatEntry, cfgMstatLastResult, cfgMstatAborts, cfgMstatQueued, cfgMstatCommitAbort]
  | .cfgSpcap => [cfgSpcapCapGib, cfgSpcapDataGib, cfgSpcapLocked]
  | .cfgRegion => [cfgRegionBase, cfgRegionSize, cfgRegionCoded]
  | .cfgRegstat => [cfgRegstatOverlap, cfgRegstatBeyond]
  | .seqCtrl => [seqCtrlPreempt, seqCtrlResume]
  | .seqStatus => [seqStatusState, seqStatusMb, seqStatusBucket, seqStatusRestarts, seqStatusTokovf, seqStatusFaulted, seqStatusQueues]
  | .seqEpoch => [seqEpochStep, seqEpochProbe]
  | .seqFault => [seqFaultName, seqFaultAction, seqFaultQueue, seqFaultEntry, seqFaultOrigin, seqFaultStepLo]
  | .seqToksel => [seqTokselToken]
  | .seqToken => [seqTokenCount, seqTokenScope, seqTokenSource, seqTokenWaiters, seqTokenDeclared]
  | .seqDoorbell => [seqDoorbellToken]
  | .seqQsel => [seqQselQueue]
  | .seqQueue => [seqQueuePtr, seqQueueWaiting, seqQueueEnded, seqQueueWaitTok]
  | .arrCfg => [arrCfgAssigned, arrCfgSplit, arrCfgCtxA, arrCfgCtxB]
  | .arrStatus => [arrStatusPoisonA, arrStatusPoisonB, arrStatusIexpA, arrStatusIexpB, arrStatusStoppedA, arrStatusStoppedB]
  | .arrPerf => [arrPerfPasses, arrPerfGaps]
  | .arrBuferr => [arrBuferrCorrCnt, arrBuferrUncorrCnt, arrBuferrLastBank, arrBuferrLastLine, arrBuferrLastUncorr]
  | .accCfg => [accCfgSlotsA, accCfgSlotsB, accCfgDemandA, accCfgDemandB]
  | .accTile => [accTileA0State, accTileA0Tag, accTileA1State, accTileA1Tag, accTileB0State, accTileB0Tag, accTileB1State, accTileB1Tag]
  | .accSatflag => [accSatflagSatA0, accSatflagSatA1, accSatflagSatB0, accSatflagSatB1, accSatflagSatCnt]
  | .accStatus => [accStatusCollideA, accStatusCollideB, accStatusHaltA, accStatusHaltB, accStatusDrainPoisonA, accStatusDrainPoisonB]
  | .accDrain => [accDrainRowsDoneA, accDrainRowsDoneB, accDrainAddA, accDrainAddB]
  | .accErr => [accErrCorrCnt, accErrUncorrCnt, accErrLastSpill, accErrLastIndex, accErrLastUncorr]
  | .sclCfg => [sclCfgTensors, sclCfgPolicy, sclCfgAutoWiden]
  | .sclSel => [sclSelTnum, sclSelAge]
  | .sclEntry => [sclEntryKind, sclEntryFormat, sclEntryNbits, sclEntryScope, sclEntryResid, sclEntryWindowM1, sclEntryMargin, sclEntryOt, sclEntrySpillLimit, sclEntryLayer, sclEntryRxMode, sclEntryInitValid, sclEntryInitSe, sclEntryLoaded]
  | .sclEntry2 => [sclEntry2Gt, sclEntry2Rt, sclEntry2RxInit, sclEntry2Nvar]
  | .sclScale => [sclScaleSe, sclScaleSePrev, sclScaleRx, sclScaleHead, sclScaleValid, sclScaleClamp, sclScaleFlagged, sclScaleVariant]
  | .sclPend => [sclPendAmax, sclPendNf, sclPendNone, sclPendEarly]
  | .sclPeck => [sclPeckAmax, sclPeckNf]
  | .sclCnt => [sclCntOvf, sclCntUnf]
  | .sclCntLast => [sclCntLastOvfLast, sclCntLastUnfLast]
  | .sclSpill => [sclSpillSpill, sclSpillSpillLast]
  | .sclStatus => [sclStatusOvfAny, sclStatusUnfAny, sclStatusSpillAny, sclStatusNfAny, sclStatusClampAny, sclStatusLate, sclStatusFlaggedAny, sclStatusHistLost, sclStatusProbeReq, sclStatusProbeActive, sclStatusFolding]
  | .sclFlagged => [sclFlaggedCount, sclFlaggedFirst]
  | .sclCtrl => [sclCtrlInval, sclCtrlInvalAll, sclCtrlClrFlags]
  | .layCfg => [layCfgMovers, layCfgHolders]
  | .layStatus => [layStatusBusy, layStatusPoisonW, layStatusIdxFault, layStatusSat, layStatusNarrowBusy]
  | .layPerf => [layPerfFullBeats, layPerfSlowBeats]
  | .layNarrow => [layNarrowOwner, layNarrowBytes]
  | .layIdxdrop => [layIdxdropCount, layIdxdropFaulted]
  | .laySperr => [laySperrCorrCnt, laySperrUncorrCnt, laySperrPoisonRd]
  | .laySpstat => [laySpstatFailed, laySpstatTimeout, laySpstatBadtag, laySpstatCtrlErr, laySpstatOutRd, laySpstatOutWr]
  | .layKeg => [layKegCorrCnt, layKegUncorrCnt, layKegLastBank, layKegLastLine, layKegLastUncorr]
  | .layStash => [layStashBucketLast, layStashRefused, layStashHole, layStashHoleCnt, layStashPushWait]
  | .updCfg => [updCfgUnits, updCfgClipMode, updCfgNfPolicy, updCfgLayers, updCfgLrPoints]
  | .updStatus => [updStatusBusy, updStatusWaitClip, updStatusNfSeen, updStatusSkipped, updStatusPoisonW, updStatusDrainHold]
  | .updNorm => [updNormNormLast, updNormLocalSq]
  | .updClip => [updClipFactor, updClipValid, updClipSource, updClipVerdictNf]
  | .updLr => [updLrLrt, updLrSeg]
  | .updPerf => [updPerfElements, updPerfSkips]
  | .updErr => [updErrCorrCnt, updErrUncorrCnt, updErrLastUnit, updErrLastUncorr]
  | .updLaysel => [updLayselLayer]
  | .updLaystate => [updLaystateP1, updLaystateP2]
  | .updLayinfo => [updLayinfoFamily, updLayinfoDecay, updLayinfoBias, updLayinfoDone, updLayinfoApplied]
  | .mapChain => [mapChainRank, mapChainSizeM1, mapChainNdM1, mapChainNsM1, mapChainNmM1, mapChainIsHead, mapChainChainId]
  | .mapHead => [mapHeadReported, mapHeadWait, mapHeadFailedRpt, mapHeadProbeNext, mapHeadFirstFail]
  | .mapSlots => [mapSlotsOpen, mapSlotsPeak, mapSlotsLimit]
  | .mapRing => [mapRingBypPorts, mapRingRtmPair, mapRingLock, mapRingBypAsserted, mapRingLoopOk, mapRingJoin, mapRingLeave, mapRingRtmActive]
  | .mapReshard => [mapReshardId, mapReshardRound, mapReshardRounds, mapReshardPhase, mapReshardActive]
  | .mapStatus => [mapStatusHalted, mapStatusStale, mapStatusLinkDown, mapStatusStepFailed, mapStatusDownPorts]
  | .mapStale => [mapStaleHolder, mapStaleExpect, mapStaleFound, mapStaleRank]
  | .furCfg => [furCfgUsed, furCfgTier, furCfgFec, furCfgPeerRank, furCfgPeerPort]
  | .furLink => [furLinkState, furLinkCause, furLinkSeenRank, furLinkSeenPort, furLinkRetrains]
  | .furFec => [furFecCorrSym, furFecUncorrCw]
  | .furRetry => [furRetryCrcErr, furRetryNakTx, furRetryReplays, furRetryStomps]
  | .furPerf => [furPerfTxFrames, furPerfRxFrames]
  | .furCtrl => [furCtrlRetrain, furCtrlClrCnt]
  | .snpCfg => [snpCfgNM1, snpCfgPos, snpCfgGroup, snpCfgPartner, snpCfgSource, snpCfgCellUnits, snpCfgEnabled]
  | .snpSched => [snpSchedInterval, snpSchedLastUs, snpSchedSkips]
  | .snpStatus => [snpStatusPhase, snpStatusUpdHold, snpStatusSnapSkip, snpStatusGroupMismatch, snpStatusPartnerLost, snpStatusVerifyFail, snpStatusFallback, snpStatusJobLost, snpStatusFilled, snpStatusLocalHalt, snpStatusSnapPoison]
  | .snpSlota => [snpSlotaStep, snpSlotaState, snpSlotaImageMatch]
  | .snpSlotb => [snpSlotbStep, snpSlotbState, snpSlotbImageMatch]
  | .snpFill => [snpFillStep, snpFillErased, snpFillCellsDone, snpFillMaxErase]
  | .snpPartner => [snpPartnerMirrorStep, snpPartnerHbAge, snpPartnerSrcAlive]
  | .snpCtrl => [snpCtrlRestore, snpCtrlLocalHalt]
  | .snpErr => [snpErrCorrCnt, snpErrUncorrCnt, snpErrRebuilt]
  | .pwrCtrl => [pwrCtrlTarget]
  | .pwrStatus => [pwrStatusState, pwrStatusRefused, pwrStatusRailFault, pwrStatusMcPreempt, pwrStatusWakeSrc, pwrStatusRailsOk]
  | .pwrReset => [pwrResetCold, pwrResetWarm, pwrResetRtmRelease, pwrResetLast, pwrResetCount]
  | .pwrThrot => [pwrThrotNThr, pwrThrotActive, pwrThrotSeen, pwrThrotCount]
  | .pwrPace => [pwrPaceNStart, pwrPaceGateIdle, pwrPaceDroopSeen, pwrPaceHostDroopSeen, pwrPaceDroopCnt]
  | .pwrTherm => [pwrThermNTherm, pwrThermHot, pwrThermTrip, pwrThermHottest, pwrThermTemp, pwrThermHostAlm]
  | .pwrClk => [pwrClkF, pwrClkNM1, pwrClkGated, pwrClkNogate, pwrClkSlew, pwrClkFNow]
  | .pwrVgrp => [pwrVgrpVreq, pwrVgrpVok, pwrVgrpMinv]
  | .secState => [secStateState, secStatePresence, secStateBusy, secStateZpend, secStateZdone, secStateRecLost]
  | .secCmd => [secCmdCode, secCmdArg]
  | .secPcmd => [secPcmdCode, secPcmdArg]
  | .secCmdstat => [secCmdstatCode, secCmdstatPresenceCmd, secCmdstatResult]
  | .secPolicy => [secPolicySharedFeed, secPolicyZeroMem]
  | .secFw => [secFwActiveVer, secFwFwMin, secFwSource, secFwFailCause, secFwSlotWrites]
  | .secTamper => [secTamperSeen, secTamperCount, secTamperLevel, secTamperCell]
  | .dbgCtrl => [dbgCtrlReq, dbgCtrlMcHalt, dbgCtrlMcStep]
  | .dbgStatus => [dbgStatusLevel, dbgStatusRefused, dbgStatusMcHalted, dbgStatusGrants, dbgStatusScanned]
  | .calStatus => [calStatusValid, calStatusLost, calStatusCause, calStatusWrites, calStatusStaged]
  | .calSel => [calSelWord]
  | .calData => [calDataValue]
  | .calStage => [calStageValue]
  | .mgtTime => [mgtTimeTime]
  | .mgtIrqPend => [mgtIrqPendFault, mgtIrqPendHalt, mgtIrqPendAdmit, mgtIrqPendEpoch, mgtIrqPendMode, mgtIrqPendSnap, mgtIrqPendRestore, mgtIrqPendPartner, mgtIrqPendLink, mgtIrqPendStack, mgtIrqPendScale, mgtIrqPendUncorr, mgtIrqPendTherm, mgtIrqPendThrottle, mgtIrqPendPower, mgtIrqPendSec, mgtIrqPendDebug, mgtIrqPendLog]
  | .mgtIrqEn => [mgtIrqEnEn]
  | .mgtLogStatus => [mgtLogStatusNewest, mgtLogStatusHeld, mgtLogStatusDropped, mgtLogStatusWrapped]
  | .mgtLogSel => [mgtLogSelSeq, mgtLogSelLoaded, mgtLogSelAbsent]
  | .mgtLogE0 => [mgtLogE0Seq, mgtLogE0Code, mgtLogE0Repeat]
  | .mgtLogE1 => [mgtLogE1Time]
  | .mgtLogE2 => [mgtLogE2Block, mgtLogE2Unit, mgtLogE2Side, mgtLogE2StepLo]
  | .mgtLogE3 => [mgtLogE3Arg]
  | .mgtCperr => [mgtCperrUnmapped, mgtCperrLocked, mgtCperrState]
  | .mgtErrsum => [mgtErrsumCorr, mgtErrsumUncorr]
  | .mgtPwrTotal => [mgtPwrTotalAvg, mgtPwrTotalPeak, mgtPwrTotalEnergy]
  | .mgtCtrl => [mgtCtrlClrCperr, mgtCtrlClrErrsum, mgtCtrlClrPeak]
  | .mgtTemp => [mgtTempTemp, mgtTempMax, mgtTempPresent]
  | .mgtClpwr => [mgtClpwrAvg, mgtClpwrPeak, mgtClpwrEnergy]

/-- Address, distance between units and number of units in the address map (Table 15.1, R418). -/
def regPlace : RegKind → Nat × Nat × Nat
  | .idPart => (0x0, 0x0, 1)
  | .idCap => (0x8, 0x0, 1)
  | .idStrap => (0x10, 0x0, 1)
  | .idUid => (0x18, 0x0, 1)
  | .cfgImage => (0x10000, 0x0, 1)
  | .cfgCtrl => (0x10008, 0x0, 1)
  | .cfgAdmit => (0x10010, 0x0, 1)
  | .cfgImgid => (0x10018, 0x0, 1)
  | .cfgDispatch => (0x10020, 0x0, 1)
  | .cfgMprop => (0x10028, 0x0, 1)
  | .cfgMstat => (0x10030, 0x0, 1)
  | .cfgSpcap => (0x10100, 0x0, 1)
  | .cfgRegion => (0x10108, 0x8, 7)
  | .cfgRegstat => (0x10140, 0x0, 1)
  | .seqCtrl => (0x20000, 0x1000, 64)
  | .seqStatus => (0x20008, 0x1000, 64)
  | .seqEpoch => (0x20010, 0x1000, 64)
  | .seqFault => (0x20018, 0x1000, 64)
  | .seqToksel => (0x20020, 0x1000, 64)
  | .seqToken => (0x20028, 0x1000, 64)
  | .seqDoorbell => (0x20030, 0x1000, 64)
  | .seqQsel => (0x20038, 0x1000, 64)
  | .seqQueue => (0x20040, 0x1000, 64)
  | .arrCfg => (0x100000, 0x1000, 128)
  | .arrStatus => (0x100008, 0x1000, 128)
  | .arrPerf => (0x100010, 0x1000, 128)
  | .arrBuferr => (0x100018, 0x1000, 128)
  | .accCfg => (0x100100, 0x1000, 128)
  | .accTile => (0x100108, 0x1000, 128)
  | .accSatflag => (0x100110, 0x1000, 128)
  | .accStatus => (0x100118, 0x1000, 128)
  | .accDrain => (0x100120, 0x1000, 128)
  | .accErr => (0x100128, 0x1000, 128)
  | .sclCfg => (0x180000, 0x0, 1)
  | .sclSel => (0x180008, 0x0, 1)
  | .sclEntry => (0x180010, 0x0, 1)
  | .sclEntry2 => (0x180018, 0x0, 1)
  | .sclScale => (0x180020, 0x0, 1)
  | .sclPend => (0x180028, 0x0, 1)
  | .sclPeck => (0x180030, 0x0, 1)
  | .sclCnt => (0x180038, 0x0, 1)
  | .sclCntLast => (0x180040, 0x0, 1)
  | .sclSpill => (0x180048, 0x0, 1)
  | .sclStatus => (0x180050, 0x0, 1)
  | .sclFlagged => (0x180058, 0x0, 1)
  | .sclCtrl => (0x180060, 0x0, 1)
  | .layCfg => (0x200000, 0x0, 1)
  | .layStatus => (0x200008, 0x0, 1)
  | .layPerf => (0x200010, 0x0, 1)
  | .layNarrow => (0x200018, 0x0, 1)
  | .layIdxdrop => (0x201000, 0x8, 64)
  | .laySperr => (0x202000, 0x10, 24)
  | .laySpstat => (0x202008, 0x10, 24)
  | .layKeg => (0x203000, 0x0, 1)
  | .layStash => (0x203008, 0x0, 1)
  | .updCfg => (0x300000, 0x0, 1)
  | .updStatus => (0x300008, 0x0, 1)
  | .updNorm => (0x300010, 0x0, 1)
  | .updClip => (0x300018, 0x0, 1)
  | .updLr => (0x300020, 0x0, 1)
  | .updPerf => (0x300028, 0x0, 1)
  | .updErr => (0x300030, 0x0, 1)
  | .updLaysel => (0x300038, 0x0, 1)
  | .updLaystate => (0x300040, 0x0, 1)
  | .updLayinfo => (0x300048, 0x0, 1)
  | .mapChain => (0x380000, 0x0, 1)
  | .mapHead => (0x380008, 0x0, 1)
  | .mapSlots => (0x380010, 0x0, 1)
  | .mapRing => (0x380018, 0x0, 1)
  | .mapReshard => (0x380020, 0x0, 1)
  | .mapStatus => (0x380028, 0x0, 1)
  | .mapStale => (0x380030, 0x0, 1)
  | .furCfg => (0x400000, 0x10000, 16)
  | .furLink => (0x400008, 0x10000, 16)
  | .furFec => (0x400010, 0x10000, 16)
  | .furRetry => (0x400018, 0x10000, 16)
  | .furPerf => (0x400020, 0x10000, 16)
  | .furCtrl => (0x400028, 0x10000, 16)
  | .snpCfg => (0x500000, 0x0, 1)
  | .snpSched => (0x500008, 0x0, 1)
  | .snpStatus => (0x500010, 0x0, 1)
  | .snpSlota => (0x500018, 0x0, 1)
  | .snpSlotb => (0x500020, 0x0, 1)
  | .snpFill => (0x500028, 0x0, 1)
  | .snpPartner => (0x500030, 0x0, 1)
  | .snpCtrl => (0x500038, 0x0, 1)
  | .snpErr => (0x500040, 0x0, 1)
  | .pwrCtrl => (0x600000, 0x0, 1)
  | .pwrStatus => (0x600008, 0x0, 1)
  | .pwrReset => (0x600010, 0x0, 1)
  | .pwrThrot => (0x600018, 0x0, 1)
  | .pwrPace => (0x600020, 0x0, 1)
  | .pwrTherm => (0x600028, 0x0, 1)
  | .pwrClk => (0x600100, 0x8, 8)
  | .pwrVgrp => (0x600140, 0x8, 4)
  | .secState => (0x680000, 0x0, 1)
  | .secCmd => (0x680008, 0x0, 1)
  | .secPcmd => (0x680010, 0x0, 1)
  | .secCmdstat => (0x680018, 0x0, 1)
  | .secPolicy => (0x680020, 0x0, 1)
  | .secFw => (0x680028, 0x0, 1)
  | .secTamper => (0x680030, 0x0, 1)
  | .dbgCtrl => (0x680100, 0x0, 1)
  | .dbgStatus => (0x680108, 0x0, 1)
  | .calStatus => (0x700000, 0x0, 1)
  | .calSel => (0x700008, 0x0, 1)
  | .calData => (0x700010, 0x0, 1)
  | .calStage => (0x700018, 0x0, 1)
  | .mgtTime => (0x780000, 0x0, 1)
  | .mgtIrqPend => (0x780008, 0x0, 1)
  | .mgtIrqEn => (0x780010, 0x0, 1)
  | .mgtLogStatus => (0x780018, 0x0, 1)
  | .mgtLogSel => (0x780020, 0x0, 1)
  | .mgtLogE0 => (0x780028, 0x0, 1)
  | .mgtLogE1 => (0x780030, 0x0, 1)
  | .mgtLogE2 => (0x780038, 0x0, 1)
  | .mgtLogE3 => (0x780040, 0x0, 1)
  | .mgtCperr => (0x780048, 0x0, 1)
  | .mgtErrsum => (0x780050, 0x0, 1)
  | .mgtPwrTotal => (0x780058, 0x0, 1)
  | .mgtCtrl => (0x780060, 0x0, 1)
  | .mgtTemp => (0x780100, 0x8, 40)
  | .mgtClpwr => (0x780300, 0x8, 8)

/-- Every register kind, in address order. -/
def regKinds : List RegKind :=
  [.idPart, .idCap, .idStrap, .idUid, .cfgImage, .cfgCtrl, .cfgAdmit, .cfgImgid, .cfgDispatch, .cfgMprop, .cfgMstat, .cfgSpcap, .cfgRegion, .cfgRegstat, .seqCtrl, .seqStatus, .seqEpoch, .seqFault, .seqToksel, .seqToken, .seqDoorbell, .seqQsel, .seqQueue, .arrCfg] ++
  [.arrStatus, .arrPerf, .arrBuferr, .accCfg, .accTile, .accSatflag, .accStatus, .accDrain, .accErr, .sclCfg, .sclSel, .sclEntry, .sclEntry2, .sclScale, .sclPend, .sclPeck, .sclCnt, .sclCntLast, .sclSpill, .sclStatus, .sclFlagged, .sclCtrl, .layCfg, .layStatus] ++
  [.layPerf, .layNarrow, .layIdxdrop, .laySperr, .laySpstat, .layKeg, .layStash, .updCfg, .updStatus, .updNorm, .updClip, .updLr, .updPerf, .updErr, .updLaysel, .updLaystate, .updLayinfo, .mapChain, .mapHead, .mapSlots, .mapRing, .mapReshard, .mapStatus, .mapStale] ++
  [.furCfg, .furLink, .furFec, .furRetry, .furPerf, .furCtrl, .snpCfg, .snpSched, .snpStatus, .snpSlota, .snpSlotb, .snpFill, .snpPartner, .snpCtrl, .snpErr, .pwrCtrl, .pwrStatus, .pwrReset, .pwrThrot, .pwrPace, .pwrTherm, .pwrClk, .pwrVgrp, .secState] ++
  [.secCmd, .secPcmd, .secCmdstat, .secPolicy, .secFw, .secTamper, .dbgCtrl, .dbgStatus, .calStatus, .calSel, .calData, .calStage, .mgtTime, .mgtIrqPend, .mgtIrqEn, .mgtLogStatus, .mgtLogSel, .mgtLogE0, .mgtLogE1, .mgtLogE2, .mgtLogE3, .mgtCperr, .mgtErrsum, .mgtPwrTotal] ++
  [.mgtCtrl, .mgtTemp, .mgtClpwr]

/-- The block of a register, as the event log numbers blocks (Table 15.12). -/
def regBlock : RegKind → Nat
  | .idPart | .idCap | .idStrap | .idUid => 0
  | .cfgImage | .cfgCtrl | .cfgAdmit | .cfgImgid | .cfgDispatch | .cfgMprop | .cfgMstat | .cfgSpcap | .cfgRegion | .cfgRegstat => 1
  | .seqCtrl | .seqStatus | .seqEpoch | .seqFault | .seqToksel | .seqToken | .seqDoorbell | .seqQsel | .seqQueue => 2
  | .arrCfg | .arrStatus | .arrPerf | .arrBuferr => 3
  | .accCfg | .accTile | .accSatflag | .accStatus | .accDrain | .accErr => 4
  | .sclCfg | .sclSel | .sclEntry | .sclEntry2 | .sclScale | .sclPend | .sclPeck | .sclCnt | .sclCntLast | .sclSpill | .sclStatus | .sclFlagged | .sclCtrl => 5
  | .layCfg | .layStatus | .layPerf | .layNarrow | .layIdxdrop | .laySperr | .laySpstat | .layKeg | .layStash => 6
  | .updCfg | .updStatus | .updNorm | .updClip | .updLr | .updPerf | .updErr | .updLaysel | .updLaystate | .updLayinfo => 7
  | .mapChain | .mapHead | .mapSlots | .mapRing | .mapReshard | .mapStatus | .mapStale => 8
  | .furCfg | .furLink | .furFec | .furRetry | .furPerf | .furCtrl => 9
  | .snpCfg | .snpSched | .snpStatus | .snpSlota | .snpSlotb | .snpFill | .snpPartner | .snpCtrl | .snpErr => 10
  | .pwrCtrl | .pwrStatus | .pwrReset | .pwrThrot | .pwrPace | .pwrTherm | .pwrClk | .pwrVgrp => 11
  | .secState | .secCmd | .secPcmd | .secCmdstat | .secPolicy | .secFw | .secTamper | .dbgCtrl | .dbgStatus => 12
  | .calStatus | .calSel | .calData | .calStage => 13
  | .mgtTime | .mgtIrqPend | .mgtIrqEn | .mgtLogStatus | .mgtLogSel | .mgtLogE0 | .mgtLogE1 | .mgtLogE2 | .mgtLogE3 | .mgtCperr | .mgtErrsum | .mgtPwrTotal | .mgtCtrl | .mgtTemp | .mgtClpwr => 14

end Sys2Proof.Machine
end

