-- ==== Sys2Proof/Machine/Types.lean ====
section
/-!
DEFINITION. Sys2Proof/Machine/Types.lean: the parts of State: one structure per unit of the engine, each with its reset values.
-/
namespace Sys2Proof.Machine

/-- An event-log entry (Table 15.12). -/
structure LogEntry where
  seq : Nat
  code : Nat
  rep : Nat
  time : Nat
  block : Nat
  unit : Nat
  side : Nat
  stepLo : Nat
  arg : Nat
deriving DecidableEq, Repr

/-- The event log (R431): the ring, newest entry first, the writer's queue, oldest event first, the last SEQ given. -/
structure LogSt where
  ring : List LogEntry := []
  queue : List LogEntry := []
  lastSeq : Nat := 0
deriving DecidableEq, Repr

/-- Start-up (R358, R362): power-on reset held, cold reset held by RESET_N, the controller in ROM, firmware verified, CP_ALIVE. -/
inductive Boot where
  | porHeld | coldHeld | rom | firmware | alive
deriving DecidableEq, Repr

/-- Data on the return bus of the control port (R396). -/
structure CpReturn where
  tag : Nat
  data : Word
deriving DecidableEq, Repr

/-- An accepted read of a slow register that has not returned: its register and unit, tag, source, and the selection in force at its
acceptance (R396). -/
structure SlowRead where
  kind : RegKind
  unit : Nat
  tag : Nat
  src : Src
  sel : Word
deriving DecidableEq, Repr

/-- The TAP (R384, R411): the operation that its instruction register holds, IDCODE after a test reset, and the data last captured. -/
structure Tap where
  instr : ScanOp := .idcode
  data : Word := 0
deriving DecidableEq, Repr

/-- Levels of the board inputs that outlast a reset (Table 14.9, R410): THROTTLE_N low, THERM_ALM high, VOK of each group. -/
structure Pins where
  throttle : Bool := false
  thermAlm : Bool := false
  vok : List Bool := List.replicate 4 false
deriving DecidableEq, Repr

/-- A cluster clock: whether a droop event is active (R351). Its fraction N stands in PWR.CLK (R348). -/
structure Cluster where
  droop : Bool := false
deriving DecidableEq, Repr

/-- Power and clocks (12). -/
structure PowerSt where
  /-- Target of the transition in progress. -/
  trans : Option Nat := none
  /-- The state a transition leaves. -/
  fromState : Nat := 3
  /-- A request that waits (R354, R372, R386). -/
  waiting : Option Nat := none
  /-- Contexts that the management controller preempted for Doze (R355). -/
  mcPreempted : List Nat := []
  clusters : List Cluster := List.replicate 8 {}
  /-- The fraction N of UPD (R348). -/
  updN : Nat := 16
  updGated : Bool := false
  codGated : Bool := false
  /-- The hottest reading stands at or above TJ_TRIP (R353). -/
  trip : Bool := false
  /-- The hardware comparator's cap of 1 (R386). -/
  comparator : Bool := false
  /-- The VREQ each group had before the present one (R410). -/
  prevVreq : List Nat := List.replicate 4 60
  /-- A warm reset is in progress (R361). -/
  warm : Bool := false
deriving DecidableEq, Repr

/-- One copy of the security record (R366): state, FW_MIN, SEC.POLICY, ZPEND (R377), sequence number, digest matches. -/
structure SecRec where
  state : Nat
  fwMin : Nat
  sharedFeed : Bool
  zeroMem : Bool
  zpend : Bool
  seq : Nat
  valid : Bool
deriving DecidableEq, Repr

/-- A security or presence command in progress (R371, R372). -/
structure SecCmd where
  code : Nat
  presence : Bool
  arg : Nat
deriving DecidableEq, Repr

/-- The regions to clear (base and size in 64 MiB) with the capacity per port, in GiB, that mapped them (R207, R376). -/
structure ZeroMap where
  regions : List (Nat × Nat) := []
  cap : Nat := 0
deriving DecidableEq, Repr

/-- A zeroisation in progress (R376): whether memory is to be cleared, and whether the engine is Open afterwards (UNSEAL). -/
structure Zero where
  mem : Bool
  thenOpen : Bool
deriving DecidableEq, Repr

/-- Security, firmware and calibration (13): the nonvolatile store and the volatile copies. -/
structure SecSt where
  recA : SecRec := ⟨0, 0, false, false, false, 1, true⟩
  recB : SecRec := ⟨0, 0, false, false, false, 0, true⟩
  tamperCell : Bool := false
  slot : Option Patch := none
  slotWrites : Nat := 0
  /-- An interrupted write left the slot or the calibration set unreadable (R381, R389). -/
  slotBad : Bool := false
  calStore : Cells Word := []
  calLive : Cells Word := []
  calStage : Cells Word := []
  calIntr : Bool := false
  cmd : Option SecCmd := none
  zero : Option Zero := none
  recPend : Bool := false
  /-- What the memory step of a zeroisation begun or pending clears. -/
  zeroMap : ZeroMap := {}
deriving DecidableEq, Repr

/-- An entry of a tile table in flight (R292): its place, its words, what it found. -/
structure Flight where
  queue : Nat
  index : Nat
  word : BitVec 512
  replay : Bool := false
  finished : Bool := false
  dropped : Nat := 0
  idxFault : Bool := false
  satCount : Nat := 0
  /-- A stale access stopped it: it never completes (R266). -/
  dead : Bool := false
  /-- A drain that a reissue took back: it keeps its place in the order of issue until it is issued again (R107, R116). -/
  lapsed : Bool := false
deriving DecidableEq, Repr

/-- A queue of a context (R285, R310): next entry, END issued, end of a replay range, drains treated as done, entries that
have raised their token in this micro-batch, drains that a preemption issued before their turn (R120). -/
structure Queue where
  ptr : Nat := 0
  ended : Bool := false
  replayTo : Option Nat := none
  doneDrains : List Nat := []
  raised : List Nat := []
  early : List Nat := []
deriving DecidableEq, Repr

/-- A pass that its side was issued (R72, R288). -/
structure PassRec where
  ctx : Nat
  queue : Nat
  index : Nat
  word : BitVec 512
deriving DecidableEq, Repr

/-- A side of a core (R74, R75, R85): passes issued and not started, passes in the array, poison, the tags (FIRST entries) whose
passes collided and whose tile has not drained since (R119). -/
structure Side where
  issued : List PassRec := []
  inArray : List PassRec := []
  poisoned : Bool := false
  collided : List Nat := []
deriving DecidableEq, Repr

/-- Tile states (R94), coded as ACC.TILE shows them (R124). -/
inductive TileState where
  | free | filling | complete | draining
deriving DecidableEq, Repr

/-- An accumulator entry (Table 4.1): cord levels (0 to 3 in the entry, above in the spill area), the result pair, the
integer sum. -/
structure AccEntry where
  cord : List (Option Pair) := []
  res : Pair := Pair.zero
  int : Int := 0
deriving DecidableEq, Repr

/-- An accumulator tile (R93 to R120). -/
structure Tile where
  state : TileState := .free
  tag : Nat := 0
  ctx : Nat := 0
  queue : Nat := 0
  first : Nat := 0
  restart : Nat := 0
  rows : Nat := 0
  cols : Nat := 0
  k : Nat := 0
  integer : Bool := false
  sat : Bool := false
  satCount : Nat := 0
  accAdd : Bool := false
  accStep : Bool := false
  ea : Nat := 0
  eb : Nat := 0
  poisoned : Bool := false
  entries : Cells AccEntry := []
  rowsRead : Nat := 0
  committed : Nat := 0
  /-- PRODUCT of the tile's passes: dW (Table 3.4). -/
  dW : Bool := false
deriving DecidableEq, Repr

/-- What a move leaves to do: poison found, dropped indices, IDX_FAULT, SC8_UNCORR to report at once, contributions for
other engines, and those of an ordered distributed add for this one (R151). -/
structure MoveOut where
  poison : Bool := false
  dropped : Nat := 0
  idxFault : Bool := false
  report : Bool := false
  /-- A poisoned Keg word was read. -/
  keg : Bool := false
  writes : List (Nat × WItem) := []
deriving DecidableEq, Repr

/-- A context (R284, R303): its queues, entries in flight, the micro-batch it runs, what stopped it, and the tiles in its save
area by tile number (R120). -/
structure Ctx where
  queues : List Queue := []
  flight : List Flight := []
  running : Bool := false
  accMb : Nat := 0
  mbStep : Nat := 0
  mbNum : Nat := 0
  bucket : Nat := 0
  finished : Nat := 0
  halted : Option Nat := none
  failed : Option Nat := none
  tileFaults : List (Nat × Nat × Nat) := []
  before : Nat := 0
  saved : List (Nat × Tile) := []
deriving DecidableEq, Repr

/-- A mover (R145): the move it runs, the windows it still has to write once it has begun (R138, R153), the elements that other
engines sent (descriptor, position, bytes, poison), and what its windows have left to do. -/
structure Mover where
  ctx : Nat
  queue : Nat
  index : Nat
  /-- The next window; none before the move begins. -/
  next : Option Nat := none
  got : List (Nat × List Nat × List Byte × Bool) := []
  out : MoveOut := {}
deriving DecidableEq, Repr

/-- A pending measurement (R163): magnitude bits [30:0], NF, NONE. -/
structure Pend where
  amax : Nat := 0
  nf : Bool := false
  none : Bool := true
deriving DecidableEq, Repr

/-- The value of an empty Peck entry (R166). -/
def peckEmpty : BitVec 32 := 0x7FFFFFFF

/-- A tracker entry (R160): static fields and dynamic state. -/
structure Track where
  stat : TrackRec
  peck : List (BitVec 32) := List.replicate 16 peckEmpty
  head : Nat := 0
  pend : Pend := {}
  next : Pend := {}
  se : Int := 0
  sePrev : Int := 0
  rx : Int := 0
  rxPrev : Int := 0
  ovf : Nat := 0
  unf : Nat := 0
  spill : Nat := 0
  ovfLast : Nat := 0
  unfLast : Nat := 0
  spillLast : Nat := 0
  clamp : Bool := false
  flagged : Bool := false
  variant : Nat := 0
  holdInit : Bool := false
  /-- The Peck has been emptied or restored: no initial SE to return to (R179). -/
  noInit : Bool := false
  /-- INVAL has emptied the Peck since the last boundary (R182). -/
  inval : Bool := false
  /-- A probe step runs this entry at SE 0 (R181). -/
  zeroed : Bool := false
  used : Bool := true
  /-- WGRAD: accepted index of the micro-batch whose measurement stands (R111). -/
  measMb : Nat := 0
deriving DecidableEq, Repr

/-- A micro-batch the forward complex opened (R198 to R200): bucket and accepted index, or refused. -/
structure Mb where
  step : Nat
  mb : Nat
  n : Nat
  bucket : Option Nat
  acc : Option Nat
  seed : Bool := false
deriving DecidableEq, Repr

/-- An FX raise held for a later micro-batch (R294). -/
structure Held where
  ctx : Nat
  step : Nat
  mb : Nat
  tok : Nat
deriving DecidableEq, Repr

/-- An FX beat that is not yet written (R25, R197, R202), with the step and micro-batch of the record that follows it, once that has
come; and whether its credit has returned. -/
structure Beat where
  entry : Nat
  beat : Nat
  data : List Byte
  own : Option (Nat × Nat)
  paid : Bool := false
deriving DecidableEq, Repr

/-- A stash or seed entry in use (R197, R202): the entry, its set and the micro-batch that holds it. -/
structure Holding where
  seed : Bool
  entry : Nat
  set : Nat
  step : Nat
  mb : Nat
deriving DecidableEq, Repr

/-- A recompute request and its stream (R204): where it goes, the beats landed. -/
structure Stream where
  ctx : Nat
  queue : Nat
  index : Nat
  step : Nat
  mb : Nat
  entry : Nat
  ring : Nat
  start : Nat
  beats : Nat
  landed : List Nat
deriving DecidableEq, Repr

/-- A landing ring (R204): where the next stream starts, and the beats in use with the bytes of each that no read has taken out. -/
structure RingSt where
  ring : Nat
  base : Nat
  size : Nat
  head : Nat
  used : List (Nat × List Nat)
deriving DecidableEq, Repr

/-- The forward-exchange interface (07, 14). -/
structure FxSt where
  credits : List Nat := [0, 0, 0, 0]
  wait0 : List Beat := []
  wait2 : List Beat := []
  holding : List Holding := []
  streams : List Stream := []
  rings : List RingSt := []
  outData : Nat := 0
  outRec : Nat := 0
  queue : List FxOut := []
  out : List FxOut := []
  earlyOpens : List (Nat × Nat × Nat) := []
  earlySeeds : List (Nat × Nat) := []
  /-- Credits (class, step, micro-batch) that return when the contexts come near the micro-batch (R294). -/
  owed : List (Nat × Nat × Nat) := []
  /-- Amax records that no layer-done has attributed yet (R25): tensor, magnitude. -/
  amax : List (Nat × F32) := []
  /-- Layers (step, micro-batch, layer) and seeds (step, micro-batch) whose padding is still to be written (R201). -/
  pads : List (Nat × Nat × Nat) := []
  seedPads : List (Nat × Nat) := []
deriving DecidableEq, Repr

/-- An update unit (R222, R223): layer records whose token it holds, in arrival order, the layer in work with its slice, its next
block and its pass (partial norms first, then the update, R232), and layers left at a block when their context stopped (R239). -/
structure UnitSt where
  queue : List Nat := []
  cur : Option Nat := none
  slice : Nat := 0
  block : Nat := 0
  normPass : Bool := false
  paused : List (Nat × Nat × Nat × Bool) := []
deriving DecidableEq, Repr

/-- The dynamic state of a layer record (R227 to R236): running products, applied steps, the step of the last one (at first that of the
tags of admission, R265), the layer-complete token and its step,
slices normed and written in this step, their sums of squares, the measurement of the masters, masters not yet encoded
(element index, binary32), and the emission. -/
structure LayerSt where
  p1 : F32 := 0x3F800000
  p2 : F32 := 0x3F800000
  applied : Nat := 0
  last : Nat := 0
  token : Bool := false
  step : Nat := 0
  normed : List Nat := []
  written : List Nat := []
  norms : List (Nat × Pair) := []
  amax : Nat := 0
  nf : Bool := false
  none : Bool := true
  masters : List (Nat × F32) := []
  emitted : Bool := false
  sent : Bool := false
  seSent : Int := 0
  /-- The narrow shards of the layer that this engine holds: piece, bytes (R263). -/
  gathered : List (Nat × List Byte) := []
deriving DecidableEq, Repr

/-- The update units (08): the head's norm of the step, whether this engine's partial has been sent, whether the clip token has
come, whether the step is skipped. -/
structure UpdSt where
  units : List UnitSt := List.replicate 16 {}
  layers : List LayerSt := []
  seed : BitVec 64 := 0
  clipMax : F32 := 0
  norm : Option F32 := none
  localSent : Bool := false
  released : Bool := false
  skipped : Bool := false
deriving DecidableEq, Repr

/-- A collective in progress on this engine (R28, R258, R259): the REDUCE entry that started it, poison read, the phase, the
values held by element index, whether its result has been delivered. -/
structure CollSt where
  num : Nat
  ctx : Nat
  queue : Nat
  index : Nat
  bad : Bool
  phase : Nat
  cur : List (Nat × Pair)
  finished : Bool
  /-- Overflows and underflows of the carried width (R103, R172). -/
  ovf : Nat
  unf : Nat
deriving DecidableEq, Repr

/-- A move that waits for elements of other engines (R150): its entry, what it still needs (descriptor, rank, position), and what
has come (descriptor, position, bytes, poison). -/
structure RemoteMove where
  ctx : Nat
  queue : Nat
  index : Nat
  need : List (Nat × Nat × List Nat)
  got : List (Nat × List Nat × List Byte × Bool)
  /-- Entries (queue, index) issued earlier whose writes it shares, not yet complete (R139). -/
  after : List (Nat × Nat) := []
deriving DecidableEq, Repr

/-- A remote access that an entry has made (R265, R266): its entry and the accepted index of its micro-batch, the holder's rank, the holder
entry, the descriptor, PART, the tag it expects, and whether it writes. -/
structure RemoteUse where
  ctx : Nat
  queue : Nat
  index : Nat
  acc : Nat
  rank : Nat
  holder : Nat
  desc : Nat
  part : Nat
  vtag : Nat
  write : Bool
deriving DecidableEq, Repr

/-- The proposal in the head's hands (R307): the entry, the target step, the ranks that acknowledged. -/
structure Proposal where
  rank : Nat
  entry : Nat
  target : Nat
  acks : List Nat
deriving DecidableEq, Repr

/-- A re-shard in progress (R268 to R271): the plan (none while the partner is asked for the journal, R341), the round, the slots received,
whether DONE is sent, and the tags of the pieces that blocks have brought, by address (R265). The boundary that started it stays open until it ends. -/
structure ReshardSt where
  plan : Option Nat
  round : Nat
  received : List Nat
  doneSent : Bool
  tags : List (Nat × Nat) := []
deriving DecidableEq, Repr

/-- A re-shard block that came before its round: rank, slot, round, bytes, poisoned units, the tag of its piece. -/
structure Block where
  rank : Nat
  slot : Nat
  round : Nat
  data : List Byte
  bad : List Nat
  tag : Nat
deriving DecidableEq, Repr

/-- A message as its frames come in: origin, kind, virtual channel, stream, tag, the next frame, its bytes, whether its last frame has
come (R247). -/
structure RxMsg where
  src : Nat
  kind : Nat
  vc : Nat
  stream : Nat
  vtag : Nat
  next : Nat
  data : List Byte
  whole : Bool
deriving DecidableEq, Repr

/-- The Chain as this engine sees it (09, 10): the head's collections, mode commit, messages, collectives, holders. -/
structure ChainSt where
  reports : List StepReport := []
  partials : List (Nat × Pair) := []
  proposals : List (Nat × Nat) := []
  pending : Option Proposal := none
  staged : Option (Nat × Nat) := none
  committed : Option Nat := none
  /-- Entry of the last PREPARE that no COMMIT or ABORT has answered. -/
  prepared : Option Nat := none
  failRank : Option (Nat × Nat) := none
  reported : Bool := false
  readySent : Bool := false
  stepFailed : Option Nat := none
  colls : List CollSt := []
  /-- Segments that arrived and are not yet combined (R258). -/
  segs : List Segment := []
  reduced : List Nat := []
  /-- Collectives whose slots are open (R28, R258). -/
  opened : List Nat := []
  layerTokens : List Nat := []
  holders : List (BitVec 256) := []
  /-- Version tags by holder entry (R265): of pieces that no update has written since they were loaded; of a piece that one has
  written (holder, piece, tag); and the tag that this engine expects of others. -/
  tags : List (Nat × Nat) := []
  pieces : List (Nat × Nat × Nat) := []
  expects : List (Nat × Nat) := []
  /-- Ordered remote adds that wait for an earlier PART, and the next PART by destination descriptor (R151). -/
  writes : List WriteReq := []
  parts : List (Nat × Nat) := []
  /-- Remote overwrites: destination descriptor, PARTs seen in the round, and the highest (PART, j) by position (R144). -/
  overwrites : List (Nat × List Nat × List (List Nat × Nat × Nat)) := []
  moves : List RemoteMove := []
  uses : List RemoteUse := []
  reshard : Option ReshardSt := none
  blocks : List Block := []
  /-- A probe request raised and not yet reported (R180). -/
  probeAsk : Bool := false
  /-- DONEs of a re-shard round that the head holds (rank, round). -/
  roundDones : List (Nat × Nat) := []
  /-- This engine's journal is being read (R341); whether a unit of it was not delivered good. -/
  journal : Option Bool := none
  /-- The holder table in force (R271): 0 that of HOLDERS, p + 1 that of re-shard plan p. -/
  holderVar : Nat := 0
  /-- Variants in force, by layer (R305). -/
  variants : List (Nat × Nat) := []
  sent : List NetMsg := []
  /-- Messages whose data is still being read, by number, and the next number (R150, R211, R270). -/
  answers : List (Nat × NetMsg) := []
  answerNo : Nat := 0
  /-- Messages of `sent` that have been cut into frames, and transfer numbers given (R247). -/
  packed : Nat := 0
  transfers : Nat := 0
  /-- Messages that came in frames. -/
  inbox : List RxMsg := []
deriving DecidableEq, Repr

/-- Where an arbitration stands: the class (R216) or virtual channel (R251) in turn, and what it may still send. -/
structure Turn where
  cls : Nat := 0
  left : Nat := 0
deriving DecidableEq, Repr

/-- The link layer of a Furlong port (R246 to R251, R272, R276). -/
structure PortSt where
  stage : Nat := 0
  tries : Nat := 0
  dark : Bool := true
  looped : Bool := false
  rxExpect : Nat := 0
  rxNaked : Bool := false
  sinceAck : Nat := 0
  sameFail : Nat := 0
  /-- The SEQ of the last failed frame (R250). -/
  failSeq : Nat := 0
  txSeq : Nat := 0
  replay : List Frame := []
  credits : List Nat := [0, 0, 0, 0]
  /-- The receive buffers in use, oldest first: frames in transit, and frames for this engine that may not be delivered yet (R253, R258,
  R356). -/
  rxBuf : List Frame := []
  txOut : List Frame := []
  retrainTimes : List Nat := []
  /-- The engine's own frames that wait for the port, oldest first, and the turn of its virtual channels (R251). -/
  inject : List Frame := []
  turn : Turn := {}
  /-- The peer's hello, until it is compared (R273). -/
  helloIn : Option Hello := none
deriving DecidableEq, Repr

/-- Who waits for a stack read (R211): the context's entry and, for each unit of the request, what takes bytes from it: units and words,
or one of the marks of Machine/Mem.lean. -/
structure Reader where
  ctx : Option Nat
  queue : Nat
  index : Nat
  dsts : List (List Nat)
  combine : Bool
deriving DecidableEq, Repr

/-- A stack-port request (R214, Table 7.4): its tag once sent, the first unit (port address / 64) and the number of units, who waits
for it, its traffic class (Table 7.5), the batch of requests that share sidecar units, the data units whose check bytes it covers
(a sidecar request, R209), the data of a write, and the bytes each of its data units held before it (R360). -/
structure StackReq where
  tag : Nat
  unit : Nat
  count : Nat
  reader : Reader
  cls : Nat
  batch : Nat
  covers : List Nat
  data : List (List Byte)
  old : List (List Byte) := []
deriving DecidableEq, Repr

/-- A data unit that has come and waits for its check bytes: batch, unit, data, reader, destinations. -/
structure HalfUnit where
  batch : Nat
  unit : Nat
  data : List Byte
  reader : Reader
  dsts : List Nat
deriving DecidableEq, Repr

/-- A stack port: outstanding reads and writes, oldest first, requests not sent yet, the turn of the classes (R216), the next batch number, sidecar
units that came before their data (batch, unit, bytes; none after ERR), and data that came before its sidecar unit (R209, R214). -/
structure StackSt where
  rd : List StackReq := []
  wr : List StackReq := []
  rdWait : List StackReq := []
  wrWait : List StackReq := []
  turn : Turn := {}
  batch : Nat := 0
  sides : List (Nat × Nat × Option (List Byte)) := []
  halves : List HalfUnit := []
deriving DecidableEq, Repr

/-- A restore as the chain head runs it (R334 to R339): its phase, what it heard in SCAN (rank, slot steps with COMMITTED or DONE,
mirrored COMMITTED steps), the ends of the phase, the erased ranks, the chosen step, steps that failed. `waiting`: this engine's own
restore waits for its ports. -/
structure RestoreSt where
  waiting : Bool := false
  phase : Nat := 4
  /-- The choices the head has made, one by one, and the ranks that have reported their slots since the last complete SCAN. -/
  round : Nat := 0
  fresh : List Nat := []
  heard : List (Nat × List (Nat × Bool) × List Nat) := []
  ends : List Nat := []
  erased : List Nat := []
  chosen : Nat := 0
  tried : List Nat := []
deriving DecidableEq, Repr

/-- A syndrome that waits for its pair (R336): stripe, offset in the cell, of Q or of P, bytes, units not readable. -/
structure Synd where
  stripe : Nat
  offset : Nat
  isQ : Bool
  data : List Byte
  bad : List (Nat × Nat)
deriving DecidableEq, Repr

/-- A piece of a stripe that waits for the units of this engine's cell (R336): the piece, the cell and the place read, and the units that
were not delivered good. -/
structure Serve where
  id : Nat
  msg : BushelMsg
  cell : Nat
  offset : Nat
  lost : List Nat := []
deriving DecidableEq, Repr

/-- The restore of this engine's shard (R336, R337): the slot, erased ranks, syndromes that wait for their pair, pieces of its cells that it
has read (cell, offset), units of its slot still to be rebuilt (cell, unit), cells that had such units, an unreadable answer,
whether the end of the phase is reported, ranks asked for digests. -/
structure FillSt where
  /-- The choice of the head that the present phase belongs to. -/
  round : Nat := 0
  /-- Pieces that wait for the units of this engine's cells, and the next number. -/
  serves : List Serve := []
  serveNo : Nat := 0
  /-- The digests to compare with once the slot has been read (R337), and whether LOAD still reads (R338). -/
  verdict : Option (Option (Nat × Nat)) := none
  loading : Bool := false
  slotB : Bool := false
  erased : List Nat := []
  synd : List Synd := []
  served : List (Nat × Nat) := []
  need : List (Nat × Nat) := []
  hurt : List Nat := []
  failed : Bool := false
  reported : Bool := false
  asked : List Nat := []
deriving DecidableEq, Repr

/-- Snapshots and partners (11): the snapshot in progress, the head's DONEs, the mirror source's silence, and a restore. The slots, their
records and the mirror lie in attached memory. -/
structure SnapSt where
  active : Bool := false
  step : Nat := 0
  slotB : Bool := false
  openTime : Nat := 0
  doneSent : Bool := false
  poisonSeen : Bool := false
  /-- A marked boundary was skipped while the present snapshot was in progress (R327). -/
  skipped : Bool := false
  /-- The next marked boundary is to be skipped with the rest of the Chain (R327). -/
  skipNext : Bool := false
  /-- The groups' declarations disagree (R320). -/
  mismatch : Bool := false
  /-- SEAL has come, the digest table is being written, and COMMIT waits for it; whether the head notes a skip (R327, R328). -/
  sealing : Option Bool := none
  /-- Records (3 for slot B, and the kind) whose unit was not delivered good when the slot was last read (R325). -/
  lostRecs : List Nat := []
  /-- State units that a block of an update unit waits to write (R329). -/
  updHeld : List Nat := []
  /-- Parity pieces written: 0 for P, 1 for Q, and the offset. -/
  pieces : List (Nat × Nat) := []
  /-- Pieces of the next snapshot that arrived early. -/
  early : List BushelMsg := []
  /-- DONEs that the head holds: rank, step, shard and parity digest. -/
  dones : List (Nat × Nat × Nat × Nat) := []
  lastMsg : Nat := 0
  /-- The present silence of the mirror source has been raised (R333). -/
  lost : Bool := false
  fill : FillSt := {}
  restore : RestoreSt := {}
deriving DecidableEq, Repr

end Sys2Proof.Machine
end

