-- ==== Sys2Proof/Machine/State.lean ====
section
/-!
DEFINITION. Sys2Proof/Machine/State.lean: the state of one engine, its faults and refusals, and the state at power-on reset.
-/
namespace Sys2Proof.Machine

/-- Why the block stops with a fault. -/
inductive Fault where
  /-- A command whose operands cannot be presented at the interface (WellFormed); raised by the commands that carry data of
  a fixed length. Safe: no part can receive such a command. -/
  | illFormed
deriving DecidableEq, Repr

/-- Why a command is refused. -/
inductive Refusal where
  /-- The command has no meaning in the model yet; raised by the dispatcher alone. Safe: the model stops. -/
  | notModelled (mnemonic : String)
deriving DecidableEq, Repr

/-- The state of one engine. -/
structure State where
  /-- The configuration, fixed at manufacture (R6). -/
  conf : Configuration
  /-- Commands that wait, first in first out. -/
  pending : List Instr
  /-- Counter of free values: the model's own field. -/
  free : Nat
  /-- Register words by register key; an unlisted one holds its reset value (Table 15.1). -/
  regs : Cells Word
  /-- Start-up phase; CP_ALIVE is 1 in `alive` alone (R395). -/
  boot : Boot
  /-- The return bus of reads, and the slow reads that have not returned, oldest first (R395, R396). -/
  cpRet : Option CpReturn
  slow : List SlowRead
  /-- The TAP (R384). -/
  tap : Tap
  /-- Levels of the board inputs that outlast a reset. -/
  pins : Pins
  /-- The event log (R431). -/
  log : LogSt
  /-- Power, clocks, thermal caps (12). -/
  pwr : PowerSt
  /-- Security, firmware, calibration (13). -/
  sec : SecSt
  /-- State of the management controller's processor, whose instructions the spec does not give. -/
  mcState : Nat
  /-- On-chip sections of the loaded image, and the image cache's source (R283). -/
  image : Option Image
  /-- A unit of the image could not be read in the admission that is in progress (R215). -/
  imgBad : Bool
  /-- Pages of the streamed sections: offset in the image, length, CRC-32 (R283). -/
  pageCrc : List (Nat × Nat × Nat)
  /-- The step number and the probe flag: SEQ.EPOCH of every bank (R297). -/
  epoch : BitVec 32
  probe : Bool
  /-- The contexts (10). -/
  ctxs : List Ctx
  /-- Token counts, by context * 4096 + token (R293). -/
  toks : Cells Nat
  /-- FX raises held for later micro-batches (R294). -/
  held : List Held
  /-- Micro-batches of the current step (R198). -/
  mbs : List Mb
  /-- Sides of cores, by core * 2 + side (R75). -/
  sides : List Side
  /-- Accumulator tiles, by (core * 2 + side) * 2 + tile (R93). -/
  tiles : List Tile
  /-- Operand buffers: core * 2^21 + (bank * 1536 + line) * 32 + byte (R77). -/
  obuf : Cells Byte
  /-- The Keg (R203). -/
  keg : Cells Byte
  /-- Update buffers: unit * 2^21 + byte (R222). -/
  ubuf : Cells Byte
  /-- SRAM words of 32 bytes that hold poison: space * 2^40 + byte address / 32 (R85, R152). -/
  bad : List Nat
  /-- Attached memory with its sidecars: port * 2^37 + port address (R207, R209). -/
  mem : Cells Byte
  /-- Stack ports (R214). -/
  sp : List StackSt
  /-- The 16 movers (R145). -/
  movers : List (Option Mover)
  /-- Tracker entries that the image declares (R160). -/
  trk : List Track
  /-- The forward-exchange interface. -/
  fx : FxSt
  /-- The update units. -/
  upd : UpdSt
  /-- The Chain. -/
  chain : ChainSt
  /-- The Furlong ports. -/
  fur : List PortSt
  /-- Snapshots and partners. -/
  snp : SnapSt
deriving DecidableEq, Repr

/-- The engine of configuration c with power-on reset held (R358): every register at its reset value, every SRAM word 0
(R359), the nonvolatile store as log entry 3 says. -/
def State.resetFor (c : Configuration) : State where
  conf := c
  pending := []
  free := 0
  regs := []
  boot := .porHeld
  cpRet := none
  slow := []
  tap := {}
  pins := {}
  log := {}
  pwr := {}
  sec := {}
  mcState := 0
  image := none
  imgBad := false
  pageCrc := []
  epoch := 0
  probe := false
  ctxs := List.replicate 64 {}
  toks := []
  held := []
  mbs := []
  sides := List.replicate 256 {}
  tiles := List.replicate 512 {}
  obuf := []
  keg := []
  ubuf := []
  bad := []
  mem := []
  sp := List.replicate 24 {}
  movers := List.replicate 16 none
  trk := []
  fx := {}
  upd := {}
  chain := {}
  fur := List.replicate 16 {}
  snp := {}

/-- The machine right after reset: an E128 (log entry 1) with power-on reset held. -/
def State.reset : State := State.resetFor .e128

end Sys2Proof.Machine
end

