-- ==== Sys2Proof/Machine/Ops.lean ====
section
/-!
DEFINITION. Sys2Proof/Machine/Ops.lean: the operations shared by every family: registers and fields, counters, interrupts,
the event log, the error sum, what a reset of the logic does, and the gate every register write passes.
-/
namespace Sys2Proof.Machine

/-- The outcome type of every meaning. -/
abbrev Out := Host.Outcome State Fault Refusal

/-! ## Registers and fields (R16, R418) -/

/-- The key of a register among the register words; units lie below 1,024. -/
def regKey (k : RegKind) (u : Nat) : Nat := 1024 * k.ctorIdx + u % 1024

/-- The reset value of a register, from its field table. -/
def resetWord (k : RegKind) (u : Nat) : Word :=
  (regFields k).foldl (fun w f => w ||| BitVec.ofNat 64 (f.reset * 2 ^ f.lo)) 0 |||
    (if k = .cfgRegion ∧ u ≠ 0 then 0x100000000 else 0)

/-- What an unlisted register word reads as: its reset value. -/
def regDefault (key : Nat) : Word :=
  match regKinds[key / 1024]? with
  | some k => resetWord k (key % 1024)
  | none => 0

/-- The stored word of a register. -/
def State.word (s : State) (k : RegKind) (u : Nat) : Word := cellGet regDefault s.regs (regKey k u)

/-- Store a register word. -/
def State.setWord (s : State) (k : RegKind) (u : Nat) (w : Word) : State :=
  { s with regs := cellSet regDefault s.regs (regKey k u) w }

/-- Field f of a register word. -/
def fldGet (f : Fld) (w : Word) : Nat := w.toNat / 2 ^ f.lo % 2 ^ f.width

/-- The bits of field f. -/
def fldMask (f : Fld) : Word := BitVec.ofNat 64 ((2 ^ f.width - 1) * 2 ^ f.lo)

/-- A register word with field f replaced. -/
def fldPut (f : Fld) (v : Nat) (w : Word) : Word :=
  (w &&& ~~~ fldMask f) ||| (BitVec.ofNat 64 (v * 2 ^ f.lo) &&& fldMask f)

/-- The value of field f in unit u. -/
def State.fld (s : State) (f : Fld) (u : Nat) : Nat := fldGet f (s.word f.kind u)

/-- Field f of unit u as a bit. -/
def State.flag (s : State) (f : Fld) (u : Nat) : Bool := decide (s.fld f u = 1)

/-- The engine writes field f of unit u (R422). -/
def State.setFld (s : State) (f : Fld) (u : Nat) (v : Nat) : State := s.setWord f.kind u (fldPut f v (s.word f.kind u))

/-- Set or clear a one-bit field. -/
def State.setFlag (s : State) (f : Fld) (u : Nat) (b : Bool) : State := s.setFld f u (if b then 1 else 0)

/-- A count that stops at its maximum. -/
def State.bump (s : State) (f : Fld) (u : Nat) (n : Nat) : State :=
  s.setFld f u (min (s.fld f u + n) (2 ^ f.width - 1))

/-- A two's complement value of w bits. -/
def twos (w : Nat) (i : Int) : Nat := (i % (2 ^ w : Nat)).toNat

/-- The signed reading of w bits. -/
def signed (w : Nat) (n : Nat) : Int := if 2 ^ (w - 1) ≤ n % 2 ^ w then (n % 2 ^ w : Int) - (2 ^ w : Nat) else (n % 2 ^ w : Int)

/-- A free value of w bits, and the counter advanced (log entry 2). -/
def State.draw (s : State) (w : Nat) : Nat × State := ((Config.freeWord s.free).toNat % 2 ^ w, { s with free := s.free + 1 })

/-! ## Interrupts and the event log (R430, R431) -/

/-- Record an interrupt event. -/
def State.irq (s : State) (f : Fld) : State := s.setFld f 0 1

/-- AON time (R429). -/
def State.time (s : State) : Nat := s.fld mgtTimeTime 0

/-- Whether an image is loaded: CFG.ADMIT.STATE is LOADED, DISPATCHING, RUNNING or HALTED. -/
def State.loaded (s : State) : Bool := s.image.isSome

/-- The values of CFG.ADMIT.STATE (Table 10.8). -/
abbrev admUnloaded : Nat := 0
abbrev admAdmitting : Nat := 1
abbrev admLoaded : Nat := 2
abbrev admRunning : Nat := 3
abbrev admHalted : Nat := 4
abbrev admDispatching : Nat := 5

def State.admState (s : State) : Nat := s.fld cfgAdmitState 0

/-- The newest entry, written or queued. -/
def LogSt.newest (l : LogSt) : Option LogEntry := l.queue.getLast?.or l.ring.head?

/-- Add 1 to the REPEAT of the newest entry. -/
def LogSt.fold (l : LogSt) : LogSt :=
  let up := fun (e : LogEntry) => { e with rep := min (e.rep + 1) 65535 }
  match l.queue.getLast? with
  | some e => { l with queue := l.queue.dropLast ++ [up e] }
  | none => { l with ring := match l.ring with | e :: t => up e :: t | [] => [] }

/-- The sequence number after n: from 1, wrapping from 2^32 - 1 to 1. -/
def seqNext (n : Nat) : Nat := if n = 4294967295 then 1 else n + 1

/-- The newest entry has this code and this place, and is less than 1,000 cycles old: the event is a repeat (R431). -/
def State.logRepeats (s : State) (code block unit side : Nat) : Bool :=
  match s.log.newest with
  | some e => e.code == code && e.block == block && e.unit == unit && e.side == side && decide (s.time < e.time + 1000)
  | none => false

/-- An event reaches the log's writer (R431). -/
def State.logSide (s : State) (code block unit side arg : Nat) : State :=
  if s.logRepeats code block unit side then { s with log := s.log.fold }
  else if 32 ≤ s.log.queue.length then s.bump mgtLogStatusDropped 0 1
  else
    let q := seqNext s.log.lastSeq
    let e : LogEntry := ⟨q, code, 0, s.time, block, unit, side, if s.loaded then s.epoch.toNat % 65536 else 0, arg⟩
    { s with log := { s.log with queue := s.log.queue ++ [e], lastSeq := q } }

/-- An event of a whole unit. -/
def State.logEv (s : State) (code block unit arg : Nat) : State := s.logSide code block unit 0 arg

/-- The writer writes one queued entry (R431, Table 15.10). -/
def State.logWrite (s : State) : State :=
  match s.log.queue with
  | [] => s
  | e :: rest =>
    let ring := (e :: s.log.ring).take 4096
    let wrap := decide (4096 ≤ s.log.ring.length)
    let s := { s with log := { s.log with ring := ring, queue := rest } }
    let s := (s.setFld mgtLogStatusNewest 0 e.seq).setFld mgtLogStatusHeld 0 ring.length
    (if wrap then s.setFld mgtLogStatusWrapped 0 1 else s).irq mgtIrqPendLog

/-! ## The error sum (R435) -/

/-- Corrected words, units or cells. -/
def State.sumCorr (s : State) (n : Nat) : State := if n = 0 then s else s.bump mgtErrsumCorr 0 n

/-- Uncorrectable words, units, cells or image pages: UNCORR of the interrupts with it. -/
def State.sumUncorr (s : State) (n : Nat) : State :=
  if n = 0 then s else
  let s' := s.bump mgtErrsumUncorr 0 n
  if s'.fld mgtErrsumUncorr 0 = s.fld mgtErrsumUncorr 0 then s' else s'.irq mgtIrqPendUncorr

/-- A corrected count of a register, and the sum with it. -/
def State.corr (s : State) (f : Fld) (u n : Nat) : State := if n = 0 then s else (s.bump f u n).sumCorr n

/-- An uncorrectable count of a register, and the sum with it. -/
def State.uncorr (s : State) (f : Fld) (u n : Nat) : State := if n = 0 then s else (s.bump f u n).sumUncorr n

/-! ## Where registers live, and the gate of writes -/

/-- The registers of the AON island (Table 15.1, R354). -/
def regAon (k : RegKind) : Bool := regBlock k == 0 || decide (11 ≤ regBlock k) || k == .mapRing

/-- Whether the configuration lacks the resource of a bank (R9, R364, R418). -/
def regAbsent (c : Configuration) (k : RegKind) (u : Nat) : Bool :=
  match k with
  | .seqCtrl | .seqStatus | .seqEpoch | .seqFault | .seqToksel | .seqToken | .seqDoorbell | .seqQsel | .seqQueue | .layIdxdrop =>
    decide (Config.ctx c ≤ u)
  | .arrCfg | .arrStatus | .arrPerf | .arrBuferr | .accCfg | .accTile | .accSatflag | .accStatus | .accDrain | .accErr =>
    decide (Config.cores c ≤ u)
  | .furCfg | .furLink | .furFec | .furRetry | .furPerf | .furCtrl => decide (Config.fports c ≤ u)
  | .laySperr | .laySpstat => decide (Config.sports c ≤ u)
  | .pwrClk | .mgtClpwr => decide (Config.clusters c ≤ u)
  | .pwrVgrp => decide (Config.vgroups c ≤ u)
  | _ => false

/-- The register at a control-port address; the low three bits do not exist (R393). -/
def regAt (addr : Nat) : Option (RegKind × Nat) :=
  let a := addr % 2 ^ 24 / 8 * 8
  (regKinds.find? fun k =>
    let (b, st, n) := regPlace k
    if st = 0 then a == b else decide (b ≤ a) && decide ((a - b) % st = 0) && decide ((a - b) / st < n)).map
    fun k => let (b, st, _) := regPlace k; (k, if st = 0 then 0 else (a - b) / st)

/-- The address of a register. -/
def regAddr (k : RegKind) (u : Nat) : Nat := let (b, st, _) := regPlace k; b + st * u

/-- The power state the engine is in: a transition ends it (R354, log entry 20). 0 Run, 1 Doze, 2 Sleep, 3 Hibernate. -/
def State.power (s : State) : Nat := if s.pwr.trans.isSome then s.pwr.fromState else s.fld pwrStatusState 0

/-- CP_ALIVE: the engine serves the control port (R395). -/
def State.alive (s : State) : Bool := decide (s.boot = .alive)

/-- The debug level in force (R383): 0 None, 1 Observe, 2 Intrusive. -/
def State.debugLevel (s : State) : Nat := s.fld dbgStatusLevel 0

/-- Security states (R368). -/
abbrev secOpen : Nat := 0
abbrev secSealed : Nat := 1
abbrev secLockdown : Nat := 2
def State.security (s : State) : Nat := s.fld secStateState 0

/-- CP_IRQ (R394, R397, R430): a bit that is pending and enabled, while the control port's outputs are driven: 0 in Sleep, Hibernate and
the resets (Table 14.1). -/
def State.cpIrq (s : State) : Bool :=
  s.alive && (decide (s.power ≤ 1) || s.pwr.warm) && decide (s.word .mgtIrqPend 0 &&& s.word .mgtIrqEn 0 ≠ 0)

/-- Set DBG.STATUS.REFUSED with its interrupt. -/
def State.dbgRefuse (s : State) : State :=
  if s.flag dbgStatusRefused 0 then s else (s.setFld dbgStatusRefused 0 1).irq mgtIrqPendDebug

/-- A write that a state of the engine discards is counted once (R434). -/
def State.cperrState (s : State) : State := s.bump mgtCperrState 0 1

/-- The gate of register writes: presented while CP_ALIVE (R395), set I for the TAP (R384; DBG.CTRL carries debug requests),
absent resources (R9), the power state (R354), Lockdown and ZPEND (R368, R377). `f` is what an accepted write does. -/
def State.gate (s : State) (src : Src) (k : RegKind) (u : Nat) (f : State → State) : State :=
  if !s.alive then s
  else if src == .tap && decide (s.debugLevel < 2) && k != .dbgCtrl then s.dbgRefuse.cperrState
  else if regAbsent s.conf k u then s
  else if (decide (s.security = secLockdown) || s.flag secStateZpend 0) && !(regBlock k == 11 || regBlock k == 12 || regBlock k == 14) then
    (s.logEv 0x0202 (regBlock k) 0 (regAddr k u)).cperrState
  else if decide (2 ≤ s.power) && !regAon k then s.cperrState
  else f s

/-! ## What a reset of the logic clears (Table 12.7) -/

/-- Register words with the blocks outside the AON island at reset. -/
def regsKeepAon (c : Cells Word) : Cells Word :=
  c.filter fun p => match regKinds[p.1 / 1024]? with | some k => regAon k | none => false

/-- Register words with the named blocks at reset, but for the kinds kept. -/
def regsDrop (blocks : List Nat) (keep : List RegKind) (c : Cells Word) : Cells Word :=
  c.filter fun p => match regKinds[p.1 / 1024]? with | some k => !blocks.contains (regBlock k) || keep.contains k | none => false

/-- Reset the logic and the SRAM outside the AON island: registers of CFG, SEQ, ARR, ACC, SCL, LAY, UPD, MAP, FUR and SNP,
every SRAM word a good codeword of zero, the image unloaded (R359). -/
def State.logicReset (s : State) : State :=
  let z := State.resetFor s.conf
  { s with
    regs := regsKeepAon s.regs
    cpRet := none
    slow := []
    image := none
    imgBad := false
    pageCrc := []
    epoch := 0
    probe := false
    ctxs := z.ctxs
    toks := []
    held := []
    mbs := []
    sides := z.sides
    tiles := z.tiles
    obuf := []
    keg := []
    ubuf := []
    bad := []
    sp := z.sp
    movers := z.movers
    trk := []
    fx := {}
    upd := {}
    chain := {}
    fur := z.fur
    snp := {} }

/-- Every port dark (Table 12.7, Table 12.9). -/
def State.portsDark (s : State) : State :=
  (List.range 16).foldl (fun s n => s.setFld furLinkState n 0) { s with fur := List.replicate 16 {} }

/-- Drive RING_BYP (R274): asserted means bypassed. -/
def State.ringBypass (s : State) (asserted : Bool) : State := s.setFlag mapRingBypAsserted 0 asserted

end Sys2Proof.Machine
end

