-- ==== Sys2Proof/Machine/Sc8.lean ====
section
/-!
DEFINITION. Sys2Proof/Machine/Sc8.lean: the SC8 code of attached memory (R210, R211).
-/
namespace Sys2Proof.Machine

/-- Multiplication by α = 0x02 in GF(2^8) on x^8 + x^4 + x^3 + x^2 + 1. -/
def gfDouble (a : Byte) : Byte := if a.getLsbD 7 then (a <<< 1) ^^^ 0x1D else a <<< 1

/-- a times the low n bits of b, by shift and add. -/
def gfMulAux : Nat → Byte → Byte → Byte
  | 0, _, _ => 0
  | n + 1, a, b => (if b.getLsbD 0 then a else 0) ^^^ gfMulAux n (gfDouble a) (b >>> 1)

/-- Multiplication in GF(2^8). -/
def gfMul (a b : Byte) : Byte := gfMulAux 8 a b

/-- α^k. -/
def gfAlpha : Nat → Byte
  | 0 => 1
  | k + 1 => gfDouble (gfAlpha k)

/-- a^n. -/
def gfPow (a : Byte) : Nat → Byte
  | 0 => 1
  | n + 1 => gfMul a (gfPow a n)

/-- The inverse of a non-zero element: a^254. -/
def gfInv (a : Byte) : Byte := gfPow a 254

/-- S_j = r(α^j) of a stored word c0 to c67 (R210). -/
def sc8Syndrome (j : Nat) (c : List Byte) : Byte := c.foldl (fun acc x => gfMul acc (gfAlpha j) ^^^ x) 0

/-- One step of the division by g(x) = (x - 1)(x - α)(x - α^2)(x - α^3) = x^4 + 0x0F x^3 + 0x36 x^2 + 0x78 x + 0x40. -/
def sc8Step (r : Byte × Byte × Byte × Byte) (d : Byte) : Byte × Byte × Byte × Byte :=
  let f := d ^^^ r.1
  (r.2.1 ^^^ gfMul f 0x0F, r.2.2.1 ^^^ gfMul f 0x36, r.2.2.2 ^^^ gfMul f 0x78, gfMul f 0x40)

/-- The good check bytes c64 to c67 of 64 data bytes. -/
def sc8Good (d : List Byte) : List Byte :=
  let r := d.foldl sc8Step (0, 0, 0, 0)
  [r.1, r.2.1, r.2.2.1, r.2.2.2]

/-- The check bytes of a unit written as poisoned: S0 = S1 = S2 = 0 and S3 = 0x01. -/
def sc8Poison (d : List Byte) : List Byte := (sc8Good d).zipWith (· ^^^ ·) [0xA2, 0x49, 0x92, 0x79]

/-- What a read of a unit finds (Table 7.3). -/
inductive Sc8 where
  | good
  | poisoned
  | corrected (position : Nat) (v : Byte)
  | uncorrectable
deriving DecidableEq, Repr

/-- The outcome of a stored word (Table 7.3). -/
def sc8Check (c : List Byte) : Sc8 :=
  let s0 := sc8Syndrome 0 c
  let s1 := sc8Syndrome 1 c
  let s2 := sc8Syndrome 2 c
  let s3 := sc8Syndrome 3 c
  if s0 = 0 ∧ s1 = 0 ∧ s2 = 0 ∧ s3 = 0 then .good
  else if s0 = 0 ∧ s1 = 0 ∧ s2 = 0 ∧ s3 = 1 then .poisoned
  else if s0 = 0 then .uncorrectable
  else
    match (List.range 68).find? (fun i =>
      let b := gfAlpha (67 - i)
      gfMul s0 b == s1 && gfMul s1 b == s2 && gfMul s2 b == s3) with
    | some i => .corrected i s0
    | none => .uncorrectable

/-- The data bytes a read delivers and whether it delivers them as poisoned. -/
def sc8Data (c : List Byte) : List Byte × Bool :=
  match sc8Check c with
  | .good => (c.take 64, false)
  | .corrected i v => ((c.modify i (· ^^^ v)).take 64, false)
  | .poisoned | .uncorrectable => (c.take 64, true)

end Sys2Proof.Machine
end

