-- ==== Sys2Proof/Machine/Mem.lean ====
section
/-!
DEFINITION. Sys2Proof/Machine/Mem.lean: attached memory behind the stack ports and the SRAM spaces: addresses, units and words,
poison, reads and batches of writes, and the requests of the stack ports (07, R132).
-/
namespace Sys2Proof.Machine

/-! ## Engine addresses (R207 to R209, R213) -/

/-- CAP in GiB; a value that is not a multiple of 16 from 16 to 128 is read as 0 (Table 7.9). -/
def State.capGib (s : State) : Nat :=
  let c := s.fld cfgSpcapCapGib 0
  if c % 16 = 0 ∧ 16 ≤ c ∧ c ≤ 128 then c else 0

/-- D: the data bytes of a port, 15/16 of CAP (R207). -/
def State.portData (s : State) : Nat := 15 * (2 ^ 30 * s.capGib / 16)

/-- SPORTS × D: the first engine address without memory behind it (R208). -/
def State.dataEnd (s : State) : Nat := Config.sports s.conf * s.portData

/-- The port and the port data address of an engine address; none at a hole (R207, R208). -/
def State.mapAddr (s : State) (a : Nat) : Option (Nat × Nat) :=
  if a < s.dataEnd then
    let u := a / 4096
    some (u % Config.sports s.conf, 4096 * (u / Config.sports s.conf) + a % 4096)
  else none

/-- The engine address of a port data address. -/
def State.unmapAddr (s : State) (port p : Nat) : Nat := 4096 * (p / 4096 * Config.sports s.conf + port) + p % 4096

/-- The key of a byte of attached memory. -/
def memKey (port a : Nat) : Nat := 2 ^ 37 * port + a

/-- What an unlisted byte of a memory reads as (log entry 5). -/
def byteZero : Nat → Byte := fun _ => 0

/-- The canonical form of a memory. -/
def Memory.wf (c : Cells Byte) : Bool := cellWf byteZero c

/-- Every sparse part of the state stands in its canonical form: attached memory, the SRAM spaces, register words, token counts. -/
def State.wf (s : State) : Bool :=
  Memory.wf s.mem && Memory.wf s.keg && Memory.wf s.obuf && Memory.wf s.ubuf && cellWf regDefault s.regs &&
    cellWf (fun _ => 0) s.toks

/-- Whether an engine address is coded: everywhere but in the image store (R213). -/
def State.coded (s : State) (a : Nat) : Bool :=
  let b := 2 ^ 26 * s.fld cfgRegionBase 0
  !(decide (b ≤ a) && decide (a < b + 2 ^ 26 * s.fld cfgRegionSize 0))

/-- n bytes of a memory from key k. -/
def cellBytes (c : Cells Byte) (k n : Nat) : List Byte := (List.range n).map fun i => cellGet byteZero c (k + i)

/-- Store bytes from key k. -/
def cellPut (c : Cells Byte) (k : Nat) (l : List Byte) : Cells Byte :=
  (l.zip (List.range l.length)).foldl (fun c p => cellSet byteZero c (k + p.2) p.1) c

/-- The stored word of the unit at port data address p: 64 data bytes and the four check bytes of the sidecar (R209). -/
def State.unitWord (s : State) (port p : Nat) : List Byte :=
  cellBytes s.mem (memKey port (p / 64 * 64)) 64 ++ cellBytes s.mem (memKey port (s.portData + 4 * (p / 64))) 4

/-- A stack port failed (R215). -/
def State.portFailed (s : State) (port : Nat) : Bool := s.flag laySpstatFailed port

/-- The unit at engine address a as a read delivers it: bytes and poison (R208, R211, R213, R215). -/
def State.readUnit (s : State) (a : Nat) : List Byte × Bool :=
  match s.mapAddr (a / 64 * 64) with
  | none => (List.replicate 64 0, false)
  | some (port, p) =>
    let w := s.unitWord port p
    if s.portFailed port then (w.take 64, true)
    else if s.coded (a / 64 * 64) then sc8Data w
    else (w.take 64, false)

/-- Write the whole unit at engine address a, as poisoned or good (R210, R212); holes and failed ports discard it. -/
def State.writeUnit (s : State) (a : Nat) (d : List Byte) (poison : Bool) : State :=
  match s.mapAddr (a / 64 * 64) with
  | none => s
  | some (port, p) =>
    if s.portFailed port then s
    else
      let m := cellPut s.mem (memKey port (p / 64 * 64)) d
      { s with mem :=
        if s.coded (a / 64 * 64) then cellPut m (memKey port (s.portData + 4 * (p / 64))) (if poison then sc8Poison d else sc8Good d)
        else m }

/-! ## Spaces: bytes by space and key. Space 0 keys are engine addresses; 1 the Keg; 2 operand buffers; 3 update buffers -/

/-- A byte's place: its space and its key in it. -/
structure Loc where
  space : Nat
  key : Nat
deriving DecidableEq, Repr

/-- The unit or word of a place: its code says the space, and counts 64-byte units or 32-byte words. -/
def Loc.code (l : Loc) : Nat := 2 ^ 40 * l.space + (if l.space = 0 then l.key / 64 else l.key / 32)

/-- The first key of a unit or word. -/
def codeKey (code : Nat) : Nat := (code % 2 ^ 40) * (if code / 2 ^ 40 = 0 then 64 else 32)

/-- The bytes of a unit or word. -/
def codeSize (code : Nat) : Nat := if code / 2 ^ 40 = 0 then 64 else 32

/-- The SRAM cells of a space. -/
def State.sram (s : State) (space : Nat) : Cells Byte := if space = 1 then s.keg else if space = 2 then s.obuf else s.ubuf

/-- Replace the SRAM cells of a space. -/
def State.setSram (s : State) (space : Nat) (c : Cells Byte) : State :=
  if space = 1 then { s with keg := c } else if space = 2 then { s with obuf := c } else { s with ubuf := c }

/-- A unit or word as a read delivers it: bytes and poison. -/
def State.readCode (s : State) (code : Nat) : List Byte × Bool :=
  if code / 2 ^ 40 = 0 then s.readUnit (codeKey code)
  else (cellBytes (s.sram (code / 2 ^ 40)) (codeKey code) 32, s.bad.contains code)

/-- Write a whole unit or word. -/
def State.writeCode (s : State) (code : Nat) (d : List Byte) (poison : Bool) : State :=
  if code / 2 ^ 40 = 0 then s.writeUnit (codeKey code) d poison
  else
    let s := s.setSram (code / 2 ^ 40) (cellPut (s.sram (code / 2 ^ 40)) (codeKey code) d)
    { s with bad := if poison then (if s.bad.contains code then s.bad else code :: s.bad) else s.bad.filter (· ≠ code) }

/-- The byte at a place, with its unit's poison; a place without memory reads zero. -/
def State.readLoc (s : State) (l : Option Loc) : Byte × Bool :=
  match l with
  | none => (0, false)
  | some l =>
    let (d, b) := s.readCode l.code
    (d.getD (l.key - codeKey l.code) 0, b)

/-- A byte to be written: its place, its value, whether it comes from poisoned data. -/
structure ByteWrite where
  loc : Loc
  val : Byte
  poison : Bool
deriving DecidableEq, Repr

/-- Merge the writes to one unit or word, in their order, and write it whole: poisoned when a written byte is, or when a byte
that stays comes from a poisoned unit (R152, R212). -/
def State.mergeCode (s : State) (code : Nat) (ws : List ByteWrite) : State :=
  let (old, oldBad) := s.readCode code
  let new := ws.foldl (fun d w => d.set (w.loc.key - codeKey code) w.val) old
  let covered := (List.range (codeSize code)).all fun i => ws.any fun w => w.loc.key == codeKey code + i
  s.writeCode code new (ws.any (·.poison) || (oldBad && !covered))

/-- The units and words a list of writes touches, in order of first touch. -/
def writeCodes (ws : List ByteWrite) : List Nat := (ws.map (·.loc.code)).eraseDups

/-- Write a batch: every unit or word once, as a whole (R212). -/
def State.writeBatch (s : State) (ws : List ByteWrite) : State :=
  (writeCodes ws).foldl (fun s c => s.mergeCode c (ws.filter fun w => w.loc.code == c)) s

/-- Mark a unit or word as poisoned, its data as it stands (R211, R215). -/
def State.poisonCode (s : State) (code : Nat) : State := s.writeCode code (s.readCode code).1 true

/-- Accesses to holes: HOLE, HOLE_CNT and the log, once for each unit touched (R208). -/
def State.touchHoles (s : State) (codes : List Nat) : State :=
  codes.foldl (fun s c =>
    if c / 2 ^ 40 = 0 ∧ s.mapAddr (codeKey c) = none then
      ((s.setFld layStashHole 0 1).bump layStashHoleCnt 0 1).logEv 0x0305 6 0 (codeKey c)
    else s) s

/-- Space, target and address to a place (R132): absent spaces, cores and units have none, and so has SPACE 4 to 7. SPACE 2 is
addressed by panel offset instead. -/
def State.spaceLoc (s : State) (space target addr : Nat) : Option Loc :=
  if space = 0 then some ⟨0, addr % 2 ^ 42⟩
  else if space = 1 then
    let cap := 2 ^ 20 * Config.kegMib s.conf
    if cap = 0 then none else some ⟨1, addr % cap⟩
  else if space = 3 then
    if target < Config.units s.conf then some ⟨3, 2 ^ 21 * target + addr % 2 ^ 21⟩ else none
  else none

/-- The key of byte b of bank and line in core k's operand buffer (R77). -/
def obufKey (k bank line b : Nat) : Nat := 2 ^ 21 * k + 32 * (1536 * bank + line) + b

/-- The place of panel offset o: base line, G / 32, in core `target` (R78, Table 5.3). -/
def State.panelLoc (s : State) (target base g32 o : Nat) : Option Loc :=
  if target < Config.cores s.conf then
    let q := if g32 = 0 then 1 else g32
    let a := o / (1024 * q)
    let g := o % (1024 * q) / 32
    some ⟨2, obufKey target ((a + g) % 32) ((base + a * q + g / 32) % 1536) (o % 32)⟩
  else none

/-- n bytes of region 0 from an offset, without SC8 (R213). -/
def State.region0Bytes (s : State) (off n : Nat) : List Byte :=
  let b := 2 ^ 26 * s.fld cfgRegionBase 0
  (List.range n).map fun i =>
    match s.mapAddr (b + off + i) with
    | some (port, p) => cellGet byteZero s.mem (memKey port p)
    | none => 0

/-- The engine address that a key of attached memory belongs to: data, or check bytes of its unit; none above the sidecar. -/
def State.keyAddr (s : State) (k : Nat) : Option Nat :=
  let port := k / 2 ^ 37
  let a := k % 2 ^ 37
  let d := s.portData
  if a < d then some (s.unmapAddr port a)
  else if a < d + d / 16 then some (s.unmapAddr port ((a - d) / 4 * 64))
  else none

/-- Write zero data and good check bytes, which are zero, to every unit of the regions (R210, R376). -/
def State.clearRegions (s : State) (rs : List (Nat × Nat)) : State :=
  { s with mem := s.mem.filter fun c =>
    match s.keyAddr c.1 with
    | some a => !rs.any fun r => decide (2 ^ 26 * r.1 ≤ a) && decide (a < 2 ^ 26 * (r.1 + r.2))
    | none => true }

/-- Clear the regions of a zeroisation, mapped by the capacity that it found: CFG.SPCAP has been reset since (R376). -/
def State.clearMap (s : State) (m : ZeroMap) : State :=
  { s with mem := ((s.setFld cfgSpcapCapGib 0 m.cap).clearRegions m.regions).mem }

/-! ## Requests of the stack ports (R209, R214, R216) -/

/-- Traffic classes of a stack port (Table 7.5). -/
abbrev clsOpr : Nat := 0
abbrev clsDrn : Nat := 1
abbrev clsSts : Nat := 2
abbrev clsUpd : Nat := 3
abbrev clsFur : Nat := 4
abbrev clsCod : Nat := 5
abbrev clsNar : Nat := 6

/-- The weight of a class: the image's, else the default of Table 7.5. -/
def State.classWeight (s : State) (c : Nat) : Nat :=
  let dflt := [8, 4, 4, 4, 4, 2, 0]
  match s.image with
  | some i => (i.classWeights[c]?).getD (dflt.getD c 0)
  | none => dflt.getD c 0

/-- The units a request covers: port unit indices. -/
def StackReq.units (r : StackReq) : List Nat := (List.range r.count).map (r.unit + ·)

/-- Whether two requests share a unit. -/
def StackReq.meets (a b : StackReq) : Bool := a.units.any b.units.contains

/-- The lowest tag of 0 to 1,023 that is not outstanding. -/
def freeTag (l : List StackReq) : Option Nat := (List.range 1024).find? fun t => !l.any (·.tag == t)

/-- The waiting requests that `held` does not hold back, each only when no older waiting one shares a unit with it. -/
def readyReqs (held : StackReq → Bool) (l : List StackReq) : List StackReq :=
  (l.foldl (fun (acc : List StackReq × List StackReq) r =>
    (acc.1 ++ [r], if held r || acc.1.any r.meets then acc.2 else acc.2 ++ [r])) ([], [])).2

/-- The first k units of a waiting request, and the rest of it. -/
def StackReq.cut (r : StackReq) (k : Nat) : StackReq × Option StackReq :=
  let part := fun (n : Nat) (f : {α : Type} → List α → List α) (u : Nat) =>
    ({ r with
      unit := u, count := n, data := f r.data, old := f r.old
      reader := { r.reader with dsts := f r.reader.dsts } } : StackReq)
  if k = 0 ∨ r.count ≤ k then (r, none)
  else (part k (fun l => l.take k) r.unit, some (part (r.count - k) (fun l => l.drop k) (r.unit + k)))

/-- A waiting request: a write or a read. -/
structure WaitReq where
  write : Bool
  req : StackReq
deriving DecidableEq, Repr

/-- The waiting requests of a port that may be sent, reads first: no second access to a unit of an outstanding write, no write to a unit of
an outstanding read, a tag free (R214). -/
def StackSt.ready (p : StackSt) : List WaitReq :=
  (if (freeTag p.rd).isNone then [] else (readyReqs (fun r => p.wr.any r.meets) p.rdWait).map (⟨false, ·⟩)) ++
    if (freeTag p.wr).isNone then [] else (readyReqs (fun r => p.wr.any r.meets || p.rd.any r.meets) p.wrWait).map (⟨true, ·⟩)

/-- The oldest request of a class. -/
def oldestReq (l : List WaitReq) (c : Nat) : Option WaitReq :=
  l.foldl (fun (m : Option WaitReq) x =>
    if x.req.cls ≠ c then m else match m with
    | some y => if x.req.batch < y.req.batch then some x else m
    | none => some x) none

/-- The next request of weighted round-robin, unit by unit (R216): of the class in turn while it has units left, then of the next class of a
weight; of a class of weight 0 only when no other waits. With it the units of it that the turn still has, and the turn then. -/
def pickReq (weight : Nat → Nat) (waits : List StackReq) (t : Turn) (ready : List WaitReq) : Option (WaitReq × Nat × Turn) :=
  let go := fun (x : WaitReq) (left : Nat) => (x, left, (⟨x.req.cls, left - x.req.count⟩ : Turn))
  let here := if 0 < t.left then (oldestReq ready t.cls).map (go · t.left) else none
  let later := ((List.range 7).map fun k => (t.cls + 1 + k) % 7).findSome? fun c =>
    if weight c = 0 then none else (oldestReq ready c).map (go · (weight c))
  let last := if waits.any fun r => decide (0 < weight r.cls) then none else ready.head?.map (go · 0)
  here.or (later.or last)

/-- Send up to n waiting requests, cut where the turn of their class ends. -/
def StackSt.sendNext (weight : Nat → Nat) : Nat → StackSt → StackSt
  | 0, p => p
  | n + 1, p =>
    match pickReq weight (p.rdWait ++ p.wrWait) p.turn p.ready with
    | none => p
    | some (x, k, u) =>
      let (now, rest) := x.req.cut k
      let wait := fun (l : List StackReq) => l.flatMap fun r => if r = x.req then rest.toList else [r]
      StackSt.sendNext weight n
        (if x.write then { p with wr := p.wr ++ [{ now with tag := (freeTag p.wr).getD 0 }], wrWait := wait p.wrWait, turn := u }
         else { p with rd := p.rd ++ [{ now with tag := (freeTag p.rd).getD 0 }], rdWait := wait p.rdWait, turn := u })

/-- Send what may be sent. -/
def StackSt.send (weight : Nat → Nat) (p : StackSt) : StackSt := p.sendNext weight (4 * (p.rdWait.length + p.wrWait.length))

/-! ## What takes bytes from a unit that is read, other than a unit or word -/

/-- The source of a collective; part k of a held message; a tile that comes back from its save area; record k of a Bushel slot; unit u of a
piece that a fill serves; what VERIFY and LOAD must read good; the journal. -/
def markColl (num : Nat) : Nat := 2 ^ 60 + num
def markAnswer (id k : Nat) : Nat := 2 ^ 61 + 2 ^ 30 * id + k
def markTile (n : Nat) : Nat := 2 ^ 60 + 2 ^ 50 + n
def markSlot (slotB : Bool) (k : Nat) : Nat := 2 ^ 60 + 2 ^ 51 + (if slotB then 3 else 0) + k
def markServe (id u : Nat) : Nat := 2 ^ 60 + 2 ^ 52 + 2 ^ 10 * id + u
def markRestore : Nat := 2 ^ 60 + 2 ^ 53
def markJournal : Nat := 2 ^ 60 + 2 ^ 54

/-- Whether a destination is a unit or word. -/
def isCode (d : Nat) : Bool := decide (d < 2 ^ 50)

/-- Replace stack port n's state. -/
def State.setSp (s : State) (n : Nat) (f : StackSt → StackSt) : State := { s with sp := s.sp.modify n f }

/-- Count bytes that the narrow path moves; the count wraps (R158). -/
def State.countNarrow (s : State) (n : Nat) : State := s.setFld layNarrowBytes 0 ((s.fld layNarrowBytes 0 + n) % 2 ^ 32)

/-- Who makes an access: a context's entry, or none, and its traffic class. -/
structure Who where
  ctx : Option Nat
  queue : Nat
  index : Nat
  cls : Nat := clsOpr
deriving DecidableEq, Repr

/-- Engine code: FX stash pushes, recompute landings and seeds. -/
def Who.engine : Who := ⟨none, 0, 0, clsSts⟩

/-- The Furlong transport: what remote engines read and write here. -/
def Who.furlong : Who := ⟨none, 0, 0, clsFur⟩

/-- The coder's bulk capture and parity traffic (Table 7.5). -/
def Who.coder : Who := ⟨none, 0, 0, clsCod⟩

/-- The narrow path, for its owner: 1 the management controller, 2 the debug port, 3 the snapshot coder (R147, R158). -/
def Who.narrow (owner : Nat) : Who := ⟨none, 0, owner, clsNar⟩

/-- Whether unit u continues request r: next in order, within one aligned block of 256 bytes, at most 4 units (R214). -/
def StackReq.extends (r : StackReq) (u : Nat) : Bool := u == r.unit + r.count && decide (r.count < 4) && u / 4 == r.unit / 4

/-- A unit that a batch of requests names: port unit index, the destinations that take bytes from it, its class, and of a write its
data and the bytes before it. -/
structure UnitAsk where
  unit : Nat
  dsts : List Nat
  cls : Nat
  data : List Byte := []
  old : List Byte := []
deriving DecidableEq, Repr

/-- Requests for units of one port, in order. -/
def groupUnits (w : Who) (combine : Bool) (batch : Nat) (write : Bool) (l : List UnitAsk) : List StackReq :=
  (l.foldl (fun (acc : List StackReq) u =>
    let d := if write then [u.data] else []
    let o := if write then [u.old] else []
    let new : StackReq := ⟨0, u.unit, 1, ⟨w.ctx, w.queue, w.index, [u.dsts], combine⟩, u.cls, batch, [], d, o⟩
    match acc with
    | r :: t =>
      if r.extends u.unit && r.cls == u.cls then
        { r with
          count := r.count + 1
          data := r.data ++ d
          old := r.old ++ o
          reader := { r.reader with dsts := r.reader.dsts ++ [u.dsts] } } :: t
      else new :: acc
    | [] => [new]) []).reverse

/-- The port unit of the sidecar that holds the check bytes of data unit u (R209). -/
def State.sideUnit (s : State) (u : Nat) : Nat := (s.portData + 4 * u) / 64

/-- Requests for the sidecar units of the coded ones among data units of one port, each once, in the class of the data (R209, R216); `old`
is attached memory before a write. -/
def State.sideReqs (s : State) (port : Nat) (w : Who) (combine : Bool) (batch : Nat) (write : Bool) (old : Cells Byte) (l : List UnitAsk) :
    List StackReq :=
  let us := l.filter fun u => s.coded (s.unmapAddr port (64 * u.unit))
  ((us.map fun u => s.sideUnit u.unit).eraseDups).map fun k =>
    let mine := us.filter fun u => s.sideUnit u.unit == k
    ⟨0, k, 1, ⟨w.ctx, w.queue, w.index, [[]], combine⟩, (mine.head?.map (·.cls)).getD w.cls, batch, mine.map (·.unit),
      if write then [cellBytes s.mem (memKey port (64 * k)) 64] else [],
      if write then mine.map fun u => cellBytes old (memKey port (s.portData + 4 * u.unit)) 4 else []⟩

/-- The class of an access: operands and moves out of the Hogshead region cross in STS (Table 7.5). -/
def State.unitClass (s : State) (w : Who) (write : Bool) (a : Nat) : Nat :=
  let b := 2 ^ 26 * s.fld cfgRegionBase 3
  if w.cls = clsOpr ∧ write = false ∧ b ≤ a ∧ a < b + 2 ^ 26 * s.fld cfgRegionSize 3 then clsSts else w.cls

/-- The units of attached memory among codes that lie on port n; `old` is attached memory before a write. -/
def State.portUnits (s : State) (n : Nat) (w : Who) (write : Bool) (old : Cells Byte) (l : List (Nat × List Nat)) : List UnitAsk :=
  l.filterMap fun c =>
    if c.1 / 2 ^ 40 ≠ 0 then none
    else match s.mapAddr (codeKey c.1) with
    | some (port, p) =>
      let bytes := fun m => if write then cellBytes m (memKey n (p / 64 * 64)) 64 else []
      if port = n then some ⟨p / 64, c.2, s.unitClass w write (codeKey c.1), bytes s.mem, bytes old⟩ else none
    | none => none

/-- Issue reads of units (code, destinations that take bytes from it), with those of their sidecar units; failed ports get none (R209,
R214, R215). -/
def State.issueReads (s : State) (w : Who) (combine : Bool) (l : List (Nat × List Nat)) : State :=
  (List.range (Config.sports s.conf)).foldl (fun s n =>
    let us := s.portUnits n w false [] l
    if us.isEmpty || s.portFailed n then s
    else s.setSp n fun p =>
      let q := groupUnits w combine p.batch false us ++ s.sideReqs n w combine p.batch false [] us
      ({ p with rdWait := p.rdWait ++ q, batch := p.batch + 1 } : StackSt).send s.classWeight) s

/-- Issue writes of units, their data as memory now holds it, `old` memory as it was. The sidecar units are read and written, for check
bytes are merged into them (R212). -/
def State.issueWrites (s : State) (old : Cells Byte) (w : Who) (l : List Nat) : State :=
  (List.range (Config.sports s.conf)).foldl (fun s n =>
    let us := s.portUnits n w true old (l.map fun c => (c, []))
    if us.isEmpty || s.portFailed n then s
    else s.setSp n fun p =>
      let side := s.sideReqs n w false p.batch true old us
      let part := (side.filter fun r => r.covers.length < 16).map fun r => { r with data := [], old := [], covers := [] }
      ({ p with
        rdWait := p.rdWait ++ part
        wrWait := p.wrWait ++ groupUnits w false p.batch true us ++ side
        batch := p.batch + 1 } : StackSt).send s.classWeight) s

/-- The units and words that a batch of writes covers in part, every one of a combining batch: they are read first (R212). -/
def partCodes (combine : Bool) (ws : List ByteWrite) : List Nat :=
  (writeCodes ws).filter fun c => combine ||
    !(List.range (codeSize c)).all fun i => ws.any fun x => x.loc.space == c / 2 ^ 40 && x.loc.key == codeKey c + i

/-- Write a batch with its requests: the writes, and the reads of units it covers in part (R212). -/
def State.storeBatch (s : State) (w : Who) (combine : Bool) (ws : List ByteWrite) : State :=
  let codes := writeCodes ws
  let s := s.touchHoles codes
  ((s.issueReads w combine ((partCodes combine ws).map fun c => (c, [c]))).writeBatch ws).issueWrites s.mem w codes

/-- The keys of a unit of a port (R209). -/
def unitKeys (port unit : Nat) : List Nat := (List.range 64).map (memKey port (64 * unit) + ·)

/-- Bytes of attached memory whose content is open. -/
def State.scramble (s : State) (key n : Nat) : State :=
  { s with
    mem := cellPut s.mem key ((List.range n).map fun i => Config.freeByte (s.free + i))
    free := s.free + n }

/-- A unit whose content is open: what a controller left after an error on a write of it (R215). -/
def State.scrambleUnit (s : State) (port unit : Nat) : State := s.scramble (memKey port (64 * unit)) 64

/-- A piece of an unanswered write that a controller completes or abandons as a whole: bytes by key as they were before it, and whether
the write has been sent. -/
structure OpenWrite where
  parts : List (Nat × List Byte)
  sent : Bool
deriving DecidableEq, Repr

/-- The pieces of a write request: each data unit is one; the check bytes in a sidecar unit are one (R212). -/
def State.openPieces (s : State) (port : Nat) (sent : Bool) (r : StackReq) : List OpenWrite :=
  if r.covers.isEmpty then (r.units.zip r.old).map fun u => ⟨[(memKey port (64 * u.1), u.2)], sent⟩
  else [⟨(r.covers.zip r.old).map fun u => (memKey port (s.portData + 4 * u.1), u.2), sent⟩]

/-- The unanswered writes of the ports, the newest of a port first. -/
def State.openWrites (s : State) : List OpenWrite :=
  (List.range s.sp.length).flatMap fun n =>
    let p := s.sp.getD n {}
    p.wrWait.reverse.flatMap (s.openPieces n false) ++ p.wr.reverse.flatMap (s.openPieces n true)

/-- A write comes to nothing: its bytes are as before it. -/
def State.undoWrite (s : State) (w : OpenWrite) : State :=
  { s with mem := w.parts.foldl (fun m x => cellPut m x.1 x.2) s.mem }

/-- A write that a reset cuts off: one not yet sent comes to nothing; the controller completes or abandons one that it has (R360). -/
def State.cutWrite (s : State) (w : OpenWrite) : State :=
  if w.sent then (if (s.draw 1).1 = 0 then (s.draw 1).2 else (s.draw 1).2.undoWrite w) else s.undoWrite w

/-- A reset begins: every write in flight is completed or abandoned (R360). -/
def State.cutWrites (s : State) : State := s.openWrites.foldl State.cutWrite s

/-- Store bytes at consecutive addresses of attached memory or the Keg. -/
def bytesAt (space a : Nat) (d : List Byte) (poison : Bool) : List ByteWrite :=
  (d.zip (List.range d.length)).map fun p => ⟨⟨space, a + p.2⟩, p.1, poison⟩

/-- Read n bytes of a space from a key on: the bytes and whether any unit is poisoned. -/
def State.loadBytes (s : State) (space a n : Nat) : List Byte × Bool :=
  let r := (List.range n).map fun i => s.readLoc (some ⟨space, a + i⟩)
  (r.map (·.1), r.any (·.2))

end Sys2Proof.Machine
end

