-- ==== Sys2Proof/Machine/Num.lean ====
section
/-!
DEFINITION. Sys2Proof/Machine/Num.lean: exact values, the roundings of 02 section 2.6, and the conversions of the eight
formats (R33 to R59), with the compensated addition of R95.
-/
namespace Sys2Proof.Machine

/-- A value before it is rounded: NaN, an infinity, or the exact number (-1)^neg * m * 2^e (m = 0 is a signed zero). -/
inductive Val where
  | nan
  | inf (neg : Bool)
  | fin (neg : Bool) (m : Nat) (e : Int)
deriving DecidableEq, Repr

/-- The value +0. -/
def valZero : Val := .fin false 0 0

def valIsNan : Val → Bool
  | .nan => true
  | _ => false

def valIsFinite : Val → Bool
  | .fin _ _ _ => true
  | _ => false

def valIsZero : Val → Bool
  | .fin _ 0 _ => true
  | _ => false

/-- The sign of a value; NaN has none that is preserved (R48). -/
def valNeg : Val → Bool
  | .nan => false
  | .inf n => n
  | .fin n _ _ => n

def valNegate : Val → Val
  | .nan => .nan
  | .inf n => .inf (!n)
  | .fin n m e => .fin (!n) m e

def valAbs : Val → Val
  | .nan => .nan
  | .inf _ => .inf false
  | .fin _ m e => .fin false m e

/-- Multiplication by 2^k, exact. -/
def valScale (k : Int) : Val → Val
  | .fin n m e => .fin n m (e + k)
  | v => v

/-- An integer as an exact value; 0 is +0. -/
def valOfInt (i : Int) : Val := .fin (decide (i < 0)) i.natAbs 0

/-- m shifted right by sh places, rounded to nearest, ties to even (R57, 02 section 2.6). -/
def rneShift (m sh : Nat) : Nat :=
  if sh = 0 then m
  else
    let f := m >>> sh
    let r := m % 2 ^ sh
    let half := 2 ^ (sh - 1)
    if half < r then f + 1 else if r = half ∧ f % 2 = 1 then f + 1 else f

/-- RNE of m * 2^e to at most p significant bits and to a lowest bit of weight at least 2^qmin (R49: one rounding). -/
def rneNat (p : Nat) (qmin : Int) (m : Nat) (e : Int) : Nat × Int :=
  if m = 0 then (0, e)
  else
    let q := max (e + (Nat.log2 m : Int) + 1 - (p : Int)) qmin
    if q ≤ e then (m, e) else (rneShift m (q - e).toNat, q)

/-- Whether m1 * 2^e1 < m2 * 2^e2. -/
def magLt (m1 : Nat) (e1 : Int) (m2 : Nat) (e2 : Int) : Bool :=
  let b := min e1 e2
  decide (m1 * 2 ^ (e1 - b).toNat < m2 * 2 ^ (e2 - b).toNat)

/-- Whether |a| < |b|; a NaN compares false. -/
def absLt : Val → Val → Bool
  | .fin _ m e, .fin _ m' e' => magLt m e m' e'
  | .fin _ _ _, .inf _ => true
  | _, _ => false

/-- The integer of m * 2^(e - b), for b at most e, with its sign. -/
def alignInt (n : Bool) (m : Nat) (e b : Int) : Int :=
  let x : Int := (m * 2 ^ (e - b).toNat : Nat)
  if n then -x else x

/-- The exact sum, with the special values and the signed zeros of R64. -/
def valAdd : Val → Val → Val
  | .nan, _ => .nan
  | _, .nan => .nan
  | .inf a, .inf b => if a = b then .inf a else .nan
  | .inf a, _ => .inf a
  | _, .inf b => .inf b
  | .fin n1 m1 e1, .fin n2 m2 e2 =>
    let b := min e1 e2
    let s := alignInt n1 m1 e1 b + alignInt n2 m2 e2 b
    if s = 0 then .fin (m1 == 0 && m2 == 0 && n1 && n2) 0 0 else .fin (decide (s < 0)) s.natAbs b

/-- The exact product; zero times infinity is NaN (R64). -/
def valMul : Val → Val → Val
  | .nan, _ => .nan
  | _, .nan => .nan
  | .inf a, .inf b => .inf (a != b)
  | .inf a, .fin n m _ => if m = 0 then .nan else .inf (a != n)
  | .fin n m _, .inf b => if m = 0 then .nan else .inf (n != b)
  | .fin n1 m1 e1, .fin n2 m2 e2 => .fin (n1 != n2) (m1 * m2) (e1 + e2)

/-- The quotient with enough bits and a sticky bit below them; IEEE special values (R224). -/
def valDiv : Val → Val → Val
  | .nan, _ => .nan
  | _, .nan => .nan
  | .inf _, .inf _ => .nan
  | .inf a, .fin n _ _ => .inf (a != n)
  | .fin n _ _, .inf b => .fin (n != b) 0 0
  | .fin n1 m1 e1, .fin n2 m2 e2 =>
    if m2 = 0 then (if m1 = 0 then .nan else .inf (n1 != n2))
    else if m1 = 0 then .fin (n1 != n2) 0 0
    else
      let k := 64 + Nat.log2 m2
      let q := m1 * 2 ^ k / m2
      let st := if m1 * 2 ^ k % m2 = 0 then 0 else 1
      .fin (n1 != n2) (2 * q + st) (e1 - e2 - k - 1)

/-- The integer square root, one bit at a time from bit n - 1. -/
def isqrtFrom : Nat → Nat → Nat → Nat
  | 0, _, acc => acc
  | n + 1, m, acc => isqrtFrom n m (if (acc + 2 ^ n) * (acc + 2 ^ n) ≤ m then acc + 2 ^ n else acc)

/-- The square root with enough bits and a sticky bit below them; IEEE special values (R224). -/
def valSqrt : Val → Val
  | .nan => .nan
  | .inf n => if n then .nan else .inf false
  | .fin n m e =>
    if m = 0 then .fin n 0 0
    else if n then .nan
    else
      let odd : Nat := if e % 2 = 0 then 0 else 1
      let m' := m * 2 ^ (128 + odd)
      let e' := (e - odd) / 2 - 64
      let r := isqrtFrom (Nat.log2 m' / 2 + 1) m' 0
      let st := if r * r = m' then 0 else 1
      .fin false (2 * r + st) (e' - 1)

/-- Round to p bits with an unbounded exponent: the tree form of R64. -/
def roundTree (p : Nat) : Val → Val
  | .fin n m e => let (m', e') := rneNat p (-100000) m e; .fin n m' e'
  | v => v

/-- Decode a binary floating-point code with fraction width fb and the given bias, e and f its fields; the exponent
field `esp` is the special one (infinity and NaN). -/
def decodeIeee (fb bias esp : Nat) (neg : Bool) (e f : Nat) : Val :=
  if e = esp then (if f = 0 then .inf neg else .nan)
  else if e = 0 then .fin neg f (1 - (bias : Int) - fb)
  else .fin neg (2 ^ fb + f) ((e : Int) - bias - fb)

/-- Decode a code of 1 + eb + fb bits. -/
def decodeBits (eb fb bias esp x : Nat) : Val :=
  decodeIeee fb bias esp (decide (x / 2 ^ (eb + fb) % 2 = 1)) (x / 2 ^ fb % 2 ^ eb) (x % 2 ^ fb)

/-- G16 (R35, R36). -/
def decodeG16 (x : Nat) : Val := decodeBits 6 9 31 63 x
/-- IEEE binary16. -/
def decodeH16 (x : Nat) : Val := decodeBits 5 10 15 31 x
/-- bfloat16: the upper half of binary32. -/
def decodeB16 (x : Nat) : Val := decodeBits 8 7 127 255 x
/-- IEEE binary32. -/
def decodeS32 (x : Nat) : Val := decodeBits 8 23 127 255 x
/-- F8A has no infinity; 0x7F and 0xFF are NaN (R37). -/
def decodeF8A (x : Nat) : Val :=
  if x % 128 = 127 then .nan else decodeIeee 3 7 16 (decide (x / 128 % 2 = 1)) (x / 8 % 16) (x % 8)
/-- F8B (R38). -/
def decodeF8B (x : Nat) : Val := decodeBits 5 2 15 31 x

/-- m * 2^k with an exact shift right for a negative k. -/
def shiftExact (m : Nat) (k : Int) : Nat := if 0 ≤ k then m * 2 ^ k.toNat else m / 2 ^ (-k).toNat

/-- The exponent and fraction fields of an already rounded magnitude. -/
def fieldsOf (fb bias m : Nat) (e : Int) : Nat :=
  if m = 0 then 0
  else
    let l := (Nat.log2 m : Int)
    let ex := e + l + bias
    if ex ≤ 0 then shiftExact m (e - (1 - (bias : Int) - fb))
    else ex.toNat * 2 ^ fb + (shiftExact m ((fb : Int) - l) - 2 ^ fb)

/-- What a conversion gives: the code, and whether it counts as an overflow or an underflow (R50, R51, R172). -/
structure Conv where
  bits : Nat
  ovf : Bool
  unf : Bool
deriving DecidableEq, Repr

/-- A float format: sign bit position, fraction width, bias, the largest finite code, what a finite overflow writes and
what an infinity writes (each a magnitude code), the NaN code, and whether an infinite input counts (R50, R52). -/
structure FloatFmt where
  sign : Nat
  fb : Nat
  bias : Nat
  maxCode : Nat
  ovfCode : Nat
  infCode : Nat
  nanCode : Nat
  infCounts : Bool
deriving DecidableEq, Repr

def fmtG16 : FloatFmt := ⟨15, 9, 31, 0x7DFF, 0x7E00, 0x7E00, 0x7F00, false⟩
def fmtH16 : FloatFmt := ⟨15, 10, 15, 0x7BFF, 0x7C00, 0x7C00, 0x7E00, false⟩
def fmtB16 : FloatFmt := ⟨15, 7, 127, 0x7F7F, 0x7F80, 0x7F80, 0x7FC0, false⟩
def fmtS32 : FloatFmt := ⟨31, 23, 127, 0x7F7FFFFF, 0x7F800000, 0x7F800000, 0x7FC00000, false⟩
def fmtF8A : FloatFmt := ⟨7, 3, 7, 0x7E, 0x7E, 0x7E, 0x7F, true⟩
def fmtF8B : FloatFmt := ⟨7, 2, 15, 0x7B, 0x7B, 0x7C, 0x7E, false⟩

/-- RNE to a float format with the overflow, underflow and special-value rules of R48 to R52. -/
def encodeFloat (f : FloatFmt) : Val → Conv
  | .nan => ⟨f.nanCode, false, false⟩
  | .inf n => ⟨(if n then 2 ^ f.sign else 0) + f.infCode, f.infCounts, false⟩
  | .fin n m e =>
    let s := if n then 2 ^ f.sign else 0
    let (m', e') := rneNat (f.fb + 1) (1 - (f.bias : Int) - f.fb) m e
    let c := fieldsOf f.fb f.bias m' e'
    if f.maxCode < c then ⟨s + f.ovfCode, true, false⟩ else ⟨s + c, false, decide (c = 0) && decide (m ≠ 0)⟩

/-- binary32 bits of a value under RNE (R224). -/
def toF32 (v : Val) : F32 := BitVec.ofNat 32 (encodeFloat fmtS32 v).bits

/-- The value of binary32 bits. -/
def ofF32 (x : F32) : Val := decodeS32 x.toNat

/-- rne32 of R95: the rounded value. -/
def rne32 (v : Val) : Val := ofF32 (toF32 v)

def f32One : F32 := 0x3F800000
def f32NaN : F32 := 0x7FC00000

def fAdd (a b : F32) : F32 := toF32 (valAdd (ofF32 a) (ofF32 b))
def fSub (a b : F32) : F32 := toF32 (valAdd (ofF32 a) (valNegate (ofF32 b)))
def fMul (a b : F32) : F32 := toF32 (valMul (ofF32 a) (ofF32 b))
def fDiv (a b : F32) : F32 := toF32 (valDiv (ofF32 a) (ofF32 b))
def fSqrt (a : F32) : F32 := toF32 (valSqrt (ofF32 a))
/-- Multiplication by 2^k, exact except where it leaves the binary32 range (R224). -/
def fScale (k : Int) (a : F32) : F32 := toF32 (valScale k (ofF32 a))

/-- Whether a word is finite. -/
def fFinite (a : F32) : Bool := valIsFinite (ofF32 a)

def isNegZero : Val → Bool
  | .fin true 0 _ => true
  | _ => false

/-- e is +0 whenever it is exactly zero (R96). -/
def zeroPos (v : Val) : Val := if valIsZero v then valZero else v

/-- The node of R95 on the values of two pairs, with the special values and zeros of R96. -/
def nodeOf (as ae bs be : Val) : Pair :=
  if !(valIsFinite as && valIsFinite ae && valIsFinite bs && valIsFinite be) then ⟨toF32 (valAdd as bs), 0⟩
  else
    let ex := valAdd as bs
    let all := valAdd (valAdd as bs) (valAdd ae be)
    let t := rne32 ex
    let r := valAdd ex (valNegate t)
    let w := rne32 (valAdd (valAdd ae be) r)
    let tw := valAdd t w
    let s := rne32 tw
    if !(valIsFinite t && valIsFinite s) then ⟨toF32 (.inf (valNeg all)), 0⟩
    else if valIsZero all then
      ⟨if isNegZero as && isNegZero ae && isNegZero bs && isNegZero be then 0x80000000 else 0, 0⟩
    else ⟨toF32 s, toF32 (zeroPos (valAdd tw (valNegate s)))⟩

/-- The node of R95. -/
def node (a b : Pair) : Pair := nodeOf (ofF32 a.s) (ofF32 a.e) (ofF32 b.s) (ofF32 b.e)

/-- The exact value s + e of a pair; an infinite or NaN s stands for itself (R96). -/
def pairVal (p : Pair) : Val :=
  if valIsFinite (ofF32 p.s) then (if valIsZero (ofF32 p.e) then ofF32 p.s else valAdd (ofF32 p.s) (ofF32 p.e)) else ofF32 p.s

/-- A chunk partial sum or an S32 value enters as the pair (v, +0) (R97, R107). -/
def pairOf (v : F32) : Pair := ⟨v, 0⟩

/-- An exact value as the pair (s, e): s is rne32 of it and e the remainder (R114). -/
def pairOfVal (v : Val) : Pair :=
  let s := toF32 v
  if valIsFinite (ofF32 s) && valIsFinite v then ⟨s, toF32 (zeroPos (valAdd v (valNegate (ofF32 s))))⟩ else ⟨s, 0⟩

/-- One level of a balanced pairwise tree: adjacent items combined, an odd last one carried. -/
def pairLevel {α : Type} (f : α → α → α) : List α → List α
  | a :: b :: t => f a b :: pairLevel f t
  | l => l

/-- n levels of the balanced pairwise tree. -/
def pairTree {α : Type} (f : α → α → α) : Nat → List α → List α
  | 0, l => l
  | n + 1, l => pairTree f n (pairLevel f l)

/-- The stack of the cord: level l holds the sum of 2^l consecutive leaves (R98). A carry meets the levels from 0 up. -/
def cordPush {α : Type} (f : α → α → α) (x : α) : List (Option α) → List (Option α)
  | [] => [some x]
  | none :: t => some x :: t
  | some y :: t => none :: cordPush f (f y x) t

/-- The final fold of the cord from the smallest level upward (R98, R99). -/
def cordFold {α : Type} (f : α → α → α) : Option α → List (Option α) → Option α
  | acc, [] => acc
  | none, o :: t => cordFold f o t
  | some x, none :: t => cordFold f (some x) t
  | some x, some y :: t => cordFold f (some (f y x)) t

/-- T(P) over the leaves in order (R99); T(0) is (+0, +0). -/
def treeT (l : List Pair) : Pair :=
  (cordFold node none (l.foldl (fun c x => cordPush node x c) [])).getD Pair.zero

/-- The SR draw of R58: mix. -/
def srMix (x : BitVec 64) : BitVec 64 :=
  let x := x ^^^ (x >>> 30)
  let x := x * 0xBF58476D1CE4E5B9
  let x := x ^^^ (x >>> 27)
  let x := x * 0x94D049BB133111EB
  x ^^^ (x >>> 31)

/-- The SR draw of R58 from the seed, the step, the tensor number and the element index: 14 bits. -/
def srDraw (seed : BitVec 64) (step tnum index : Nat) : Nat :=
  let w := srMix (seed ^^^ BitVec.ofNat 64 (((step % 2 ^ 32) <<< 14) ||| tnum))
  ((srMix (w ^^^ BitVec.ofNat 64 index)) >>> 50).toNat

/-- Stochastic rounding to G16 with draw d (R59). -/
def srG16 (v : Val) (d : Nat) : Conv :=
  match v with
  | .nan => ⟨0x7F00, false, false⟩
  | .inf n => ⟨(if n then 0x8000 else 0) + 0x7E00, false, false⟩
  | .fin n m e =>
    let s := if n then 0x8000 else 0
    if m = 0 then ⟨s, false, false⟩
    else
      let q := max (e + (Nat.log2 m : Int) - 9) (-39)
      let lo := if q ≤ e then m * 2 ^ (e - q).toNat else m / 2 ^ (q - e).toNat
      let rem14 := if q ≤ e then 0 else (m % 2 ^ (q - e).toNat) * 2 ^ 14 / 2 ^ (q - e).toNat
      let exact := decide (q ≤ e) || decide (m % 2 ^ (q - e).toNat = 0)
      let r := if exact then lo else if d < rem14 then lo + 1 else lo
      let c := fieldsOf 9 31 r q
      if 0x7DFF < c then ⟨s + 0x7E00, true, false⟩ else ⟨s + c, false, decide (c = 0)⟩

/-- floor(log2 |v|) of a finite non-zero value, subnormals included (R168). -/
def floorLog2 : Val → Int
  | .fin _ m e => e + (Nat.log2 m : Int)
  | _ => 0

/-- The array operand form of R55: the scaled value, with the overflow to infinity and the rounding to the binary32
subnormal grid. -/
structure Operand where
  v : Val
  ovf : Bool
  unf : Bool
deriving DecidableEq, Repr

/-- Expansion of a scaled value into the array operand form (R55). -/
def expand : Val → Operand
  | .fin n m e =>
    let (m', e') := rneNat 64 (-149) m e
    if m' ≠ 0 ∧ 128 ≤ e' + (Nat.log2 m' : Int) then ⟨.inf n, true, false⟩
    else ⟨.fin n m' (if m' = 0 then 0 else e'), false, decide (m' = 0) && decide (m ≠ 0)⟩
  | v => ⟨v, false, false⟩

/-- A node of the array's trees: the exact sum rounded to 24 bits (R64). -/
def treeNode (a b : Val) : Val := roundTree 24 (valAdd a b)

/-- The chunk partial sum of the products of one entry in chunk-position order (R63 to R67): eight levels in tree form
and the last node to binary32. -/
def chunkSum (products : List Val) : F32 :=
  match pairTree treeNode 8 products with
  | [a, b] => toF32 (valAdd a b)
  | [a] => toF32 a
  | _ => 0

/-- Saturation to I32 (R112): the value and whether it saturated. -/
def satI32 (i : Int) : Int × Bool :=
  if i < -2147483648 then (-2147483648, true) else if 2147483647 < i then (2147483647, true) else (i, false)

end Sys2Proof.Machine
end

