-- ==== Sys2Proof/Machine/Operands.lean ====
section
/-!
DEFINITION. Sys2Proof/Machine/Operands.lean: tensor descriptors, addresses of elements in every space, memory order, padding
values, formats as moves convert them, the holder table (05 sections 5.1 to 5.6, 5.10).
-/
namespace Sys2Proof.Machine

/-- The items of a list with their indices. -/
def indexed {α : Type} (l : List α) : List (α × Nat) := l.zip (List.range l.length)

/-! ## Bit fields of the image's records -/

/-- Bits lo to lo + n - 1 of a record. -/
def bitsOf {w : Nat} (x : BitVec w) (lo n : Nat) : Nat := x.toNat / 2 ^ lo % 2 ^ n

/-- The same, in two's complement. -/
def sbitsOf {w : Nat} (x : BitVec w) (lo n : Nat) : Int := signed n (bitsOf x lo n)

/-- Format codes (Table 5.1). -/
abbrev fmtBQn : Nat := 0
abbrev fmtF8AC : Nat := 1
abbrev fmtF8BC : Nat := 2
abbrev fmtG16C : Nat := 3
abbrev fmtH16C : Nat := 4
abbrev fmtB16C : Nat := 5
abbrev fmtS32C : Nat := 6
abbrev fmtI32C : Nat := 7

/-- A tensor descriptor (Table 5.1). -/
structure Desc where
  base : Nat
  space : Nat
  target : Nat
  format : Nat
  nbits : Nat
  sidelist : Bool
  pair : Bool
  idxFault : Bool
  dist : Bool
  tracked : Bool
  ext : List Nat
  str : List Int
  aux : Int
  swzW : Nat
  swzUnit : Nat
  swzShift : Nat
  padSuppress : Nat
  padKind : Nat
  tnum : Nat
  holder : Nat
deriving DecidableEq, Repr

/-- The fields of a descriptor's 64 bytes (R129). NBITS becomes n. -/
def descOf (x : BitVec 512) : Desc where
  base := bitsOf x 0 42
  space := bitsOf x 42 3
  target := bitsOf x 45 7
  format := bitsOf x 52 4
  nbits := bitsOf x 56 3 + 1
  sidelist := decide (bitsOf x 59 1 = 1)
  pair := decide (bitsOf x 60 1 = 1) && decide (bitsOf x 52 4 = fmtS32C)
  idxFault := decide (bitsOf x 61 1 = 1)
  dist := decide (bitsOf x 62 1 = 1)
  tracked := decide (bitsOf x 63 1 = 1)
  ext := (List.range 5).map fun d => bitsOf x (64 + 24 * d) 24
  str := (List.range 5).map fun d => sbitsOf x (184 + 40 * d) 40
  aux := sbitsOf x 384 40
  swzW := bitsOf x 424 3
  swzUnit := bitsOf x 427 3
  swzShift := bitsOf x 430 5
  padSuppress := bitsOf x 435 10
  padKind := bitsOf x 445 2
  tnum := bitsOf x 447 14
  holder := bitsOf x 461 13

/-- Element size in bytes (R130); 1 for BQn and reserved formats (R147). -/
def Desc.esize (d : Desc) : Nat :=
  match d.format with
  | 3 | 4 | 5 => 2
  | 6 => if d.pair then 8 else 4
  | 7 => 4
  | _ => 1

/-- Groups of 256 elements along dimension 0 (R134). -/
def Desc.ng0 (d : Desc) : Nat := (d.ext.getD 0 0 + 255) / 256

/-- Groups of the tensor (R134). -/
def Desc.ng (d : Desc) : Nat := d.ng0 * d.ext.getD 1 0 * d.ext.getD 2 0 * d.ext.getD 3 0 * d.ext.getD 4 0

/-- The index space of a move's side: dimension 0 counts groups when groups move (R135). -/
def Desc.space5 (d : Desc) (groups : Bool) : List Nat := if groups then d.ng0 :: d.ext.tail else d.ext

/-- The offset of R130 before the modulo, from dimension lo up. -/
def Desc.rawOff (d : Desc) (lo : Nat) (idx : List Nat) : Int :=
  (List.range 5).foldl (fun o i => if lo ≤ i then o + (idx.getD i 0 : Int) * d.str.getD i 0 else o) 0

/-- Modulo 2^42. -/
def mod42 (i : Int) : Nat := (i % (2 ^ 42 : Nat)).toNat

/-- The swizzle of R133. -/
def Desc.swizzle (d : Desc) (o : Nat) : Nat :=
  if d.swzW = 0 then o else o ^^^ ((o / 2 ^ d.swzShift % 2 ^ d.swzW) * 2 ^ (d.swzUnit + 4))

/-- Places of n bytes at offset o (modulo 2^42), swizzled where the space applies it (R130, R132, R133). -/
def State.placeAt (s : State) (d : Desc) (o n : Nat) : List (Option Loc) :=
  (List.range n).map fun k =>
    if d.space = 2 then s.panelLoc d.target (d.base % 2048) (d.base / 2048 % 64) ((o + k) % 2 ^ 42)
    else if d.space = 3 then s.spaceLoc 3 d.target ((d.base + o + k) % 2 ^ 42)
    else s.spaceLoc d.space d.target ((d.base + d.swizzle o + k) % 2 ^ 42)

/-- Places of n bytes at BASE + AUX + o; in SPACE 2, of the companion panel (R134). Not swizzled. -/
def State.placeAux (s : State) (d : Desc) (o n : Nat) : List (Option Loc) :=
  let a := mod42 d.aux
  (List.range n).map fun k =>
    if d.space = 2 then s.panelLoc d.target (a % 2048) (a / 2048 % 64) ((o + k) % 2 ^ 42)
    else s.spaceLoc d.space d.target ((d.base + a + o + k) % 2 ^ 42)

/-- What an element is made of: f says format, n, side list and pair; the element keeps the source's (R137). -/
structure Elem where
  format : Nat
  nbits : Nat
  sidelist : Bool
  pair : Bool
  esize : Nat
deriving DecidableEq, Repr

/-- The element of a descriptor. -/
def Desc.elem (d : Desc) : Elem := ⟨d.format, d.nbits, d.sidelist, d.pair, d.esize⟩

/-- Whether the element is a BQn group (R135). -/
def Elem.groups (e : Elem) : Bool := e.format == fmtBQn

/-- Bytes of the element: a BQn group has its codes, exponents and side-list record (R43, R135). -/
def Elem.bytes (e : Elem) : Nat := if e.groups then 32 * e.nbits + 8 + (if e.sidelist then 16 else 0) else e.esize

/-- The number of a group in the exponent and side-list streams (R134). -/
def Desc.groupNo (d : Desc) (idx : List Nat) : Nat :=
  let i := fun k => idx.getD k 0
  let e := fun k => d.ext.getD k 0
  (((i 4 * e 3 + i 3) * e 2 + i 2) * e 1 + i 1) * d.ng0 + i 0

/-- The streams of element e at position idx of descriptor d, each with its unswizzled offset and its places (R130, R134): the element,
or the codes, exponents and side-list record of a group. -/
def State.elemStreams (s : State) (d : Desc) (e : Elem) (idx : List Nat) : List (Nat × List (Option Loc)) :=
  if e.groups then
    let g := d.groupNo idx
    let o := mod42 ((idx.getD 0 0 * 32 * e.nbits : Nat) + d.rawOff 1 idx)
    (o, s.placeAt d o (32 * e.nbits)) :: (8 * g, s.placeAux d (8 * g) 8) ::
      (if e.sidelist then [(8 * d.ng + 16 * g, s.placeAux d (8 * d.ng + 16 * g) 16)] else [])
  else [(mod42 (d.rawOff 0 idx), s.placeAt d (mod42 (d.rawOff 0 idx)) e.esize)]

/-- The bytes of element e at position idx of descriptor d. -/
def State.elemLocs (s : State) (d : Desc) (e : Elem) (idx : List Nat) : List (Option Loc) := (s.elemStreams d e idx).flatMap (·.2)

/-! ## Memory order (R145) -/

/-- Insert a dimension by increasing |STR|, ties to the lower number. -/
def insertDim (d : Desc) (x : Nat) : List Nat → List Nat
  | [] => [x]
  | y :: t => if (d.str.getD x 0).natAbs < (d.str.getD y 0).natAbs then x :: y :: t else y :: insertDim d x t

/-- Dimensions, innermost first (R145): by increasing |STR|; BQn groups keep dimension 0 innermost. -/
def Desc.order (d : Desc) (groups : Bool) : List Nat :=
  if groups then 0 :: [1, 2, 3, 4].foldl (fun l x => insertDim d x l) []
  else [0, 1, 2, 3, 4].foldl (fun l x => insertDim d x l) []

/-- The index along dimension x at count k of a traversal. -/
def digitOf (ext : List Nat) (x : Nat) : List Nat → Nat → Nat
  | [], _ => 0
  | y :: t, k => if y = x then k % ext.getD y 1 else digitOf ext x t (k / ext.getD y 1)

/-- The position at count k of a traversal with the given order of dimensions, innermost first. -/
def unrank (order ext : List Nat) (k : Nat) : List Nat := (List.range 5).map fun x => digitOf ext x order k

/-- Every position of an index space in an order of dimensions. -/
def positions (order ext : List Nat) : List (List Nat) := (List.range (ext.foldl (· * ·) 1)).map (unrank order ext)

/-- Logical row-major order: dimension 0 fastest (R142). -/
def rowMajor : List Nat := [0, 1, 2, 3, 4]

/-- Elements of a descriptor in logical row-major order. -/
def Desc.rowMajorPositions (d : Desc) : List (List Nat) := positions rowMajor (d.space5 d.elem.groups)

/-- Index position outermost, the other dimensions row-major (R138). -/
def jOuter (g : Nat) : List Nat := (rowMajor.filter (· ≠ g)) ++ [g]

/-! ## Padding values (Table 5.5) -/

/-- A padding value of an element, as bytes. -/
def padBytes (e : Elem) (kind : Nat) : List Byte :=
  if e.groups then List.replicate e.bytes 0
  else
    let v : Nat :=
      match kind, e.format with
      | 1, 1 => 0xFE
      | 1, 2 => 0xFC
      | 1, 3 => 0xFE00
      | 1, 4 => 0xFC00
      | 1, 5 => 0xFF80
      | 1, 6 => 0xFF800000
      | 1, 7 => 0x80000000
      | 2, 1 => 0x7F
      | 2, 2 => 0x7E
      | 2, 3 => 0x7F00
      | 2, 4 => 0x7E00
      | 2, 5 => 0x7FC0
      | 2, 6 => 0x7FC00000
      | _, _ => 0
    toBytesLE e.bytes v

/-! ## Scales and tracker counts (R39, R137, R172) -/

/-- The tracker entry of a tensor number. -/
def State.track (s : State) (t : Nat) : Option Track := s.trk.find? fun e => e.stat.tnum == t

/-- The static fields of a tensor number without an entry: zeros. -/
def trackZero (t : Nat) : Track :=
  { stat := ⟨t, 0, 0, 0, false, false, 0, 0, 0, 0, 0, false, 0, 0, 0, false, 0⟩, used := false }

/-- Change the tracker entry of a tensor number: without an entry, and in one that no tile names, nothing is measured or counted
(R160, R440). -/
def State.modTrack (s : State) (t : Nat) (f : Track → Track) : State :=
  { s with trk := s.trk.map fun e => if e.stat.tnum == t && e.used then f e else e }

/-- Valid entries of a Peck (R166). -/
def Track.valid (e : Track) : Nat := (e.peck.filter fun w => w.toNat % 2 ^ 31 ≠ 0x7FFFFFFF).length

/-- SE that a tensor uses in a step: 0 in a probe step that its Peck entered empty, without an initial SE (R181). -/
def Track.seIn (e : Track) (probe : Bool) : Int := if probe && e.zeroed then 0 else e.se

/-- SE of a tensor for the current step; 0 without an entry. -/
def State.seOf (s : State) (t : Nat) : Int := match s.track t with | some e => e.seIn s.probe | none => 0

/-- SE of a descriptor's tensor: 0 when it is not tracked (R137). -/
def State.descSe (s : State) (d : Desc) : Int := if d.tracked then s.seOf d.tnum else 0

/-- A 32-bit count that stops at its maximum. -/
def sat32 (n : Nat) : Nat := min n 4294967295

/-- Count overflows and underflows of a tracked tensor (R172). -/
def State.countConv (s : State) (d : Desc) (ovf unf : Nat) : State :=
  if d.tracked && (decide (0 < ovf) || decide (0 < unf)) then
    s.modTrack d.tnum fun e => { e with ovf := sat32 (e.ovf + ovf), unf := sat32 (e.unf + unf) }
  else s

/-! ## Values of the formats that layout copies pair (R137, Table 2.6) -/

/-- The floating-point formats a layout copy converts among: G16, H16, B16, S32 and the pair layout. -/
def convFormat (f : Nat) : Bool := f == fmtG16C || f == fmtH16C || f == fmtB16C || f == fmtS32C

/-- The value of an element's bytes; a G16 code is scaled by its SE; a pair supplies its s word (R137). -/
def valueOf (format : Nat) (se : Int) (b : List Byte) : Val :=
  let n := bytesLE b
  match format with
  | 1 => valScale se (decodeF8A (n % 256))
  | 2 => valScale se (decodeF8B (n % 256))
  | 3 => valScale se (decodeG16 (n % 65536))
  | 4 => decodeH16 (n % 65536)
  | 5 => decodeB16 (n % 65536)
  | 6 => decodeS32 (n % 2 ^ 32)
  | 7 => valOfInt (signed 32 n)
  | _ => valZero

/-- The element as a pair: the pair layout whole, any other value v as (v, +0) or as its exact split (R107, R115). -/
def pairOfBytes (format : Nat) (pair : Bool) (se : Int) (b : List Byte) : Pair :=
  if format = fmtS32C ∧ pair then ⟨BitVec.ofNat 32 (bytesLE (b.take 4)), BitVec.ofNat 32 (bytesLE (b.drop 4))⟩
  else pairOfVal (valueOf format se b)

/-- A value in a destination format under RNE (R49 to R52): the conversion and its bytes. -/
def convTo (format : Nat) (pair : Bool) (se : Int) (v : Val) : Conv × List Byte :=
  match format with
  | 3 => let c := encodeFloat fmtG16 (valScale (-se) v); (c, toBytesLE 2 c.bits)
  | 4 => let c := encodeFloat fmtH16 v; (c, toBytesLE 2 c.bits)
  | 5 => let c := encodeFloat fmtB16 v; (c, toBytesLE 2 c.bits)
  | _ => let c := encodeFloat fmtS32 v; (c, toBytesLE 4 c.bits ++ (if pair then [0, 0, 0, 0] else []))

/-- A pair in a destination format: the pair layout keeps both words, another format takes the exact s + e (R106, R144). -/
def pairTo (format : Nat) (pair : Bool) (se : Int) (p : Pair) : Conv × List Byte :=
  if format = fmtS32C ∧ pair then (⟨p.s.toNat, false, false⟩, toBytesLE 4 p.s.toNat ++ toBytesLE 4 p.e.toNat)
  else convTo format false se (pairVal p)

/-! ## The holder table (R149, R150) -/

/-- A holder table entry (Table 5.7). -/
structure Holder where
  dim : Nat
  pieceExt : Nat
  nhold : Nat
  first : Nat
  step : Nat
  space : Nat
  target : Nat
  base : Nat
  stride : Int
  vtag : Nat
deriving DecidableEq, Repr

def holderOf (x : BitVec 256) : Holder where
  dim := bitsOf x 0 3
  pieceExt := bitsOf x 3 24
  nhold := bitsOf x 27 10 + 1
  first := bitsOf x 37 10
  step := bitsOf x 47 10
  space := bitsOf x 57 3
  target := bitsOf x 60 7
  base := bitsOf x 67 42
  stride := sbitsOf x 109 40
  vtag := bitsOf x 149 16

/-- Engines of the Chain. -/
def State.chainSize (s : State) : Nat := s.fld mapChainSizeM1 0 + 1

/-- This engine's chain rank. -/
def State.rank (s : State) : Nat := s.fld mapChainRank 0

/-- The holder entries in force. -/
def State.holderAt (s : State) (i : Nat) : Option Holder := (s.chain.holders[i]?).map holderOf

/-- Where a position of a distributed tensor lies: the holder's rank, the descriptor and the position there (R150); one whose HOLDER names no
loaded entry lies here at BASE (DESIGN CHOICE, log entry 151). -/
def State.holderPlace (s : State) (d : Desc) (idx : List Nat) : Nat × Desc × List Nat :=
  match s.holderAt d.holder with
  | none => (s.rank, { d with dist := false }, idx)
  | some h =>
    let whole := decide (5 ≤ h.dim) || h.pieceExt == 0
    let i := idx.getD h.dim 0
    let p := if whole then 0 else i / h.pieceExt
    let loc := if whole then idx else idx.set h.dim (i - p * h.pieceExt)
    let base := mod42 ((h.base : Int) + (p / h.nhold : Nat) * h.stride)
    ((h.first + (p % h.nhold) * h.step) % s.chainSize, { d with base := base, space := h.space, target := h.target, dist := false }, loc)

/-- An element's bytes on this engine, or the rank that holds it. -/
inductive Where where
  | here (locs : List (Option Loc))
  | away (rank : Nat)
deriving DecidableEq, Repr

/-- The rank that holds position idx of d, with the descriptor and the position there (R150). -/
def State.heldAt (s : State) (d : Desc) (idx : List Nat) : Nat × Desc × List Nat :=
  if d.dist then s.holderPlace d idx else (s.rank, d, idx)

/-- Where element e at position idx of d lies. -/
def State.whereIs (s : State) (d : Desc) (e : Elem) (idx : List Nat) : Where :=
  let (r, d', i') := s.heldAt d idx
  if r = s.rank then .here (s.elemLocs d' e i') else .away r

/-- The bytes at places and whether any comes from a poisoned unit. -/
def State.readLocs (s : State) (l : List (Option Loc)) : List Byte × Bool :=
  let r := l.map s.readLoc
  (r.map (·.1), r.any (·.2))

/-- Writes of bytes at places; a byte without a place is discarded. -/
def writesAt (l : List (Option Loc)) (b : List Byte) (poison : Bool) : List ByteWrite :=
  (l.zip b).filterMap fun p => p.1.map fun x => ⟨x, p.2, poison⟩

/-! ## Beats (R145, R146) -/

/-- A run of a side: the unswizzled offset of its first byte, and its places. -/
structure Run where
  start : Nat
  places : List (Option Loc)
deriving DecidableEq, Repr

/-- The runs of a side's accesses (offset, places) in memory order: each is as long as offsets rise by the element size. -/
def runsOf : List (Nat × List (Option Loc)) → List Run
  | [] => []
  | (o, l) :: t =>
    match runsOf t with
    | r :: rs => if r.start = o + l.length then ⟨o, l ++ r.places⟩ :: rs else ⟨o, l⟩ :: r :: rs
    | [] => [⟨o, l⟩]

/-- A run cut into beats of 256 bytes from its first byte on. -/
def Run.beats (r : Run) : List Run :=
  (List.range ((r.places.length + 255) / 256)).map fun k => ⟨r.start + 256 * k, (r.places.drop (256 * k)).take 256⟩

/-- Whether a beat's bytes are exactly one aligned block of 256 bytes (Table 5.6): of a panel's offsets in an operand buffer, of
addresses elsewhere. -/
def Run.full (r : Run) : Bool :=
  match r.places.head? with
  | some (some l) =>
    r.places.length == 256 &&
      if l.space = 2 then r.start % 256 == 0
      else (List.range 256).all fun i => r.places.contains (some ⟨l.space, l.key / 256 * 256 + i⟩)
  | _ => false

/-- Count a side's beats in LAY.PERF; `slow` charges every beat 4 (scatter with add). Both counts wrap (R157). -/
def State.countBeats (s : State) (slow : Bool) (beats : List Run) : State :=
  let full := if slow then 0 else (beats.filter Run.full).length
  let s := s.setFld layPerfFullBeats 0 ((s.fld layPerfFullBeats 0 + full) % 2 ^ 32)
  s.setFld layPerfSlowBeats 0 ((s.fld layPerfSlowBeats 0 + (beats.length - full)) % 2 ^ 32)

/-- Count the beats of a side that visits the given positions of a descriptor, stream by stream, those of elements that other engines hold
among them; no run goes on from one engine to another (R145, log entry 115). -/
def State.countSide (s : State) (slow : Bool) (d : Desc) (e : Elem) (ps : List (List Nat)) : State :=
  let streams := ps.map fun p =>
    let h := s.heldAt d p
    (s.elemStreams h.2.1 e h.2.2).map fun x => (x.1 + 2 ^ 50 * h.1, x.2)
  s.countBeats slow ([0, 1, 2].flatMap fun k => (runsOf (streams.filterMap fun l => l[k]?)).flatMap Run.beats)

end Sys2Proof.Machine
end

