-- ==== Sys2Proof/Machine/ImageOps.lean ====
section
/-!
DEFINITION. Sys2Proof/Machine/ImageOps.lean: the bytes of a schedule image: header, section table, the sections that the spec lays out
in words, and the pages of the streamed sections (10 section 10.1).
-/
namespace Sys2Proof.Machine

/-! ## The header and the section table (R280 to R282) -/

/-- A little-endian field of the image's bytes. -/
def imgField (b : List Byte) (o n : Nat) : Nat := bytesLE ((b.drop o).take n)

/-- Header fields (Table 10.1). -/
structure Header where
  magic : Nat
  version : Nat
  nsect : Nat
  bytes : Nat
  imageId : Nat
  chainId : Nat
  rank : Nat
  sizeM1 : Nat
  ndM1 : Nat
  nsM1 : Nat
  nmM1 : Nat
  feed : Nat
deriving DecidableEq, Repr

def headerOf (b : List Byte) : Header where
  magic := imgField b 0 4
  version := imgField b 4 2
  nsect := imgField b 6 2
  bytes := imgField b 8 8
  imageId := imgField b 16 4
  chainId := imgField b 20 2 % 4096
  rank := imgField b 22 2 % 1024
  sizeM1 := imgField b 24 2
  ndM1 := imgField b 26 2
  nsM1 := imgField b 28 2
  nmM1 := imgField b 30 2
  feed := imgField b 32 1 % 16

/-- The section table: type, offset, length. -/
def sectionsOf (b : List Byte) (n : Nat) : List (Nat × Nat × Nat) :=
  (List.range n).map fun i => (imgField b (128 + 16 * i) 2, imgField b (136 + 16 * i) 4, imgField b (140 + 16 * i) 4)

/-- Offset and length of the section of a type. -/
def sectionOf (b : List Byte) (t : Nat) : Option (Nat × Nat) :=
  ((sectionsOf b (headerOf b).nsect).find? fun x => x.1 == t).map fun x => x.2

/-- The little-endian words of n bytes that a section holds, as bit vectors of w bits. -/
def sectionWords (b : List Byte) (t n w : Nat) : Option (List (BitVec w)) :=
  (sectionOf b t).map fun x => (List.range (x.2 / n)).map fun k => BitVec.ofNat w (imgField b (x.1 + n * k) n)

/-- The entries of tile queues that stand one after another from word k of a list on. -/
def takeEntries : List (BitVec 512) → List TileQueue → List TileQueue
  | _, [] => []
  | ws, q :: t => { q with entries := ws.take q.entries.length } :: takeEntries (ws.drop q.entries.length) t

/-- The image with the contents of TILES, DESC and HOLDERS as its bytes hold them: words of 64, 64 and 32 bytes (Tables 5.1, 5.7,
R287); queues stand in TILES in the order of their records (log entry 8). -/
def readImage (i : Image) : Image :=
  { i with
    tiles := match sectionWords i.bytes 3 64 512 with | some ws => takeEntries ws i.tiles | none => i.tiles
    descs := (sectionWords i.bytes 4 64 512).getD i.descs
    holders := (sectionWords i.bytes 9 32 256).getD i.holders }

/-- Every tile queue of the image: its own and those of variants, with section and number of the first entry. -/
def allQueues (i : Image) : List (TileQueue × Nat × Nat) :=
  let num := fun (sect : Nat) (l : List TileQueue) =>
    (l.foldl (fun (acc : List (TileQueue × Nat × Nat) × Nat) q => (acc.1 ++ [(q, sect, acc.2)], acc.2 + q.entries.length)) ([], 0)).1
  num 3 i.tiles ++ num 11 (i.variants.flatMap (·.tiles))

/-- The 4 KiB pages of the streamed sections, TILES, DESC and MODES, as (offset in the image, length) (R283). -/
def streamedPages (b : List Byte) : List (Nat × Nat) :=
  let ss := (sectionsOf b (headerOf b).nsect).filter fun x => x.1 == 3 || x.1 == 4 || x.1 == 11
  ss.flatMap fun x => (List.range ((x.2.2 + 4095) / 4096)).map fun p => (x.2.1 + 4096 * p, min 4096 (x.2.2 - 4096 * p))

/-- The CRC-32 that admission records of each page: offset, length, CRC (R283). -/
def pageCrcs (b : List Byte) : List (Nat × Nat × Nat) :=
  (streamedPages b).map fun p => (p.1, p.2, crc32 ((b.drop p.1).take p.2))

/-- Whether the page that holds offset o of section t disagrees with its CRC as region 0 now holds it (R283). -/
def State.pageDiffers (s : State) (t o : Nat) : Bool :=
  match s.image.bind fun i => sectionOf i.bytes t with
  | none => false
  | some x =>
    s.pageCrc.any fun p => decide (p.1 ≤ x.1 + o) && decide (x.1 + o < p.1 + p.2.1) &&
      decide (crc32 (s.region0Bytes (4096 * s.fld cfgImageOffset 0 + p.1) p.2.1) ≠ p.2.2)

/-- Whether a page of the descriptors `ns` disagrees. -/
def State.descsDiffer (s : State) (ns : List Nat) : Bool := ns.any fun n => s.pageDiffers 4 (64 * n)

/-- Whether the page of entry k of a queue disagrees; variants' tile tables stand at the front of MODES (log entry 8). -/
def State.entryDiffers (s : State) (q : TileQueue) (k : Nat) : Bool :=
  match s.image with
  | none => false
  | some i => match (allQueues i).find? fun x => x.1 == q with
    | some x => s.pageDiffers x.2.1 (64 * (x.2.2 + k))
    | none => false

end Sys2Proof.Machine
end

