-- ==== Sys2Proof/Machine/Clock.lean ====
section
/-!
DEFINITION. Sys2Proof/Machine/Clock.lean: cluster clocks (12.2, 12.3): the fraction N with its caps, the operating points, the
PLL and the acknowledged voltage.
-/
namespace Sys2Proof.Machine

/-- The state of cluster c. -/
def State.cluster (s : State) (c : Nat) : Cluster := s.pwr.clusters.getD c {}

/-- A cap field: 0 is read as 16 (Tables 12.14 to 12.16). -/
def capOf (n : Nat) : Nat := if n = 0 then 16 else n

/-- The throttle cap (R348, R352). -/
def State.throttleCap (s : State) : Nat := if s.flag pwrThrotActive 0 then capOf (s.fld pwrThrotNThr 0) else 16

/-- The management controller is halted by debug (R386). -/
def State.mcHalted (s : State) : Bool := s.flag dbgStatusMcHalted 0

/-- The thermal cap (R353, R386): N_THERM when hot or while the controller is halted; 1 at TJ_TRIP or THERM_ALM. -/
def State.thermalCap (s : State) : Nat :=
  if s.pwr.trip || s.pwr.comparator || s.flag pwrThermHostAlm 0 then 1
  else if s.flag pwrThermHot 0 || s.mcHalted then capOf (s.fld pwrThermNTherm 0)
  else 16

/-- A thermal cap is in force: what PWR.THERM.HOT shows (Table 12.16). -/
def State.thermalOn (s : State) : Bool :=
  s.pwr.trip || s.pwr.comparator || s.flag pwrThermHostAlm 0 || s.flag pwrThermHot 0 || s.mcHalted

/-- The smallest cap (R348). The pacing cap is lifted as soon as the clock starts, so it stands in N alone (R350). -/
def State.capLimit (s : State) : Nat := min s.throttleCap s.thermalCap

/-- What N of cluster c may rise to: halved, to no less than 1, while a droop event is active (R348). -/
def State.nLimit (s : State) (c : Nat) : Nat := if (s.cluster c).droop then max 1 (s.capLimit / 2) else s.capLimit

/-- N of cluster c. -/
def State.clusterN (s : State) (c : Nat) : Nat := s.fld pwrClkNM1 c + 1

/-- Set N of cluster c. -/
def State.setN (s : State) (c n : Nat) : State := s.setFld pwrClkNM1 c (n - 1)

/-- The clusters present. -/
def State.clusterList (s : State) : List Nat := List.range (Config.clusters s.conf)

/-- The clocks of the clusters and of UPD run, where they are not gated (R350, Table 12.6). -/
def State.clocksOn (s : State) : Bool := s.alive && decide (s.power = 0)

/-- The clock of cluster c runs. -/
def State.clockOn (s : State) (c : Nat) : Bool := s.clocksOn && !s.flag pwrClkGated c

/-- A cap has fallen: every N of a running clock falls with it at once (R348, R352). -/
def State.applyCaps (s : State) : State :=
  let s := s.clusterList.foldl (fun s c => if s.clockOn c && decide (s.nLimit c < s.clusterN c) then s.setN c (s.nLimit c) else s) s
  if s.clocksOn && !s.pwr.updGated then { s with pwr := { s.pwr with updN := min s.pwr.updN s.capLimit } } else s

/-- The clock of cluster c starts: N is the smallest of its caps with N_START, halved to no less than 1 while a droop event is
active, and rises from there (R348, R350). -/
def State.startCluster (s : State) (c : Nat) : State :=
  let n := min s.capLimit (capOf (s.fld pwrPaceNStart 0))
  (s.setFld pwrClkGated c 0).setN c (if (s.cluster c).droop then max 1 (n / 2) else n)

/-- The clock of UPD starts, without pacing (R350). -/
def State.startUpd (s : State) : State := { s with pwr := { s.pwr with updGated := false, updN := s.capLimit } }

/-- An issue for core k starts its cluster's gated clock (R350). -/
def State.wakeCore (s : State) (k : Nat) : State := if s.flag pwrClkGated (k / 16) then s.startCluster (k / 16) else s

/-- The calibration set did not load correctly, so the defaults of Table 13.11 hold; start-up loads it before CP_ALIVE rises (R362,
R388). -/
def State.calDefaults (s : State) : Bool := s.alive && !s.flag calStatusValid 0

/-- Vmin of cluster c at point i of Table 12.2 in mV: the set's value where it is higher; 50 mV more when the set is lost (Tables
13.10 and 13.11). -/
def State.vminPoint (s : State) (c i : Nat) : Nat :=
  let t := [550, 620, 700, 800].getD i 800
  if s.calDefaults then t + 50
  else
    let a := 0x11C0 + 8 * c + 2 * i
    max t ((cellGet (fun _ => 0) s.sec.calLive (a / 8)).toNat / 2 ^ (8 * (a % 8)) % 65536)

/-- Vmin of cluster c at frequency f (units of 25 MHz), in 1/16 mV: linear between the points of Table 12.2. -/
def State.vmin16 (s : State) (c f : Nat) : Nat :=
  let p := s.vminPoint c
  if f ≤ 32 then 16 * p 0
  else
    let i := min ((f - 32) / 16) 2
    16 * p i + (p (i + 1) - p i) * (f - 32 - 16 * i)

/-- PWR.CLK.F of cluster c. -/
def State.clkF (s : State) (c : Nat) : Nat := s.fld pwrClkF c

/-- PWR.VGRP.MINV: Vmin of the highest F in the group, coded as VREQ, rounded up (R349, Table 12.18). -/
def State.minv (s : State) (g : Nat) : Nat :=
  let cs := Config.groupClusters s.conf g
  let fm := cs.foldl (fun m c => max m (s.clkF c)) 0
  let v := cs.foldl (fun m c => if s.clkF c = fm then max m (s.vmin16 c fm) else m) 0
  (v - 16 * 500 + 79) / 80

/-- The voltage group g's regulator has acknowledged, in 1/16 mV: the lower of the present and the previous VREQ while VOK is
0 (R410). -/
def State.ackVolt16 (s : State) (g : Nat) : Nat :=
  let v := s.fld pwrVgrpVreq g
  16 * (500 + 5 * (if s.flag pwrVgrpVok g then v else min v (s.pwr.prevVreq.getD g 60)))

/-- The highest frequency from f down, n steps at most, whose Vmin does not exceed v. -/
def State.fitF (s : State) (c v : Nat) : Nat → Nat → Nat
  | 0, f => f
  | n + 1, f => if s.vmin16 c f ≤ v then f else s.fitF c v n (f - 1)

/-- The frequency that cluster c's PLL slews towards (R349). -/
def State.pllTarget (s : State) (c : Nat) : Nat := s.fitF c (s.ackVolt16 (Config.clusterGroup s.conf c)) (s.clkF c - 16) (s.clkF c)

/-- F of a written PWR.CLK: 16 to 80, and at most 64 while the calibration defaults hold (Tables 12.17 and 13.11). -/
def State.readF (s : State) (f : Nat) : Nat := max 16 (min f (if s.calDefaults then 64 else 80))

/-- Every PLL relocks at the frequency its cluster may have (Table 12.8). -/
def State.relock (s : State) : State := s.clusterList.foldl (fun s c => s.setFld pwrClkFNow c (s.pllTarget c)) s

/-- One step of 25 MHz of every PLL towards its target: 50 MHz per µs is one step in 50 AON cycles (R349, log entry 21). -/
def State.slewStep (s : State) : State :=
  s.clusterList.foldl (fun s c =>
    let t := s.pllTarget c
    let f := s.fld pwrClkFNow c
    if f < t then s.setFld pwrClkFNow c (f + 1) else if t < f then s.setFld pwrClkFNow c (f - 1) else s) s

/-- A W1C bit that an event sets, with its interrupt when it was clear (R430). -/
def State.setOnce (s : State) (f : Fld) (u : Nat) (i : Fld) : State :=
  if s.flag f u then s else (s.setFld f u 1).irq i

end Sys2Proof.Machine
end

