-- ==== Sys2Proof/Machine/MoveOps.lean ====
section
/-!
DEFINITION. Sys2Proof/Machine/MoveOps.lean: what a move does: copies, gathers, scatters, their windows, padding, conversion and
combination (05 sections 5.5 to 5.7, R115, R152).
-/
namespace Sys2Proof.Machine

/-- A move issue (Table 5.4). KIND: 0 copy, 1 gather, 2 scatter. The descriptors with their indices in DESC; `got` holds the
elements that other engines have sent: descriptor index, position, bytes, poison. -/
structure MoveArgs where
  kind : Nat
  src : Desc
  dst : Desc
  idx : Desc
  srcNo : Nat
  dstNo : Nat
  idxNo : Nat
  gdim : Nat
  origin : List Int
  add : Bool
  arrival : Bool
  part : Nat
  got : List (Nat × List Nat × List Byte × Bool) := []
deriving DecidableEq, Repr

/-- An element of a move: its positions on both sides, where it lies, its index position, whether the index was poisoned. -/
structure Item where
  spos : List Nat
  dpos : List Nat
  src : Where
  dst : Where
  j : Nat
  bad : Bool
deriving DecidableEq, Repr

/-- Whether a copy converts (R137): two formats of the conversion set, the pair layout a layout of its own, or two G16
tensors of different SE. -/
def State.converts (s : State) (m : MoveArgs) : Bool :=
  convFormat m.src.format && convFormat m.dst.format &&
    (m.src.format != m.dst.format || m.src.pair != m.dst.pair ||
      (m.src.format == fmtG16C && s.descSe m.src != s.descSe m.dst))

/-- The element that the destination's places take: the destination's when the move converts or adds, else the source's. -/
def State.dstElem (s : State) (m : MoveArgs) : Elem := if m.add || s.converts m then m.dst.elem else m.src.elem

/-- An element's bytes as R137 gives them to the destination. -/
def State.moveBytes (s : State) (m : MoveArgs) (b : List Byte) : Conv × List Byte :=
  if s.converts m then convTo m.dst.format m.dst.pair (s.descSe m.dst) (valueOf m.src.format (s.descSe m.src) b)
  else (⟨0, false, false⟩, b)

/-- Whether every coordinate lies within the extents. -/
def inExt (ext : List Nat) (i : List Int) : Bool :=
  (List.range 5).all fun d => decide (0 ≤ i.getD d 0) && decide (i.getD d 0 < ext.getD d 1)

/-- ORIGIN of a copy; along dimension 0 of groups, in groups, rounded down (R135). -/
def moveOrigin (m : MoveArgs) (groups : Bool) : List Int :=
  (List.range 5).map fun d => let o := m.origin.getD d 0; if groups && d == 0 then o / 256 else o

/-- The elements of a copy in source memory order (R137, R138). -/
def State.copyItems (s : State) (m : MoveArgs) : List Item :=
  let e := m.src.elem
  let g := e.groups
  let o := moveOrigin m g
  (positions (m.src.order g) (m.src.space5 g)).filterMap fun p =>
    let i := (List.range 5).map fun d => (p.getD d 0 : Int) + o.getD d 0
    if inExt (m.dst.space5 g) i then
      let q := i.map Int.toNat
      some ⟨p, q, s.whereIs m.src e p, s.whereIs m.dst (s.dstElem m) q, 0, false⟩
    else none

/-- The padding positions of a copy that are written, in destination memory order (R140). -/
def copyPads (m : MoveArgs) : List (List Nat) :=
  let g := m.src.elem.groups
  let o := moveOrigin m g
  let se := m.src.space5 g
  (positions (m.dst.order g) (m.dst.space5 g)).filter fun i =>
    let q := (List.range 5).map fun d => (i.getD d 0 : Int) - o.getD d 0
    !inExt se q &&
      (List.range 5).all fun d =>
        let x := q.getD d 0
        !((decide (x < 0) && m.dst.padSuppress.testBit (2 * d)) ||
          (decide ((se.getD d 1 : Int) ≤ x) && m.dst.padSuppress.testBit (2 * d + 1)))

/-- An element that another engine has sent. -/
def gotBytes (m : MoveArgs) (d : Nat) (pos : List Nat) : Option (List Byte × Bool) :=
  (m.got.find? fun g => g.1 == d && g.2.1 == pos).map fun g => g.2.2

/-- The position of X[j] in the index tensor, flattened row-major (R142); a j beyond its elements goes on along dimension 4 (log entry
130). -/
def indexPos (m : MoveArgs) (j : Nat) : List Nat := unrank rowMajor (m.idx.ext.set 4 (j + 1)) j

/-- The element of an index tensor. -/
def indexElem : Elem := ⟨fmtI32C, 1, false, false, 4⟩

/-- X[j] with its poison: the index tensor flattened, dimension 0 fastest, as 32-bit two's complement (R142). -/
def State.indexAt (s : State) (m : MoveArgs) (j : Nat) : Int × Bool :=
  match s.whereIs m.idx indexElem (indexPos m j) with
  | .here l => let (b, p) := s.readLocs l; (signed 32 (bytesLE b), p)
  | .away _ => match gotBytes m m.idxNo (indexPos m j) with | some (b, p) => (signed 32 (bytesLE b), p) | none => (-1, true)

/-- The indexed descriptor's extent along GDIM (R143); groups are those of the source's format, which R137 gives the move (DESIGN CHOICE, log
entry 150). -/
def indexBound (m : MoveArgs) : Nat :=
  let d := if m.kind = 1 then m.src else m.dst
  (d.space5 m.src.elem.groups).getD m.gdim 0

/-- Whether an index is valid (R143). -/
def indexOk (m : MoveArgs) (x : Int) : Bool := decide (0 ≤ x) && decide (x < indexBound m)

/-- The elements of a gather, in destination memory order; dropped ones are padding (R142, R143). -/
def State.gatherItems (s : State) (m : MoveArgs) : List Item × List (List Nat) × List Nat :=
  let e := m.src.elem
  let g := e.groups
  (positions (m.dst.order g) (m.dst.space5 g)).foldr (fun i acc =>
    let j := i.getD m.gdim 0
    let (x, bad) := s.indexAt m j
    if indexOk m x then
      let p := i.set m.gdim x.toNat
      (⟨p, i, s.whereIs m.src e p, s.whereIs m.dst (s.dstElem m) i, j, bad⟩ :: acc.1, acc.2)
    else (acc.1, i :: acc.2.1, if acc.2.2.contains j then acc.2.2 else j :: acc.2.2)) ([], [], [])

/-- The elements of a scatter: in source memory order, or index position outermost for an ordered add (R138, R142, R143). -/
def State.scatterItems (s : State) (m : MoveArgs) : List Item × List Nat :=
  let e := m.src.elem
  let g := e.groups
  let ord := if m.add && !m.arrival then jOuter m.gdim else m.src.order g
  (positions ord (m.src.space5 g)).foldr (fun p acc =>
    let j := p.getD m.gdim 0
    let (x, bad) := s.indexAt m j
    if indexOk m x then
      let i := p.set m.gdim x.toNat
      (⟨p, i, s.whereIs m.src e p, s.whereIs m.dst (s.dstElem m) i, j, bad⟩ :: acc.1, acc.2)
    else (acc.1, if acc.2.contains j then acc.2 else j :: acc.2)) ([], [])

/-- The units and words of places. -/
def locCodes (l : List (Option Loc)) : List Nat := (l.filterMap fun x => x.map Loc.code).eraseDups

/-- The units of an element's side when it lies here. -/
def Where.codes : Where → List Nat
  | .here l => locCodes l
  | .away _ => []

/-- Whether a poisoned code was read from SRAM or from a failed port: SC8_UNCORR is reported at once, for no response will
report it (R152, R215). -/
def State.reportsNow (s : State) (codes : List Nat) : Bool :=
  codes.any fun c =>
    if c / 2 ^ 40 = 0 then (match s.mapAddr (codeKey c) with | some (p, _) => s.portFailed p | none => false)
    else s.bad.contains c

/-- Words of the operand buffer of core k that a read finds uncorrectable (R92). -/
def State.bufErrors (s : State) (k : Nat) (codes : List Nat) : State :=
  codes.foldl (fun s c =>
    let w := c % 2 ^ 40 % 65536
    (((s.uncorr arrBuferrUncorrCnt k 1).setFld arrBuferrLastBank k (w / 1536)).setFld arrBuferrLastLine k (w % 1536)).setFld
      arrBuferrLastUncorr k 1) s

/-- Uncorrectable words that a read finds in the Keg, an operand buffer or an update buffer (R92, R203, Table 8.12). -/
def State.kegErrors (s : State) (codes : List Nat) : State :=
  codes.foldl (fun s c =>
    let sp := c / 2 ^ 40
    let w := c % 2 ^ 40
    if !s.bad.contains c then s
    else if sp = 1 then
      (((s.uncorr layKegUncorrCnt 0 1).setFld layKegLastBank 0 (w % 64)).setFld layKegLastLine 0 (w / 64)).setFld layKegLastUncorr 0 1
    else if sp = 2 then s.bufErrors (w / 65536) [c]
    else if sp = 3 then ((s.uncorr updErrUncorrCnt 0 1).setFld updErrLastUnit 0 (w / 65536)).setFld updErrLastUncorr 0 1
    else s) s

/-- Keg words that a read finds with one symbol in error and corrects (R203); without a Keg there is none (Table 7.14). -/
def State.kegCorrected (s : State) (l : List FixedWord) : State :=
  if Config.kegMib s.conf = 0 then s
  else l.foldl (fun s x =>
    (((s.corr layKegCorrCnt 0 1).setFld layKegLastBank 0 x.bank).setFld layKegLastLine 0 x.line).setFld layKegLastUncorr 0 0) s

/-- Keg words whose error is beyond the symbol code: they hold poison from now on, and what reads them counts it (R203). -/
def State.kegLost (s : State) (l : List FixedWord) : State :=
  if Config.kegMib s.conf = 0 then s
  else l.foldl (fun s x =>
    let code := 2 ^ 40 + 64 * x.line + x.bank
    if s.bad.contains code then s else { s with bad := code :: s.bad }) s

/-- Reads of the units and words `of i` for items i: holes, SRAM errors, requests with the destinations that take bytes. -/
def State.readFor (s : State) (w : Who) (its : List Item) (of : Item → List Nat) : State :=
  let codes := (its.flatMap of).eraseDups
  let s := (s.touchHoles codes).kegErrors codes
  s.issueReads w false (codes.map fun c => (c, ((its.filter fun i => (of i).contains c).flatMap fun i => i.dst.codes).eraseDups))

/-- The read of a window's sources. -/
def State.readWindow (s : State) (w : Who) (its : List Item) : State := s.readFor w its fun i => i.src.codes

/-- The units and words of X[j]. -/
def State.indexCodes (s : State) (m : MoveArgs) (j : Nat) : List Nat := (s.whereIs m.idx indexElem (indexPos m j)).codes

/-- The bytes of an item's source with poison. -/
def State.itemBytes (s : State) (m : MoveArgs) (i : Item) : List Byte × Bool :=
  match i.src with
  | .here l => let (b, p) := s.readLocs l; (b, p || i.bad)
  | .away _ => match gotBytes m m.srcNo i.spos with | some (b, p) => (b, p || i.bad) | none => ([], false)

/-- A window of a copy, a gather or a scatter with overwrite: every read before every write (R138). -/
def State.overwriteWindow (m : MoveArgs) (w : Who) (acc : State × MoveOut) (its : List Item) : State × MoveOut :=
  let (s, o) := acc
  let read := its.map fun i => (i, s.itemBytes m i)
  let conv := read.map fun r => (r.1, r.2, s.moveBytes m r.2.1)
  let ws := conv.flatMap fun r => match r.1.dst with | .here l => writesAt l r.2.2.2 r.2.1.2 | .away _ => []
  let rw := conv.filterMap fun r =>
    match r.1.dst with
    | .away k => some (k, (⟨r.1.j, r.1.dpos, pairOfBytes m.src.format m.src.pair (s.descSe m.src) r.2.1.1, r.2.2.2, r.2.1.2⟩ : WItem))
    | .here _ => none
  let o := { o with
    poison := o.poison || read.any fun r => r.2.2
    report := o.report || s.reportsNow ((its.flatMap fun i => i.src.codes).eraseDups) || s.reportsNow (partCodes false ws)
    writes := o.writes ++ rw }
  let n := fun (f : Conv → Bool) => (conv.filter fun r => f r.2.2.1).length
  let s := (s.readWindow w its).countConv m.dst (n (·.ovf)) (n (·.unf))
  (s.storeBatch w false ws, o)

/-- An add at an existing value, of an integer into I32 or of a pair's exact words elsewhere: conversion, bytes, the value measured before
it is rounded, saturation (R107, R111, R112). -/
def sumInto (d : Desc) (se : Int) (old : List Byte) (int : Int) (vs ve : Val) : Conv × List Byte × Val × Bool :=
  if d.format = fmtI32C then
    let (x, b) := satI32 (signed 32 (bytesLE old) + int)
    (⟨0, false, false⟩, toBytesLE 4 (twos 32 x), valOfInt x, b)
  else
    let o := pairOfBytes d.format d.pair se old
    let n := nodeOf (ofF32 o.s) (ofF32 o.e) vs ve
    let (c, b) := pairTo d.format d.pair se n
    (c, b, ofF32 n.s, false)

/-- One contribution to a destination element (R104, R112, R144): the bytes it then holds, and whether an I32 saturated. -/
def combineBytes (d : Desc) (se : Int) (old new : List Byte) : List Byte × Bool × Conv :=
  if d.format = fmtI32C then
    let (x, sat) := satI32 (signed 32 (bytesLE old) + signed 32 (bytesLE new))
    (toBytesLE 4 (twos 32 x), sat, ⟨0, false, false⟩)
  else
    let (c, b) := pairTo d.format d.pair se (node (pairOfBytes d.format d.pair se old) (pairOfBytes d.format d.pair se new))
    (b, false, c)

/-- A contribution combined at a destination element of this engine: the state, saturation, poison. -/
def State.combineAt (s : State) (w : Who) (d : Desc) (l : List (Option Loc)) (new : List Byte) (bad : Bool) : State × Bool × Bool :=
  let (old, ob) := s.readLocs l
  let (b, sat, c) := combineBytes d (s.descSe d) old new
  let s := s.kegErrors (locCodes l)
  let s := s.countConv d (if c.ovf then 1 else 0) (if c.unf then 1 else 0)
  let s := if sat then s.setFld layStatusSat 0 1 else s
  (s.storeBatch w true (writesAt l b (bad || ob)), sat, bad || ob)

/-- A window of a scatter with add: the sources are read, then the contributions combine one after another (R138, R144). Those of
an ordered add into a distributed destination go to the holders, this engine among them (R151). -/
def State.addWindow (m : MoveArgs) (w : Who) (acc : State × MoveOut) (its : List Item) : State × MoveOut :=
  let (s, o) := acc
  let read := its.map fun i => (i, s.itemBytes m i)
  let o := { o with report := o.report || s.reportsNow ((its.flatMap fun i => i.src.codes).eraseDups) }
  let held := m.dst.dist && !m.arrival
  read.foldl (fun (acc : State × MoveOut) r =>
    let (s, o) := acc
    let (cv, nb) := s.moveBytes m r.2.1
    let s := s.countConv m.dst (if cv.ovf then 1 else 0) (if cv.unf then 1 else 0)
    let item : WItem := ⟨r.1.j, r.1.dpos, pairOfBytes m.dst.format m.dst.pair (s.descSe m.dst) nb, nb, r.2.2⟩
    match r.1.dst with
    | .here l =>
      if held then (s, { o with poison := o.poison || r.2.2, writes := o.writes ++ [(s.rank, item)] })
      else
        let now := s.reportsNow (locCodes l)
        let (s, _, bad) := s.combineAt { w with cls := clsDrn } m.dst l nb r.2.2
        (s, { o with poison := o.poison || bad, report := o.report || now })
    | .away k => (s, { o with poison := o.poison || r.2.2, writes := o.writes ++ [(k, item)] })) (s.readWindow w its, o)

/-- Cut a list into n pieces of at most k. -/
def chunks {α : Type} (k : Nat) : Nat → List α → List (List α)
  | 0, _ => []
  | _ + 1, [] => []
  | n + 1, l => l.take k :: chunks k n (l.drop k)

/-- The windows of a move: 64 KiB of source bytes, of BQn groups as many whole ones as fit (R138, log entry 115). -/
def moveWindows (m : MoveArgs) (its : List Item) : List (List Item) :=
  chunks (max 1 (65536 / m.src.elem.bytes)) its.length its

/-- The final window: positions without source bytes, in destination memory order (R138). -/
def State.padWindow (s : State) (m : MoveArgs) (w : Who) (ps : List (List Nat)) : State :=
  let e := s.dstElem m
  let b := padBytes e m.dst.padKind
  s.storeBatch w false (ps.flatMap fun p => match s.whereIs m.dst e p with | .here l => writesAt l b false | .away _ => [])

/-- Padding positions that other engines hold. -/
def State.padAway (s : State) (m : MoveArgs) (ps : List (List Nat)) : List (Nat × WItem) :=
  let e := s.dstElem m
  let b := padBytes e m.dst.padKind
  ps.filterMap fun p =>
    match s.whereIs m.dst e p with
    | .here _ => none
    | .away k => some (k, ⟨p.getD m.gdim 0, p, pairOfBytes m.dst.format m.dst.pair 0 b, b, false⟩)

/-- The index positions that a gather or scatter reads. -/
def moveIndices (m : MoveArgs) : List Nat :=
  let d := if m.kind = 1 then m.dst else m.src
  if m.kind = 0 then [] else List.range ((d.space5 m.src.elem.groups).getD m.gdim 0)

/-- Positions of a side in its memory order, each once (R145). -/
def memSide (d : Desc) (groups : Bool) (ps : List (List Nat)) : List (List Nat) :=
  let box := (List.range 5).map fun k => ps.foldl (fun n p => max n (p.getD k 0)) 0 + 1
  (positions (d.order groups) box).filter ps.contains

/-- The elements of a move in the order of its windows, the positions without source bytes, the dropped index positions. -/
def State.moveItems (s : State) (m : MoveArgs) : List Item × List (List Nat) × List Nat :=
  if m.kind = 0 then (s.copyItems m, copyPads m, [])
  else if m.kind = 1 then s.gatherItems m
  else ((s.scatterItems m).1, [], (s.scatterItems m).2)

/-- The beats of the three sides, each in its memory order (R145, R157). -/
def State.moveBeats (s : State) (m : MoveArgs) (its : List Item) (pads : List (List Nat)) : State :=
  let de := s.dstElem m
  let s := s.countSide false m.src m.src.elem (memSide m.src m.src.elem.groups (its.map (·.spos)))
  let s := s.countSide m.add m.dst de (memSide m.dst de.groups (its.map (·.dpos) ++ pads))
  s.countSide false m.idx indexElem (memSide m.idx false ((moveIndices m).map (indexPos m)))

/-- The Keg bytes among places. -/
def kegKeys (l : List (Option Loc)) : List Nat := l.filterMap fun x => x.bind fun y => if y.space = 1 then some y.key else none

/-- The places of an element's side when it lies here. -/
def Where.places : Where → List (Option Loc)
  | .here l => l
  | .away _ => []

/-- Whether a Keg word among codes is poisoned: the origin of a move's report (Table 10.23). -/
def State.kegBad (s : State) (codes : List Nat) : Bool := codes.any fun c => c / 2 ^ 40 == 1 && s.bad.contains c

/-- A move begins: its beats are formed, and its index tensor is read (R142, R145, R208). -/
def State.beginMove (s : State) (m : MoveArgs) (w : Who) : State × MoveOut :=
  let (its, pads, js) := s.moveItems m
  let ix := ((moveIndices m).flatMap (s.indexCodes m)).eraseDups
  let d := if m.kind = 1 then m.src else m.dst
  let o : MoveOut := { dropped := js.length, idxFault := d.idxFault && !js.isEmpty, report := s.reportsNow ix, keg := s.kegBad ix
                       poison := its.any (·.bad) }
  let s := s.moveBeats m its pads
  let s := (s.touchHoles ix).kegErrors ix
  (s.issueReads w false (ix.map fun c =>
    (c, ((its.filter fun i => (s.indexCodes m i.j).contains c).flatMap fun i => i.dst.codes).eraseDups)), o)

/-- The windows of a move from window k on; none is the final one, which has no source bytes (R138). The index tensor is read again for every
window (R142; DESIGN CHOICE, log entry 149). -/
def State.windowsFrom (s : State) (m : MoveArgs) (k : Nat) : List (Option (List Item)) :=
  let (its, pads, _) := s.moveItems m
  ((moveWindows m its).map some ++ (if pads.isEmpty then [] else [none])).drop k

/-- The Keg bytes of a move's index tensor. -/
def State.indexKegKeys (s : State) (m : MoveArgs) : List Nat :=
  kegKeys ((moveIndices m).flatMap fun j => (s.whereIs m.idx indexElem (indexPos m j)).places)

/-- The elements a move still needs from other engines (R150): of the index tensor first, then of the source. -/
def State.moveNeeds (s : State) (m : MoveArgs) : List (Nat × Nat × List Nat) :=
  let ix := ((moveIndices m).map fun j => indexPos m j).filterMap fun p =>
    match s.whereIs m.idx indexElem p with
    | .here _ => none
    | .away k => if (gotBytes m m.idxNo p).isSome then none else some (m.idxNo, k, p)
  if ix.isEmpty then
    (s.moveItems m).1.filterMap fun i =>
      match i.src with
      | .here _ => none
      | .away k => if (gotBytes m m.srcNo i.spos).isSome then none else some (m.srcNo, k, i.spos)
  else ix

end Sys2Proof.Machine
end

