-- ==== Sys2Proof/Machine/SeqOps.lean ====
section
/-!
DEFINITION. Sys2Proof/Machine/SeqOps.lean: the sequencer's operations (10): tile table entries, queues, tokens, faults, halts,
preemption, the releases of stash and seed entries, and the messages an engine sends.
-/
namespace Sys2Proof.Machine

/-! ## Tile table entries (Tables 10.3 to 10.6) -/

/-- Kinds of entries. -/
abbrev kPass : Nat := 0
abbrev kDrain : Nat := 1
abbrev kMove : Nat := 2
abbrev kReduce : Nat := 3
abbrev kRaise : Nat := 4
abbrev kWait : Nat := 5
abbrev kRecomp : Nat := 6
abbrev kEnd : Nat := 7

/-- A bit of an entry. -/
def bitAt (w : BitVec 512) (n : Nat) : Bool := decide (bitsOf w n 1 = 1)

def entKind (w : BitVec 512) : Nat := bitsOf w 0 4
def entWaitTok (w : BitVec 512) : Nat := bitsOf w 4 12
def entWaitCnt (w : BitVec 512) : Nat := bitsOf w 16 16
def entRaiseTok (w : BitVec 512) : Nat := bitsOf w 32 12
def entRaiseEn (w : BitVec 512) : Bool := bitAt w 44
def entRaiseAt (w : BitVec 512) : Bool := bitAt w 45
def entRonly (w : BitVec 512) : Bool := bitAt w 46

/-- CORE, side B and ACC_TILE of a PASS or DRAIN entry. -/
def entCore (w : BitVec 512) : Nat := bitsOf w 64 7
def entSide (w : BitVec 512) : Nat := bitsOf w 71 2
def entSideB (w : BitVec 512) : Bool := decide (entSide w = 2)
def entTile (w : BitVec 512) : Nat := bitsOf w 73 1

/-- The pass issue of Table 3.4 as Table 10.4 carries it. -/
structure PassF where
  rows : Nat
  cols : Nat
  valid : Nat
  sPanel : Nat
  sRow : Nat
  sWord : Nat
  sOrient : Bool
  tPanel : Nat
  tRow : Nat
  tWord : Nat
  tOrient : Bool
  sFmt : Nat
  sN : Nat
  tFmt : Nat
  tN : Nat
  rate : Nat
  first : Bool
  last : Bool
  accAdd : Bool
  dW : Bool
  sTnum : Nat
  tTnum : Nat
  ea : Nat
  eb : Nat
  restart : Nat
  sSide : Bool
  tSide : Bool
  accStep : Bool
deriving DecidableEq, Repr

/-- The fields of a PASS entry (Table 10.4). RATE 0, 1, 2 is rate 1, 2, 4. -/
def passOf (w : BitVec 512) : PassF where
  rows := bitsOf w 74 7 + 1
  cols := bitsOf w 81 5 + 1
  valid := bitsOf w 86 11 + 1
  sPanel := bitsOf w 97 8
  sRow := bitsOf w 105 11
  sWord := bitsOf w 116 11
  sOrient := bitAt w 127
  tPanel := bitsOf w 128 8
  tRow := bitsOf w 136 11
  tWord := bitsOf w 147 11
  tOrient := bitAt w 158
  sFmt := bitsOf w 160 4
  sN := bitsOf w 164 3 + 1
  tFmt := bitsOf w 167 4
  tN := bitsOf w 171 3 + 1
  rate := 2 ^ bitsOf w 174 2
  first := bitAt w 176
  last := bitAt w 177
  accAdd := bitAt w 178
  dW := bitAt w 179
  sTnum := bitsOf w 180 14
  tTnum := bitsOf w 194 14
  ea := bitsOf w 208 8
  eb := bitsOf w 216 8
  restart := bitsOf w 224 16
  sSide := bitAt w 240
  tSide := bitAt w 241
  accStep := bitAt w 242

/-- DST, FUSE and FUS_ADDR of a DRAIN entry (Table 10.5). -/
def drainDst (w : BitVec 512) : Nat := bitsOf w 74 20
def drainFuse (w : BitVec 512) : Bool := bitAt w 94
def drainAddr (w : BitVec 512) : Nat := bitsOf w 95 42

/-- The collective of a REDUCE entry; ENTRY and RING of a RECOMP entry (R291). -/
def reduceColl (w : BitVec 512) : Nat := bitsOf w 64 20
def recompEntry (w : BitVec 512) : Nat := bitsOf w 64 16
def recompRing (w : BitVec 512) : Nat := bitsOf w 80 4

/-- Descriptor i of the loaded image. -/
def State.desc (s : State) (i : Nat) : Desc :=
  match s.image with
  | some img => descOf (img.descs.getD i 0)
  | none => descOf 0

/-- The move issue of a MOVE entry (Table 10.6). -/
def State.moveOf (s : State) (w : BitVec 512) : MoveArgs where
  kind := bitsOf w 64 2
  src := s.desc (bitsOf w 66 20)
  dst := s.desc (bitsOf w 86 20)
  idx := s.desc (bitsOf w 106 20)
  srcNo := bitsOf w 66 20
  dstNo := bitsOf w 86 20
  idxNo := bitsOf w 106 20
  gdim := bitsOf w 126 3
  origin := (List.range 5).map fun d => sbitsOf w (147 + 24 * d) 24
  add := decide (bitsOf w 64 2 = 2) && bitAt w 129
  arrival := bitAt w 130
  part := bitsOf w 131 16

/-! ## Structure of the image (R284, R285) -/

/-- The record of core k. -/
def coreRecOf (i : Image) (k : Nat) : Option CoreRec := i.cores.find? fun r => r.core == k

/-- The sides of context c in increasing order of core and side: core, side B. -/
def ctxSides (i : Image) (c : Nat) : List (Nat × Bool) :=
  (List.range 128).flatMap fun k =>
    match coreRecOf i k with
    | none => []
    | some r =>
      (if r.ctxA = some c then [(k, false)] else []) ++ (if r.split = true ∧ r.ctxB = some c then [(k, true)] else [])

/-- Queues of context c: the control queue and one for each side. -/
def ctxQueues (i : Image) (c : Nat) : Nat := 1 + (ctxSides i c).length

/-- The number of a side. -/
def sideNo (k : Nat) (b : Bool) : Nat := k * 2 + (if b then 1 else 0)

/-- The side that queue q of context c feeds; queue 0 feeds none. -/
def State.queueSide (s : State) (c q : Nat) : Option Nat :=
  match s.image with
  | none => none
  | some i => if q = 0 then none else ((ctxSides i c)[q - 1]?).map fun x => sideNo x.1 x.2

/-- The context and queue that own side B or A of core k. -/
def State.sideOwner (s : State) (k : Nat) (b : Bool) : Option (Nat × Nat) :=
  match s.image with
  | none => none
  | some i =>
    match coreRecOf i k with
    | none => none
    | some r =>
      match (if b then (if r.split then r.ctxB else none) else r.ctxA) with
      | none => none
      | some c => ((ctxSides i c).findIdx? fun x => x.1 == k && x.2 == b).map fun j => (c, j + 1)

/-- The queue of a list of tile tables. -/
def tilesFind (l : List TileQueue) (b c q : Nat) : Option TileQueue :=
  l.find? fun t => t.bucket == b && t.ctx == c && t.queue == q

/-- A queue in force: of a committed variant when one holds it, else the image's (R305). -/
def State.tileRec (s : State) (b c q : Nat) : Option TileQueue :=
  match s.image with
  | none => none
  | some i =>
    ((i.variants.filter fun v => s.chain.variants.contains (v.layer, v.variant)).findSome? fun v => tilesFind v.tiles b c q).or
      (tilesFind i.tiles b c q)

/-- The entries of a queue in force. -/
def State.tileQueue (s : State) (b c q : Nat) : List (BitVec 512) := ((s.tileRec b c q).map (·.entries)).getD []

/-- The tile tables in force: those of committed variants in place of the image's (R305). -/
def State.tilesInForce (s : State) : List TileQueue :=
  match s.image with
  | none => []
  | some i =>
    let vs := (i.variants.filter fun v => s.chain.variants.contains (v.layer, v.variant)).flatMap (·.tiles)
    vs ++ i.tiles.filter fun t => !vs.any fun v => v.bucket == t.bucket && v.ctx == t.ctx && v.queue == t.queue

/-- The tensors that the tile tables in force name: operands of passes, tracked destinations and sources of drains and moves. -/
def State.tileTensors (s : State) : List Nat :=
  let tracked := fun (n : Nat) => let d := s.desc n; if d.tracked then [d.tnum] else []
  (s.tilesInForce.flatMap fun t => t.entries.flatMap fun w =>
    if entKind w = kPass then [(passOf w).sTnum, (passOf w).tTnum]
    else if entKind w = kDrain then tracked (drainDst w)
    else if entKind w = kMove then let m := s.moveOf w; tracked m.srcNo ++ tracked m.dstNo
    else []).eraseDups

/-- The contexts that the loaded image uses. -/
def State.usedCtx (s : State) : List Nat :=
  match s.image with
  | some i => i.contexts.map (·.ctx)
  | none => []

/-! ## Contexts and queues -/

/-- States of a context (Table 10.21). WAITING is RUNNING as a read shows it. -/
abbrev ctxIdle : Nat := 1
abbrev ctxRunning : Nat := 2
abbrev ctxPreempting : Nat := 4
abbrev ctxPreempted : Nat := 5
abbrev ctxRestarting : Nat := 6
abbrev ctxHalted : Nat := 7

def State.ctx (s : State) (c : Nat) : Ctx := s.ctxs.getD c {}
def State.modCtx (s : State) (c : Nat) (f : Ctx → Ctx) : State := { s with ctxs := s.ctxs.modify c f }
def State.ctxState (s : State) (c : Nat) : Nat := s.fld seqStatusState c
def State.setCtxState (s : State) (c st : Nat) : State := s.setFld seqStatusState c st

/-- Queue q of a context. -/
def Ctx.q (x : Ctx) (q : Nat) : Queue := x.queues.getD q {}

/-- Change queue q of context c. -/
def State.modQueue (s : State) (c q : Nat) (f : Queue → Queue) : State :=
  s.modCtx c fun x => { x with queues := x.queues.modify q f }

def State.side (s : State) (i : Nat) : Side := s.sides.getD i {}
def State.modSide (s : State) (i : Nat) (f : Side → Side) : State := { s with sides := s.sides.modify i f }
def State.tile (s : State) (i : Nat) : Tile := s.tiles.getD i {}
def State.modTile (s : State) (i : Nat) (f : Tile → Tile) : State := { s with tiles := s.tiles.modify i f }

/-- Whether position i of a queue is replayed. -/
def Queue.replays (u : Queue) (i : Nat) : Bool := match u.replayTo with | some e => decide (i < e) | none => false

/-- The next entry of a queue: restart-only entries are skipped in normal issue, drains done are skipped in a replay (R287,
R310). -/
def State.nextEntry (s : State) (c q : Nat) : Option (Nat × BitVec 512 × Bool) :=
  let u := (s.ctx c).q q
  if u.ended then none
  else
    let es := s.tileQueue (s.ctx c).bucket c q
    (List.range (es.length - u.ptr)).findSome? fun j =>
      let i := u.ptr + j
      let w := es.getD i 0
      let rep := u.replays i
      if (!rep && entRonly w) || (rep && entKind w == kDrain && u.doneDrains.contains i) || u.early.contains i then none
      else some (i, w, rep)

/-- The drain of a COMPLETE tile that a preemption finishes before the queue reaches it (R120). -/
def State.earlyDrain (s : State) (c q : Nat) : Option (Nat × BitVec 512 × Bool) :=
  match s.queueSide c q with
  | none => none
  | some si =>
    let u := (s.ctx c).q q
    let es := s.tileQueue (s.ctx c).bucket c q
    (List.range (es.length - u.ptr)).findSome? fun j =>
      let i := u.ptr + j
      let w := es.getD i 0
      let t := s.tile (si * 2 + entTile w)
      if entKind w = kDrain ∧ t.state = .complete ∧ t.poisoned = false ∧ (u.early ++ u.doneDrains).contains i = false then
        some (i, w, u.replays i)
      else none

/-! ## Tokens (R293 to R296) -/

def State.tok (s : State) (c t : Nat) : Nat := cellGet (fun _ => 0) s.toks (4096 * c + t)
def State.setTok (s : State) (c t n : Nat) : State := { s with toks := cellSet (fun _ => 0) s.toks (4096 * c + t) n }

/-- The declarations of the loaded image. -/
def State.tokDecls (s : State) : List TokDecl := match s.image with | some i => i.tokens | none => []

/-- The declaration of token t of context c. -/
def State.tokDecl (s : State) (c t : Nat) : Option TokDecl := s.tokDecls.find? fun d => d.ctx == c && d.tok == t

/-- A message leaves the engine. -/
def State.post (s : State) (m : NetMsg) : State := { s with chain := { s.chain with sent := s.chain.sent ++ [m] } }

/-- A message with its element or unit k poisoned; a digest, control block or journal is then not given, a mirrored step (by its low 30
bits) not reported. -/
def NetMsg.spoil (k : Nat) : NetMsg → NetMsg
  | .readResp r x => .readResp r { x with items := x.items.modify k fun i => (i.1, i.2.1, true) }
  | .block r slot round d bad tag => .block r slot round d (if bad.contains k then bad else bad ++ [k]) tag
  | .bushel r (.digest _) => .bushel r (.digest none)
  | .bushel r (.control _) => .bushel r (.control none)
  | .bushel r (.journal _) => .bushel r (.journal [])
  | .scan r steps mirror => .scan r steps (mirror.filter fun x => x % 2 ^ 30 != k)
  | m => m

/-- Whether a read that feeds something named is still to be answered. -/
def State.readsOpen (s : State) (feeds : Nat → Bool) : Bool :=
  s.sp.any fun p => (p.rd ++ p.rdWait).any (fun r => r.reader.dsts.any (·.any feeds)) || p.halves.any fun h => h.dsts.any feeds

/-- Whether a read for held message `id` is still to be answered. -/
def State.answerOpen (s : State) (id : Nat) : Bool :=
  s.readsOpen fun d => d / 2 ^ 30 == 2 ^ 31 + id

/-- Send the held messages whose data has all been read (R150, R211, R270). -/
def State.payAnswers (s : State) : State :=
  let go := s.chain.answers.filter fun a => !s.answerOpen a.1
  go.foldl (fun s a => s.post a.2) { s with chain := { s.chain with answers := s.chain.answers.filter fun a => s.answerOpen a.1 } }

/-- Hold a message until the units that it was read from have been answered; each comes with the elements or units of the message that
take bytes from it. -/
def State.holdMsg (s : State) (w : Who) (reads : List (Nat × List Nat)) (m : NetMsg) : State :=
  let id := s.chain.answerNo
  let s : State := { s with chain := { s.chain with answers := s.chain.answers ++ [(id, m)], answerNo := id + 1 } }
  (s.issueReads w false (reads.map fun r => (r.1, r.2.map (markAnswer id)))).payAnswers

/-- Raise a token once (R295), and send it where TOKENS wires it (R296). -/
def State.raiseTok (s : State) (c t : Nat) : State :=
  let n := s.tok c t
  let s := if n = 65535 then (s.setFld seqStatusTokovf c 1).logEv 0x0304 2 c t else s.setTok c t (n + 1)
  let ws : List Wiring := match s.image with
    | some i => i.wiring.filter fun w => w.ctx == c && w.tok == t
    | none => []
  ws.foldl (fun s w => s.post (.token w.rank w.toCtx w.toTok)) s

/-- Raise every token whose source satisfies p. -/
def State.raiseSource (s : State) (p : TokSource → Bool) : State :=
  (s.tokDecls.filter fun d => p d.source).foldl (fun s d => s.raiseTok d.ctx d.tok) s

/-- Clear the counts of the tokens that satisfy p. -/
def State.clearToks (s : State) (p : TokDecl → Bool) : State :=
  (s.tokDecls.filter p).foldl (fun s d => s.setTok d.ctx d.tok 0) s

/-- An FX raise attributed to a micro-batch: at once for a context that runs it and for a refusal, else held (R294). -/
def State.raiseFx (s : State) (kind : FxTok) (layer step mb : Nat) : State :=
  let ds := s.tokDecls.filter fun d =>
    match d.source with
    | .fx k l => k == kind && (kind != .layerDone || l == layer)
    | _ => false
  ds.foldl (fun s d =>
    let x := s.ctx d.ctx
    if kind == .refusal || (x.running && x.mbStep == step && x.mbNum == mb) then s.raiseTok d.ctx d.tok
    else { s with held := s.held ++ [⟨d.ctx, step, mb, d.tok⟩] }) s

/-- Apply the raises held for the micro-batch that context c starts. -/
def State.applyHeld (s : State) (c step mb : Nat) : State :=
  let is := fun (h : Held) => h.ctx == c && h.step == step && h.mb == mb
  let hs := s.held.filter is
  hs.foldl (fun s h => s.raiseTok h.ctx h.tok) { s with held := s.held.filter fun h => !is h }

/-! ## Faults (R311, R312) -/

/-- The fault policy's action for a fault name; 1 CONTINUE, 2 REISSUE, 3 HALT. -/
def State.policy (s : State) (name dflt : Nat) : Nat :=
  match s.image with
  | some i => ((i.faults.find? fun f => f.1 == name).map (·.2)).getD dflt
  | none => dflt

/-- Record a fault of context c (Table 10.23, code 0x0100 + name). -/
def State.reportFault (s : State) (c name action q i origin detail : Nat) : State :=
  let s := ((s.setFld seqFaultName c name).setFld seqFaultAction c action).setFld seqFaultQueue c q
  let s := ((s.setFld seqFaultEntry c i).setFld seqFaultOrigin c origin).setFld seqFaultStepLo c (s.epoch.toNat % 65536)
  (s.setOnce seqStatusFaulted c mgtIrqPendFault).logEv (0x100 + name) 2 c
    (i + 2 ^ 24 * q + 2 ^ 33 * origin + 2 ^ 36 * (detail % 2 ^ 28))

/-- A context halts on a fault and is marked failed (R312). -/
def State.haltCtx (s : State) (c name : Nat) : State :=
  (s.modCtx c fun x => { x with halted := some name, failed := some (x.failed.getD name) }).setCtxState c ctxHalted

/-- A fault whose action the policy chooses between CONTINUE and HALT. -/
def State.policyFault (s : State) (c name dflt q i origin detail : Nat) : State :=
  let a := s.policy name dflt
  let s := s.reportFault c name a q i origin detail
  if a = 3 then s.haltCtx c name else s

/-- SC8_UNCORR of a move, an update or a combine read: CONTINUE or HALT (Table 10.9). -/
def State.uncorrFault (s : State) (c q i origin : Nat) : State := s.policyFault c 7 3 q i origin 0

/-- A fault that fails the step by its own rule (STALE_SHARD, LINK_DOWN). -/
def State.fixedFault (s : State) (c name q i detail : Nat) : State :=
  let s := s.reportFault c name 0 q i 0 detail
  let s := s.modCtx c fun x => { x with failed := some (x.failed.getD name) }
  { s with chain := { s.chain with stepFailed := some (s.chain.stepFailed.getD name) } }

/-- How often the tile whose FIRST pass stands at entry `first` of side si has faulted. -/
def State.tileFaultCount (s : State) (c si first : Nat) : Nat :=
  (((s.ctx c).tileFaults.find? fun x => x.1 == si && x.2.1 == first).map (·.2.2)).getD 0

/-- Count a fault of a tile. -/
def State.countTileFault (s : State) (c si first : Nat) : State :=
  let n := s.tileFaultCount c si first + 1
  s.modCtx c fun x => { x with tileFaults := (si, first, n) :: x.tileFaults.filter fun y => !(y.1 == si && y.2.1 == first) }

/-! ## Issue -/

/-- The engine works: it serves the control port and is in Run. -/
def State.works (s : State) : Bool := s.alive && decide (s.power = 0)

/-- The engine has a loaded image and hears the Chain: in Doze the messages wait in the receive buffers (R356). -/
def State.onChain (s : State) : Bool := s.works && s.loaded

/-- A wait is satisfied while the count is at least WAIT_CNT (R293). -/
def State.waitMet (s : State) (c : Nat) (w : BitVec 512) : Bool :=
  decide (entWaitCnt w = 0) || decide (entWaitCnt w ≤ s.tok c (entWaitTok w))

/-- Whether a queue's side is stopped (R85, R119). -/
def State.queueStopped (s : State) (c q : Nat) : Bool :=
  match s.queueSide c q with | some i => (s.side i).poisoned | none => false

/-- Whether context c may issue: RUNNING or RESTARTING, or a drain while PREEMPTING (R120, R314). -/
def State.ctxMayIssue (s : State) (c kind : Nat) : Bool :=
  let st := s.ctxState c
  s.works && decide (s.admState = admRunning) && (s.ctx c).running && (s.ctx c).halted.isNone &&
    (st == ctxRunning || st == ctxRestarting || (st == ctxPreempting && kind == kDrain))

/-- An entry in flight. -/
def State.flightOf (s : State) (c q i : Nat) : Option Flight := (s.ctx c).flight.find? fun f => f.queue == q && f.index == i

/-- A FIRST pass whose accumulator tile has still to be drained holds back its side (R74): the tile is COMPLETE or DRAINING, or its
drain has been issued and has not ended. -/
def State.tileHeld (s : State) (c q : Nat) (w : BitVec 512) : Bool :=
  entKind w == kPass && (passOf w).first &&
    match s.queueSide c q with
    | none => false
    | some si =>
      let st := (s.tile (si * 2 + entTile w)).state
      st == .complete || st == .draining || (s.ctx c).flight.any fun f =>
        f.queue == q && entKind f.word == kDrain && entTile f.word == entTile w && !f.finished && !f.lapsed

/-- The entry that queue q of context c may issue now, when it has the given kind (R74, R287): the next one, or while the context is being
preempted the drain of a COMPLETE tile (R120). One that a replay repeats waits until its earlier issue has completed (R310). -/
def State.mayIssue (s : State) (c q kind : Nat) : Option (Nat × BitVec 512 × Bool) :=
  if s.ctxMayIssue c kind && !s.queueStopped c q then
    match (if s.ctxState c = ctxPreempting then s.earlyDrain c q else s.nextEntry c q) with
    | some (i, w, rep) =>
      if entKind w = kind ∧ (rep = true ∨ s.waitMet c w = true) ∧ (s.flightOf c q i).all (·.lapsed) = true ∧ s.tileHeld c q w = false then
        some (i, w, rep)
      else none
    | none => none
  else none

/-- Raise an entry's token unless a replay repeats a raise (R310). -/
def State.raiseEntry (s : State) (c q i : Nat) (w : BitVec 512) (rep : Bool) : State :=
  if !entRaiseEn w || (rep && ((s.ctx c).q q).raised.contains i) then s
  else (s.raiseTok c (entRaiseTok w)).modQueue c q fun u => { u with raised := i :: u.raised }

/-- No queue replays any more: RESTARTING ends. -/
def State.endReplay (s : State) (c : Nat) : State :=
  if s.ctxState c = ctxRestarting ∧ (s.ctx c).queues.all (fun u => u.replayTo.isNone) = true then s.setCtxState c ctxRunning else s

/-- The pointer moves past entry i, unless it is issued before its turn; a replay ends where the queue had been. -/
def State.advance (s : State) (c q i : Nat) : State :=
  match s.nextEntry c q with
  | some (j, _) =>
    if j ≠ i then s.modQueue c q fun u => { u with early := i :: u.early }
    else
      (s.modQueue c q fun u =>
        { u with ptr := i + 1, replayTo := match u.replayTo with | some e => if e ≤ i + 1 then none else some e | none => none }).endReplay c
  | none => s

/-- Issue an entry that completes later: raise at issue where the header says so, and put it in flight (R287, R292). -/
def State.launch (s : State) (c q i : Nat) (w : BitVec 512) (rep : Bool) : State :=
  let s := s.advance c q i
  let s := if entRaiseAt w then s else s.raiseEntry c q i w rep
  let new : Flight := { queue := q, index := i, word := w, replay := rep }
  s.modCtx c fun x =>
    let held := x.flight.any fun f => f.queue == q && f.index == i
    { x with flight := if held then x.flight.map fun f => if f.queue == q && f.index == i then new else f else x.flight ++ [new] }

/-- Issue an entry whose completion is its issue (R292). -/
def State.launchDone (s : State) (c q i : Nat) (w : BitVec 512) (rep : Bool) : State :=
  (s.advance c q i).raiseEntry c q i w rep

/-- Change an entry in flight. -/
def State.modFlight (s : State) (c q i : Nat) (f : Flight → Flight) : State :=
  s.modCtx c fun x => { x with flight := x.flight.map fun y => if y.queue == q && y.index == i then f y else y }

/-- Mark the work of an entry in flight as done. -/
def State.finishFlight (s : State) (c q i : Nat) : State := s.modFlight c q i fun f => { f with finished := true }

/-- A context has finished its micro-batch: every queue ended, everything complete (R303). -/
def State.checkDone (s : State) (c : Nat) : State :=
  let x := s.ctx c
  if x.running = true ∧ x.queues.all (fun u => u.ended) = true ∧ x.flight.isEmpty = true then
    let s := s.modCtx c fun x => { x with running := false, finished := x.finished + 1, before := if x.before = 0 then 0 else ctxIdle }
    let st := s.ctxState c
    if st = ctxRunning ∨ st = ctxRestarting then s.setCtxState c ctxIdle else s
  else s

/-- Micro-batches 0 to NMB - 1 of the step have all been opened (R31, R198). -/
def State.allOpened (s : State) (i : Image) : Bool := decide (i.nmb ≤ (s.mbs.filter fun m => decide (m.mb < i.nmb)).length)

/-- An image page disagreed twice: the context that needed it, for entry or layer i, halts (R283). -/
def State.pageHalt (s : State) (c q i : Nat) : State := ((s.sumUncorr 1).reportFault c 7 3 q i 5 0).haltCtx c 7

/-- Outstanding stack-port requests of an entry. -/
def State.outstanding (s : State) (c q i : Nat) : Bool :=
  s.sp.any fun p => (p.rd ++ p.wr ++ p.rdWait ++ p.wrWait).any fun r =>
    r.reader.ctx == some c && r.reader.queue == q && r.reader.index == i

/-! ## FX outbound (R399, R401) -/

/-- Items that leave, in order, under data and record credits; the rest waits. -/
def pumpItems : List FxOut → Nat → Nat → List FxOut × List FxOut × Nat × Nat
  | [], d, r => ([], [], d, r)
  | x :: t, d, r =>
    match x with
    | .weightBeat _ _ _ _ =>
      if d = 0 then ([], x :: t, d, r) else let (a, b, e) := pumpItems t (d - 1) r; (x :: a, b, e)
    | _ => if r = 0 then ([], x :: t, d, r) else let (a, b, e) := pumpItems t d (r - 1); (x :: a, b, e)

/-- Present what the outbound credits allow. -/
def State.fxPump (s : State) : State :=
  let (a, b, d, r) := pumpItems s.fx.queue s.fx.outData s.fx.outRec
  { s with fx := { s.fx with out := s.fx.out ++ a, queue := b, outData := d, outRec := r } }

/-- Send items on FX outbound. -/
def State.fxSend (s : State) (l : List FxOut) : State := ({ s with fx := { s.fx with queue := s.fx.queue ++ l } } : State).fxPump

/-! ## Sides: poison and reissue (R85, R108, R119, R310) -/

/-- The side bit of a pair of fields. -/
def sideFld (a b : Fld) (i : Nat) : Fld := if i % 2 = 0 then a else b

/-- LOG SIDE of a side: 0 for an unsplit core. -/
def State.isSplit (s : State) (k : Nat) : Bool :=
  match s.image with
  | some i => ((coreRecOf i k).map (·.split)).getD false
  | none => false

/-- A side stops until the sequencer restarts it. -/
def State.stopSide (s : State) (si : Nat) : State :=
  (s.modSide si fun d => { d with poisoned := true }).setFld (sideFld arrStatusStoppedA arrStatusStoppedB si) (si / 2) 1

/-- Poison the side's FILLING tile. -/
def State.poisonFilling (s : State) (si : Nat) : State :=
  [0, 1].foldl (fun s t => s.modTile (si * 2 + t) fun x => if x.state = .filling then { x with poisoned := true } else x) s

/-- The first entry of the tile that a fault on side si concerns: its FILLING tile's, else that of the oldest pass issued. -/
def State.faultTile (s : State) (si : Nat) : Nat :=
  match [0, 1].find? fun t => (s.tile (si * 2 + t)).state == .filling with
  | some t => (s.tile (si * 2 + t)).first
  | none => ((((s.side si).inArray ++ (s.side si).issued).head?).map (·.index)).getD 0

/-- A fault with fixed REISSUE: recorded, and the third of a tile halts the context (R312). -/
def State.reissueFault (s : State) (c name q si first i origin limit : Nat) : State :=
  let s := s.countTileFault c si first
  if limit ≤ s.tileFaultCount c si first then (s.reportFault c name 3 q i origin 0).haltCtx c name
  else s.reportFault c name 2 q i origin 0

/-- Rewind a queue to entry r and replay up to the position it had reached. -/
def State.rewind (s : State) (c q r : Nat) (done : List Nat) : State :=
  s.modQueue c q fun u =>
    { u with ptr := r, ended := false, replayTo := some (max u.ptr (u.replayTo.getD 0)), doneDrains := u.doneDrains ++ done }

/-- Reissue a stopped side (R310). -/
def State.reissueSide (s : State) (k : Nat) (b : Bool) : State :=
  match s.sideOwner k b with
  | none => s
  | some (c, q) =>
    let si := sideNo k b
    let ts := [si * 2, si * 2 + 1]
    let freed := ts.filter fun t => let x := s.tile t; x.poisoned || x.state == .filling || x.state == .complete
    let starts := (freed.map fun t => ((s.tile t).first, (s.tile t).restart)) ++
      ((s.side si).issued.map fun p => (p.index, p.index - (passOf p.word).restart))
    let kept := fun (f : Flight) =>
      let t := si * 2 + entTile f.word
      (s.tile t).state == .draining && !freed.contains t && decide ((s.tile t).first ≤ f.index)
    let keeps := fun (f : Flight) => kept f && (entKind f.word == kDrain || (entKind f.word == kPass && f.finished))
    let done := ((s.ctx c).flight.filter fun f => f.queue == q && keeps f).map (·.index)
    let s := freed.foldl (fun s t => s.modTile t fun x =>
      { first := x.first, ctx := x.ctx, queue := x.queue, committed := x.committed }) s
    let s := s.modSide si fun d => { collided := d.collided }
    let back := fun (f : Flight) => f.queue == q && !keeps f && entKind f.word == kDrain && !f.finished
    let lost := ((s.ctx c).flight.filter back).map (·.index)
    let s := s.modQueue c q fun u => { u with early := u.early.filter fun i => !lost.contains i }
    let s := s.modCtx c fun x => { x with flight := (x.flight.filter fun f =>
      !(f.queue == q && !keeps f && entKind f.word == kPass)).map fun f => if back f then { f with lapsed := true } else f }
    let s := match starts.foldl (fun (m : Option (Nat × Nat)) p => match m with
        | none => some p
        | some y => if p.1 < y.1 then some p else m) none with
      | none => s
      | some (_, r) => s.rewind c q r done
    let s := s.bump seqStatusRestarts c 1
    let st := s.ctxState c
    if st = ctxRunning then s.setCtxState c ctxRestarting
    else if st = ctxPreempting then s.modCtx c fun x => { x with before := ctxRestarting }
    else s

/-! ## Preemption (R120, R153, R239, R314 to R316) -/

/-- Preempt a context in RUNNING, WAITING or RESTARTING. -/
def State.preemptCtx (s : State) (c : Nat) : State :=
  let st := s.ctxState c
  if st = ctxRunning ∨ st = ctxRestarting then (s.modCtx c fun x => { x with before := st }).setCtxState c ctxPreempting else s

/-- The sides of context c. -/
def State.ctxSideList (s : State) (c : Nat) : List (Nat × Bool) := match s.image with | some i => ctxSides i c | none => []

/-- A drain of tile t is in flight or is the next thing its queue may issue. -/
def State.drainComing (s : State) (c q t : Nat) : Bool :=
  ((s.ctx c).flight.any fun f => f.queue == q && entKind f.word == kDrain && entTile f.word == t % 2 && !f.lapsed) ||
  (match s.mayIssue c q kDrain with | some (_, w, _) => entTile w == t % 2 | none => false)

/-- The layers of the optimiser section. -/
def State.layerRecs (s : State) : List LayerRec :=
  match s.image with
  | some i => (i.optim.map (·.layers)).getD []
  | none => []

/-- An update unit has a block of one of context c's layers in progress (R239). -/
def State.unitsWork (s : State) (c : Nat) : Bool :=
  s.upd.units.any fun u => match u.cur with
    | some l => (match s.layerRecs[l]? with | some r => decide (r.ctx = c) | none => false)
    | none => false

/-- Every unit of a preempting context has stopped: sides, and update units, which finish the block in progress (R239). -/
def State.mayRest (s : State) (c : Nat) : Bool :=
  !s.unitsWork c &&
  (s.ctxSideList c).all fun x =>
    let si := sideNo x.1 x.2
    (s.side si).inArray.isEmpty &&
    [si * 2, si * 2 + 1].all fun t =>
      let st := (s.tile t).state
      st != .draining && !(st == .complete && match s.sideOwner x.1 x.2 with | some (_, q) => s.drainComing c q t | none => false)

/-- The save area of a context (R284). -/
def State.saveArea (s : State) (c : Nat) : Nat :=
  match s.image with
  | some i => ((i.contexts.find? fun x => x.ctx == c).map (·.save)).getD 0
  | none => 0

/-- The bytes of a pair: s, then e. -/
def pairBytes (p : Pair) : List Byte := toBytesLE 4 p.s.toNat ++ toBytesLE 4 p.e.toNat

/-- Level l of an accumulator entry. -/
def AccEntry.level (e : AccEntry) (l : Nat) : Option Pair := (e.cord[l]?).join

/-- The 40 bytes of an accumulator entry (Table 4.1). -/
def AccEntry.bytes (e : AccEntry) (integer : Bool) : List Byte :=
  if integer then toBytesLE 4 (twos 32 e.int) ++ List.replicate 36 0
  else pairBytes e.res ++ (List.range 4).flatMap fun l => pairBytes ((e.level l).getD Pair.zero)

/-- What an accumulator entry that no pass has reached holds. -/
def entryZero : Nat → AccEntry := fun _ => {}

/-- The key of entry (i, c) of a tile. -/
def entryKey (i c : Nat) : Nat := i * 32 + c

/-- The keys of a tile's entries, row-major. -/
def Tile.keys (t : Tile) : List Nat := (List.range t.rows).flatMap fun i => (List.range t.cols).map fun c => entryKey i c

/-- The occupied spill slots of a tile, level by level: level and entry (R100). -/
def Tile.spills (t : Tile) : List (Nat × Nat) :=
  ((List.range 12).map (4 + ·)).flatMap fun l =>
    (t.keys.filter fun k => ((cellGet entryZero t.entries k).level l).isSome).map fun k => (l, k)

/-- The save record of a FILLING tile of side `si` and `p` passes (Table 4.9); how its first 64 bytes are packed is a choice (log entry
41). -/
def Tile.record (t : Tile) (si p : Nat) : List Byte :=
  let bit := fun (b : Bool) => toBytesLE 1 (if b then 1 else 0)
  toBytesLE 2 t.tag ++ toBytesLE 1 (si % 2) ++ bit t.accAdd ++ bit t.integer ++ bit t.sat ++ toBytesLE 2 0 ++
    toBytesLE 4 t.k ++ toBytesLE 2 p ++ toBytesLE 1 t.rows ++ toBytesLE 1 t.cols ++
    toBytesLE 1 t.ea ++ toBytesLE 1 t.eb ++ List.replicate 46 0 ++
    t.keys.flatMap (fun k => (cellGet entryZero t.entries k).bytes t.integer) ++
    t.spills.flatMap fun x => pairBytes (((cellGet entryZero t.entries x.2).level x.1).getD Pair.zero)

/-- P: the passes of a tile, from its FIRST to its LAST (R98). -/
def State.tilePasses (s : State) (n : Nat) (t : Tile) : Nat :=
  ((s.tileQueue (s.ctx t.ctx).bucket t.ctx t.queue).drop t.first).foldl (fun (acc : Nat × Bool) w =>
    if acc.2 || entKind w != kPass || entTile w != n % 2 then acc else (acc.1 + 1, (passOf w).last)) (0, false) |>.1

/-- The bytes that a preempted context puts into its save area (R120, R153, R314): the records of its FILLING tiles, each from a new
unit on, then its queue positions, its moves with their next windows, its token counts and its held raises. -/
def State.saveBytes (s : State) (c : Nat) (tiles : List (Nat × Tile)) : List Byte :=
  let whole := fun (l : List Byte) => l ++ List.replicate ((64 - l.length % 64) % 64) 0
  tiles.flatMap (fun x => whole (x.2.record (x.1 / 2) (s.tilePasses x.1 x.2))) ++
    (s.ctx c).queues.flatMap (fun u => toBytesLE 4 u.ptr ++ toBytesLE 4 (u.replayTo.getD 0)) ++
    s.movers.flatMap (fun m => match m with
      | some m => if m.ctx = c then toBytesLE 2 m.queue ++ toBytesLE 4 m.index ++ toBytesLE 2 (m.next.getD 0) else []
      | none => []) ++
    (s.tokDecls.filter fun d => d.ctx == c).flatMap (fun d => toBytesLE 2 d.tok ++ toBytesLE 2 (s.tok c d.tok)) ++
    (s.held.filter fun h => h.ctx == c).flatMap fun h => toBytesLE 4 h.step ++ toBytesLE 2 h.mb ++ toBytesLE 2 h.tok

/-- The queue number that marks a context's accesses to its save area (log entry 43). -/
abbrev saveQueue : Nat := 511

/-- The accesses of a context to its save area. -/
def saveWho (c : Nat) : Who := ⟨some c, saveQueue, 0, clsDrn⟩

/-- Save the FILLING tiles of a context and free them (R120); with them goes what the sequencer keeps of the context (R314). -/
def State.saveTiles (s : State) (c : Nat) : State :=
  let ns := (s.ctxSideList c).flatMap fun x => [sideNo x.1 x.2 * 2, sideNo x.1 x.2 * 2 + 1]
  let tiles := (ns.filter fun n => (s.tile n).state == .filling).map fun n => (n, s.tile n)
  let s := s.storeBatch (saveWho c) false (bytesAt 0 (s.saveArea c) (s.saveBytes c tiles) false)
  let s := s.modCtx c fun z => { z with saved := z.saved ++ tiles }
  tiles.foldl (fun s x => s.modTile x.1 fun _ => {}) s

/-- A pair from its bytes. -/
def pairFrom (b : List Byte) : Pair := ⟨BitVec.ofNat 32 (bytesLE (b.take 4)), BitVec.ofNat 32 (bytesLE ((b.drop 4).take 4))⟩

/-- An accumulator entry from its 40 bytes and the pairs of its spill slots: level l is occupied where it was at the save. -/
def AccEntry.restored (e : AccEntry) (integer : Bool) (b : List Byte) (spill : Nat → Pair) : AccEntry :=
  if integer then { e with int := signed 32 (bytesLE (b.take 4)) }
  else
    { e with
      res := pairFrom b
      cord := (indexed e.cord).map fun x => x.1.map fun _ => if x.2 < 4 then pairFrom (b.drop (8 + 8 * x.2)) else spill x.2 }

/-- A tile as its record in the save area gives it back; a unit of the record that reads poisoned leaves the tile poisoned (log entry
41). -/
def Tile.restored (t : Tile) (b : List Byte) (bad : Bool) : Tile :=
  let body := b.drop 64
  let up := body.drop (40 * t.keys.length)
  let at' := fun (l k : Nat) => match t.spills.findIdx? (· == (l, k)) with | some n => pairFrom (up.drop (8 * n)) | none => Pair.zero
  { t with
    poisoned := t.poisoned || bad
    entries := (indexed t.keys).foldl (fun es x =>
      cellSet entryZero es x.1 ((cellGet entryZero es x.1).restored t.integer (body.drop (40 * x.2)) fun l => at' l x.1)) t.entries }

/-- A unit leaves the layer in work at its next block. -/
def UnitSt.pause (u : UnitSt) : UnitSt :=
  match u.cur with
  | some l => { u with cur := none, paused := (l, u.slice, u.block, u.normPass) :: u.paused }
  | none => u

/-- A preempting context comes to rest. -/
def State.restCtx (s : State) (c : Nat) : State := (s.saveTiles c).setCtxState c ctxPreempted

/-- Bring back the saved tiles of a context from its save area, one record after another (R120). -/
def State.restoreTiles (s : State) (c : Nat) : State :=
  ((s.ctx c).saved.foldl (fun (acc : State × Nat) p =>
    let (s, a) := acc
    let n := (p.2.record (p.1 / 2) 0).length
    let whole := (n + 63) / 64 * 64
    let (b, bad) := s.loadBytes 0 a n
    let s := s.issueReads (saveWho c) false ((List.range (whole / 64)).map fun u => (a / 64 + u, [markTile p.1]))
    let t := p.2.restored b bad
    let s := s.modTile p.1 fun _ => t
    let s := if t.poisoned then s.stopSide (p.1 / 2) else s
    (if bad then s.reissueFault c 7 t.queue (p.1 / 2) t.first t.first 1 3 else s, a + whole)) (s, s.saveArea c)).1

/-- Resume a preempted context: its tiles come back, a poisoned one to be reissued (R316). -/
def State.resumeCtx (s : State) (c : Nat) : State :=
  if s.ctxState c ≠ ctxPreempted then s
  else
    let s := (s.restoreTiles c).modCtx c fun x => { x with saved := [] }
    let b := (s.ctx c).before
    let st := if s.ctxState c = ctxHalted then ctxHalted else if b = 0 then ctxRunning else b
    (s.modCtx c fun x => { x with before := 0 }).setCtxState c st

end Sys2Proof.Machine
end

