-- ==== Sys2Proof/Machine/LinkOps.lean ====
section
/-!
DEFINITION. Sys2Proof/Machine/LinkOps.lean: the Furlong ports as other parts of the engine act on them: bring-up, failure, and
the ready report that waits for them (09 sections 9.9 and 9.10).
-/
namespace Sys2Proof.Machine

/-- States of FUR.LINK (Table 9.21). -/
abbrev linkDown : Nat := 0
abbrev linkLoopback : Nat := 1
abbrev linkTraining : Nat := 2
abbrev linkAligned : Nat := 3
abbrev linkHello : Nat := 4
abbrev linkUp : Nat := 5
abbrev linkRetrain : Nat := 6
abbrev linkFailed : Nat := 7

def State.port (s : State) (n : Nat) : PortSt := s.fur.getD n {}
def State.modPort (s : State) (n : Nat) (f : PortSt → PortSt) : State := { s with fur := s.fur.modify n f }
def State.linkState (s : State) (n : Nat) : Nat := s.fld furLinkState n

/-- The port record of the loaded image. -/
def State.portRec (s : State) (n : Nat) : Option PortRec :=
  match s.image with
  | some i => i.links.ports.find? fun p => p.port == n
  | none => none

/-- The ports that the loaded image uses. -/
def State.usedPorts (s : State) : List Nat :=
  match s.image with
  | some i => i.links.ports.map (·.port)
  | none => []

/-- Whether port n trains in loopback: RING_BYP is asserted and the port runs through the bypass (R274). -/
def State.loopsBack (s : State) (n : Nat) : Bool :=
  s.flag mapRingBypAsserted 0 && (s.fld mapRingBypPorts 0).testBit n

/-- MAP.RING.LOOP_OK: every port of BYP_PORTS has completed loopback training, and both ports of each pair are named (R274, R405); with
none named it stays 0 (log entry 30). -/
def State.loopOk (s : State) : Bool :=
  let b := s.fld mapRingBypPorts 0
  decide (b ≠ 0) && (List.range 16).all fun n => !b.testBit n || ((s.port n).looped && b.testBit (n ^^^ 1))

/-- The retimed pair, when RTM_PAIR names ports of the configuration (R275, R406). -/
def State.rtmPorts (s : State) : List Nat :=
  let p := s.fld mapRingRtmPair 0
  if 2 * p + 1 < Config.fports s.conf then [2 * p, 2 * p + 1] else []

/-- The port at the other side of the retimer, while it forwards: from a warm reset to RTM_RELEASE; in Lockdown every port is dark (R275,
R361, Table 13.2). -/
def State.retimed (s : State) (n : Nat) : Option Nat :=
  if s.flag mapRingRtmActive 0 && s.security != secLockdown && s.rtmPorts.contains n then some (n ^^^ 1) else none

/-- Set or clear FLn in MAP.STATUS.DOWN_PORTS; a bit that sets raises LINK (Table 15.8). -/
def State.setDown (s : State) (n : Nat) (b : Bool) : State :=
  let d := s.fld mapStatusDownPorts 0
  if b = d.testBit n then s
  else
    let s := s.setFld mapStatusDownPorts 0 (d ^^^ 2 ^ n)
    if b then s.irq mgtIrqPendLink else s

/-- Port n starts bring-up from stage 1 (R272); in Lockdown, beyond the configuration and while the retimer forwards it, it stays dark. -/
def State.bringUp (s : State) (n : Nat) : State :=
  if Config.fports s.conf ≤ n ∨ s.security = secLockdown ∨ (s.retimed n).isSome then s
  else
    let s := s.modPort n fun p => { stage := 1, dark := false, inject := p.inject }
    (s.setDown n false).setFld furLinkState n (if s.loopsBack n then linkLoopback else linkTraining)

/-- Port n is FAILED with a cause. -/
def State.portFails (s : State) (n cause : Nat) : State :=
  ((s.setFld furLinkState n linkFailed).setFld furLinkCause n cause).setDown n true

/-- The port on which this engine's own frames for a rank leave (R253). -/
def State.ownRoute (s : State) (d : Nat) : Option Nat :=
  match s.image with
  | some i => (i.links.routes.find? fun r => r.rank == s.rank && r.inPort.isNone && r.dest == d).map (·.out)
  | none => none

/-- The ranks that hold pieces of descriptor n. -/
def State.descRanks (s : State) (n : Nat) : List Nat :=
  let d := s.desc n
  if d.dist then
    match s.holderAt d.holder with
    | some h => (List.range h.nhold).map fun k => (h.first + k * h.step) % s.chainSize
    | none => []
  else []

/-- The ports that a collective's traffic takes: those of its channels, and the routes to its other parts. -/
def State.collPorts (s : State) (c : Collective) : List Nat :=
  let ch := match s.image with
    | some i => (i.links.channels.filter fun x => x.cut == c.cut && !c.ranges.isEmpty).flatMap fun x => [x.prev, x.next]
    | none => []
  ch ++ c.ranks.filterMap s.ownRoute

/-- The collectives that context c takes part in: those of its REDUCE entries, and those of the layers it updates. -/
def State.ctxColls (s : State) (c : Nat) : List Collective :=
  match s.image with
  | none => []
  | some i =>
    let es := ((i.tiles ++ i.variants.flatMap (·.tiles)).filter fun t => t.ctx == c).flatMap (·.entries)
    let ns := es.filterMap fun w => if entKind w = kReduce then some (reduceColl w) else none
    i.links.collectives.filter fun x => ns.contains x.num ||
      (match x.layer.bind fun l => s.layerRecs[l]? with | some r => r.ctx == c | none => false)

/-- The ports that the routes of context c use (R277): of its distributed descriptors, its collectives, and the tokens that it
sends. -/
def State.ctxPorts (s : State) (c : Nat) : List Nat :=
  match s.image with
  | none => []
  | some i =>
    let es := ((i.tiles ++ i.variants.flatMap (·.tiles)).filter fun t => t.ctx == c).flatMap (·.entries)
    let ds := es.flatMap fun w =>
      if entKind w = kDrain then s.descRanks (drainDst w)
      else if entKind w = kMove then let m := s.moveOf w; s.descRanks m.srcNo ++ s.descRanks m.dstNo ++ (if m.kind = 0 then [] else s.descRanks m.idxNo)
      else []
    let ts := (i.wiring.filter fun w => w.ctx == c).map (·.rank)
    ((ds ++ ts).filterMap s.ownRoute ++ (s.ctxColls c).flatMap s.collPorts).eraseDups

/-- A restore phase is in progress on this engine: SCAN to LOAD. -/
def State.restoring (s : State) : Bool := decide (4 ≤ s.fld snpStatusPhase 0) && decide (s.fld snpStatusPhase 0 ≤ 8) && (s.admState == admHalted || s.admState == admLoaded)

/-- A port fails while the job uses it: LINK_DOWN to every context whose routes use it (R277, log entry 31); in a restore, the head hears
of the loss of the engine behind it (R339). -/
def State.linkDownFault (s : State) (n cause : Nat) : State :=
  let s := s.portFails n cause
  if s.loaded && s.usedPorts.contains n then
    let s := s.setFld mapStatusLinkDown 0 1
    if s.admState = admRunning then (s.usedCtx.filter fun c => (s.ctxPorts c).contains n).foldl (fun s c => s.fixedFault c 6 0 0 n) s
    else if s.restoring then s.post (.bushel 0 (.lost (s.fld furCfgPeerRank n)))
    else s
  else s

/-- A rank whose route leaves on a FAILED port: nothing reaches it any more (R277). -/
def State.cutOff (s : State) (d : Nat) : Bool := match s.ownRoute d with | some n => s.linkState n == linkFailed | none => false

/-- The cause that a hello's disagreement gives: the first of R273 in its order. -/
def helloCause (s : State) (n : Nat) (r : PortRec) (h : Hello) : Option Nat :=
  if h.light ≠ r.light then some 4
  else if h.tier ≠ r.tier then some 5
  else if h.chainId ≠ s.fld mapChainChainId 0 ∨ h.imageId ≠ s.fld cfgImgidImageId 0 then some 7
  else if h.rank ≠ s.fld furCfgPeerRank n ∨ h.port ≠ s.fld furCfgPeerPort n then some 6
  else none

/-- A port in HELLO that holds the peer's hello compares it (R273): it goes UP or fails. -/
def State.compareHello (s : State) (n : Nat) : State :=
  match s.portRec n, (s.port n).helloIn with
  | some r, some h =>
    if s.linkState n = linkHello then
      let s := s.modPort n fun p => { p with helloIn := none }
      match helloCause s n r h with
      | some c => s.linkDownFault n c
      | none => ((s.modPort n fun p => { p with stage := 5 }).setFld furLinkState n linkUp).setFld furLinkCause n 0
    else s
  | _, _ => s

/-- A port trained through stage 3 sends its hello once an image is loaded that uses it (R273). -/
def State.sendHello (s : State) (n : Nat) : State :=
  match s.portRec n with
  | none => s
  | some p =>
    if (s.port n).stage = 4 ∧ s.linkState n = linkAligned then
      let h : Hello := ⟨s.fld mapChainChainId 0, s.rank, n, p.tier, p.light, s.fld cfgImgidImageId 0⟩
      ((s.setFld furLinkState n linkHello).post (.linkHello n h)).compareHello n
    else s

/-- In DISPATCHING, the ready report goes to the head once every used port is UP (R302). -/
def State.trySendReady (s : State) : State :=
  if s.admState = admDispatching ∧ s.chain.readySent = false ∧ s.usedPorts.all (fun n => s.linkState n == linkUp) = true then
    let step := (s.fld cfgDispatchStep 0 + 2 ^ 32 - 1) % 2 ^ 32
    let r : StepReport := ⟨s.rank, step, true, none, [], none, s.chain.probeAsk⟩
    ({ s with chain := { s.chain with readySent := true, probeAsk := false } } : State).post (.report r)
  else s

end Sys2Proof.Machine
end

