-- ==== Sys2Proof/Machine/ScaleOps.lean ====
section
/-!
DEFINITION. Sys2Proof/Machine/ScaleOps.lean: the scale tracker (06): measurements, the fold, the choice of SE and RX, counters at
the boundary, probe requests, scale records.
-/
namespace Sys2Proof.Machine

/-- KIND of a tracker entry (Table 6.2). -/
abbrev kindAct : Nat := 0
abbrev kindAgrad : Nat := 1
abbrev kindWgrad : Nat := 2
abbrev kindWeight : Nat := 3
abbrev kindState : Nat := 4

/-! ## Measurement (R162 to R164, R111) -/

/-- A measurement: the largest finite magnitude as bits [30:0], NF. -/
structure Amax where
  amax : Nat := 0
  nf : Bool := false
deriving DecidableEq, Repr

/-- Fold a value into a measurement (R163). -/
def Amax.take (m : Amax) (v : Val) : Amax :=
  if valIsFinite v then { m with amax := max m.amax ((toF32 (valAbs v)).toNat % 2 ^ 31) } else { m with nf := true }

/-- Fold a binary32 value. -/
def Amax.takeF (m : Amax) (x : F32) : Amax :=
  if fFinite x then { m with amax := max m.amax (x.toNat % 2 ^ 31) } else { m with nf := true }

/-- Fold a measurement into a pending one. -/
def Pend.fold (p : Pend) (m : Amax) : Pend := { amax := max p.amax m.amax, nf := p.nf || m.nf, none := false }

/-- A measurement of the current step; a WGRAD tensor's is that of the last accepted micro-batch (R111). -/
def Track.measure (e : Track) (m : Amax) (mb : Option Nat) : Track :=
  match mb with
  | some k =>
    if e.stat.kind = kindWgrad then
      if k < e.measMb then e
      else if e.measMb < k then { e with pend := ({} : Pend).fold m, measMb := k }
      else { e with pend := e.pend.fold m }
    else { e with pend := e.pend.fold m }
  | none => { e with pend := e.pend.fold m }

/-- Fold a measurement of the current step into a tensor; a tensor that the image does not declare is not measured (R160). -/
def State.measure (s : State) (tnum : Nat) (m : Amax) (mb : Option Nat) : State :=
  { s with trk := s.trk.map fun e => if e.stat.tnum = tnum ∧ e.used = true then e.measure m mb else e }

/-- The step that FX traffic is attributed against; before the first epoch token, the one before the dispatched step. -/
def State.curStep (s : State) : Nat :=
  if s.admState = admDispatching then (s.fld cfgDispatchStep 0 + 2 ^ 32 - 1) % 2 ^ 32 else s.epoch.toNat

/-- A measurement that FX attributes to a step (R25, R164): the current one, the next one, or discarded as late. While the engine
is DISPATCHING no step is open: the dispatched step is the next one, and every other is late. -/
def State.measureFx (s : State) (tnum : Nat) (m : Amax) (step : Nat) : State :=
  let cur := s.curStep
  if step = cur ∧ s.admState ≠ admDispatching then s.measure tnum m none
  else if step = (cur + 1) % 2 ^ 32 then
    { s with trk := s.trk.map fun e => if e.stat.tnum = tnum ∧ e.used = true then { e with next := e.next.fold m } else e }
  else if s.trk.any fun e => e.stat.tnum == tnum && e.used then
    (s.setFld sclStatusLate 0 1).logEv 0x0303 5 0 (tnum + 2 ^ 14 * step)
  else s

/-! ## The Peck and the choice (R166 to R170) -/

/-- The Peck entry at age a (0 newest). -/
def Track.age (e : Track) (a : Nat) : BitVec 32 := e.peck.getD ((e.head + 16 - a % 16) % 16) peckEmpty

/-- The window maximum H: bits [30:0] of the largest valid entry of the WINDOW newest (R167); a WEIGHT tensor's WINDOW reads as 1
(R170). -/
def Track.windowMax (e : Track) : Option Nat :=
  (List.range (if e.stat.kind = kindWeight then 1 else min 16 (max 1 e.stat.window))).foldl (fun m a =>
    let x := (e.age a).toNat % 2 ^ 31
    if x = 0x7FFFFFFF then m else match m with | none => some x | some y => some (max x y)) none

/-- ef of the formats that carry SE (Table 6.3). -/
def efOf (format : Nat) : Option Int :=
  if format = fmtF8AC then some 8 else if format = fmtF8BC then some 15 else if format = fmtG16C then some 31 else none

/-- Whether SE applies to a tensor (R161). -/
def Track.scaled (e : Track) : Bool := (efOf e.stat.format).isSome && e.stat.kind != kindState

/-- Limit to a range. -/
def clampInt (lo hi x : Int) : Int := max lo (min hi x)

/-- The SE of a magnitude h > 0 and whether it was clamped (R168). -/
def seFor (h : Nat) (ef : Int) (margin : Nat) : Int × Bool :=
  let x := floorLog2 (decodeS32 h) - ef + 1 + margin
  (clampInt (-127) 127 x, decide (x < -127) || decide (127 < x))

/-- The choice of SE from a magnitude, and whether it was clamped; none is made of 0, of an unscaled format or of a STATE tensor
(R161, R168, R170). -/
def Track.choice (e : Track) (h : Nat) : Option (Int × Bool) :=
  match efOf e.stat.format with
  | none => none
  | some ef => if h = 0 ∨ e.stat.kind = kindState then none else some (seFor h ef e.stat.margin)

/-- Choose SE from a magnitude; where no choice is made the stored SE stays, after a probe too (R168, R170; DESIGN CHOICE, log entry 153). -/
def Track.chooseFrom (e : Track) (h : Nat) : Track :=
  match e.choice h with
  | none => e
  | some c => { e with se := c.1, clamp := c.2 }

/-- The Peck word of a measurement. -/
def peckWord (m : Pend) : BitVec 32 := BitVec.ofNat 32 (m.amax % 2 ^ 31 + (if m.nf then 2 ^ 31 else 0))

/-- The fold of a measurement; at the close of a probe an empty Peck takes it into all 16 positions (R166, R181). The
measurements held for the next step become pending (R163, log entry 33). -/
def Track.fold (e : Track) (m : Pend) (probe : Bool) : Track :=
  let e' := { e with pend := e.next, next := {}, measMb := 0 }
  if m.none then e'
  else
    let h := (e.head + 1) % 16
    { e' with
      head := h
      peck := if probe && e.valid == 0 then List.replicate 16 (peckWord m) else e.peck.set h (peckWord m)
      holdInit := false }

/-- The counters of the closing step (R172) and the spill flag (R173). -/
def Track.close (e : Track) : Track :=
  { e with
    ovfLast := e.ovf, unfLast := e.unf, spillLast := e.spill, ovf := 0, unf := 0, spill := 0
    flagged := e.flagged || decide (e.stat.spillLimit < e.spill) }

/-- The kinds with delayed scaling. -/
def Track.delayed (e : Track) : Bool := e.used && decide (e.stat.kind ≤ 2)

/-- Whether an entry requires a probe (R180), one that no tile names among them; one that INVAL emptied requires it at the next boundary, whatever that folds
(R182). -/
def Track.wantsProbe (e : Track) : Bool := decide (e.stat.kind ≤ 2) && (e.inval || (e.windowMax.isNone && !e.holdInit))

/-- RX from the window maximum of the WGRAD tensor (R175). -/
def Track.rxNext (e : Track) (h : Option Nat) : Int :=
  if !e.stat.rxTracked then e.stat.rxInit
  else match h with
  | none => e.rx
  | some h => if h = 0 then e.rx else clampInt (-64) 63 (e.stat.rt - floorLog2 (decodeS32 h))

/-! ## The boundary -/

/-- Whether an entry requires a probe, as a boundary or a dispatch finds it: PROBE_REQ, and the request for the next report (R180).
What INVAL required is then raised (R182). -/
def State.setProbeReq (s : State) : State :=
  let b := s.trk.any Track.wantsProbe
  let s : State := { s with
    trk := s.trk.map fun e => { e with inval := false }
    chain := { s.chain with probeAsk := b } }
  if s.flag sclStatusProbeReq 0 = b then s
  else
    let s := s.setFlag sclStatusProbeReq 0 b
    if b then s.irq mgtIrqPendScale else s

/-- Counters into LAST, the flags of SCL.STATUS, OUTLIER_SPILL (R172, R173). -/
def State.closeCounters (s : State) : State :=
  let s := s.trk.foldl (fun s e =>
    let s := if 0 < e.ovf then s.setFld sclStatusOvfAny 0 1 else s
    let s := if 0 < e.unf then s.setFld sclStatusUnfAny 0 1 else s
    let s := if 0 < e.spill then s.setFld sclStatusSpillAny 0 1 else s
    if e.stat.spillLimit < e.spill then
      (s.setOnce sclStatusFlaggedAny 0 mgtIrqPendScale).logEv 0x0104 5 0 (e.stat.layer + 2 ^ 12 * e.stat.tnum + 2 ^ 26 * e.spill)
    else s) s
  { s with trk := s.trk.map Track.close }

/-- What an entry folds: its own measurement, or the Chain's (R165). -/
def foldMeas (e : Track) (meas : List Meas) : Pend :=
  if e.stat.chain then
    match meas.find? fun m => m.tnum == e.stat.tnum with
    | some m => ⟨m.amax, m.nf, m.none⟩
    | none => e.pend
  else e.pend

/-- The SE a WEIGHT tensor's layer sent in the closing step (R170). -/
def State.sentSe (s : State) (tnum : Nat) : Option Int :=
  if s.probe then none
  else ((s.layerRecs.zip s.upd.layers).find? fun p => p.1.wt == tnum && p.2.emitted).map fun p => p.2.seSent

/-- First and second action of R31: fold every measurement, choose every scale (R166 to R170, R175, R180). -/
def State.foldAndChoose (s : State) (meas : List Meas) (applied : Bool) : State :=
  let probe := s.probe
  let nf := s.trk.any fun e => let m := foldMeas e meas; m.nf && !m.none
  let filled := s.trk.filter fun e => e.valid == 0 && !(foldMeas e meas).none
  let s0 := s.closeCounters
  let folded := s0.trk.map fun e => ({ e.fold (foldMeas e meas) probe with sePrev := e.seIn probe } : Track)
  let from' := fun (e : Track) =>
    if e.delayed then e.windowMax
    else if e.stat.kind == kindWeight && (s.sentSe e.stat.tnum).isNone && probe && filled.any fun x => x.stat.tnum == e.stat.tnum then
      e.windowMax
    else none
  let chosen := folded.map fun e =>
    match from' e with
    | some h => e.chooseFrom h
    | none => (match s.sentSe e.stat.tnum with | some se => { e with se := se } | none => e)
  let ranged := chosen.map fun e =>
    if e.stat.kind = kindWeight then
      { e with
        rxPrev := if applied then e.rx else e.rxPrev
        rx := e.rxNext (((folded.find? fun g => g.stat.tnum == e.stat.gt).map Track.windowMax).getD none) }
    else e
  let clamped := folded.any fun e => match (from' e).bind e.choice with | some c => c.2 | none => false
  let s := { s0 with trk := ranged }
  let s := if nf then s.setFld sclStatusNfAny 0 1 else s
  let s := if clamped then s.setFld sclStatusClampAny 0 1 else s
  s.setProbeReq

/-- Scale records and scales-ready on FX outbound (R171): of each ACT and AGRAD tensor whose SE in the step that opens, a probe or not,
differs from `old`, or of every one; the token carries the new step. -/
def State.sendScales (s : State) (old : Option (List (Nat × Int))) (probe : Bool) (step : Nat) : State :=
  let es := s.trk.filter fun e => e.used && decide (e.stat.kind ≤ 1) && e.scaled
  let ch := es.filter fun e => match old with
    | none => true
    | some l => (l.find? fun p => p.1 == e.stat.tnum).map (·.2) != some (e.seIn probe)
  s.fxSend ((ch.map fun e => FxOut.scale e.stat.tnum (e.seIn probe)) ++ [.scalesReady step])

/-- The SE of every entry as the step uses it. -/
def State.scaleTable (s : State) : List (Nat × Int) := s.trk.map fun e => (e.stat.tnum, e.seIn s.probe)

/-- SE at the first dispatch (R179); a Peck that was emptied or restored has no initial SE to return to. -/
def Track.initial (e : Track) : Track :=
  if e.delayed && e.valid == 0 && e.stat.initValid && !e.noInit then
    { e with se := if e.scaled then clampInt (-127) 127 e.stat.initSe else e.se, holdInit := true }
  else e

/-- In a probe step, tensors with an empty Peck run at SE 0 unless they hold their initial SE (R181). -/
def Track.forStep (e : Track) (probe : Bool) : Track := { e with zeroed := probe && e.valid == 0 && !e.holdInit }

/-- An entry at a dispatch: no measurement and no count of an earlier run is left (log entry 64). -/
def Track.atDispatch (e : Track) : Track :=
  { e.initial with pend := {}, next := {}, measMb := 0, ovf := 0, unf := 0, spill := 0, zeroed := false }

/-- The tracker entry of a record: its Peck is empty, RX is RX_INIT (R160, R166, R175, R440). -/
def trackNew (r : TrackRec) : Track := { stat := r, rx := r.rxInit, rxPrev := r.rxInit }

/-- A changed entry keeps its Peck, and a changed FORMAT chooses SE again (R174): the entry and whether the choice was clamped. -/
def Track.changed (e : Track) (r : TrackRec) (variant : Nat) : Track × Bool :=
  let e' := { e with stat := r, used := true, variant := variant }
  if e.stat.format = r.format then (e', false)
  else if !e'.scaled then ({ e' with se := 0 }, false)
  else match e'.windowMax.bind fun h => (e'.choice h).map fun c => (h, c) with
    | some (h, c) => (e'.chooseFrom h, c.2)
    | none => (e', false)

/-- An entry that a committed variant brings (R440), or a changed one (R174, R191). -/
def State.variantTrack (s : State) (r : TrackRec) (variant : Nat) : State :=
  if s.trk.any fun e => e.stat.tnum == r.tnum then
    let clamped := s.trk.any fun e => e.stat.tnum == r.tnum && (e.changed r variant).2
    let s : State := { s with trk := s.trk.map fun e => if e.stat.tnum = r.tnum then (e.changed r variant).1 else e }
    if clamped then s.setFld sclStatusClampAny 0 1 else s
  else
    let e := { trackNew r with variant := variant, holdInit := true }
    { s with trk := s.trk ++ [{ e with se := if e.scaled && r.initValid then clampInt (-127) 127 r.initSe else 0 }] }

/-- Empty a Peck: the entry has no initial SE to return to (R179, R182), though no dispatch has begun yet (DESIGN CHOICE, log entry 154). -/
def Track.empty (e : Track) : Track := { e with peck := List.replicate 16 peckEmpty, holdInit := false, noInit := true }

/-- Tensor numbers of the entries with FLAGGED set, those that no tile names included (R192, R440). -/
def State.flaggedTracks (s : State) : List Nat := (s.trk.filter (·.flagged)).map (·.stat.tnum)

end Sys2Proof.Machine
end

