-- ==== Sys2Proof/Machine/Admission.lean ====
section
/-!
DEFINITION. Sys2Proof/Machine/Admission.lean: the admission check, dispatch and unload (10 sections 10.1, 10.2, 10.5, 10.6).
-/
namespace Sys2Proof.Machine

/-- A failed condition: refusal code, section type, entry (R299). -/
structure Fail where
  code : Nat
  sect : Nat
  index : Nat
deriving DecidableEq, Repr

/-- One failure when a condition holds. -/
def failIf (b : Bool) (code sect index : Nat) : List Fail := if b then [⟨code, sect, index⟩] else []

/-- REFUSE_DIGEST (Table 10.7); an image of which a unit could not be read is refused so (log entry 137). -/
def State.digestFails (s : State) (i : Image) : List Fail :=
  let b := i.bytes
  let h := headerOf b
  let off := 4096 * s.fld cfgImageOffset 0
  let big := decide (268435456 < h.bytes) || decide (2 ^ 26 * s.fld cfgRegionSize 0 < off + h.bytes)
  let badN := decide (h.nsect < 1) || decide (32 < h.nsect)
  let ss := if badN then [] else sectionsOf b h.nsect
  let required := [1, 2, 3, 4, 5, 6, 8, 10, 14]
  let table := (indexed ss).any fun p =>
    let (t, o, l) := p.1
    decide (t < 1) || decide (14 < t) || decide (o % 64 ≠ 0) || decide (h.bytes < o + l) ||
      (indexed ss).any fun q => decide (q.2 < p.2) && (q.1.1 == t || (decide (q.1.2.1 < o + l) && decide (o < q.1.2.1 + q.1.2.2)))
  let missing := required.any fun t => !ss.any fun x => x.1 == t
  let digest := decide (sha384 (b.take 64 ++ (b.drop 128).take (h.bytes - 128)) ≠ (b.drop 64).take 48)
  failIf (s.imgBad || decide (h.magic ≠ 0x47465A45) || decide (h.version ≠ 1) || big || badN || table || (!badN && missing) || digest) 10 0 0

/-! ## Header and LINKS (R241, R245, R253, R258, R291) -/

/-- REFUSE_LINKS and REFUSE_FEED of the header. -/
def State.headerFails (s : State) (i : Image) : List Fail :=
  let h := headerOf i.bytes
  failIf (decide ((h.ndM1 + 1) * (h.nsM1 + 1) * (h.nmM1 + 1) ≠ h.sizeM1 + 1) || decide (h.sizeM1 + 1 ≤ h.rank)) 7 0 0 ++
  failIf (decide (h.feed ≠ s.fld idStrapFeedId 0)) 8 0 0

/-- Where a frame goes from an engine's port: the receive buffer (rank, port) at the other end of the wire. -/
def linksNext (l : Links) (rank port : Nat) : Option (Nat × Nat) :=
  (l.wires.find? fun w => w.rank == rank && w.port == port).map fun w => (w.peerRank, w.peerPort)

/-- Whether frames for `dest` that leave an engine on a port reach it within n hops (R253). -/
def linksReach (l : Links) (dest : Nat) : Nat → Nat → Nat → Bool
  | 0, _, _ => false
  | n + 1, rank, port =>
    match linksNext l rank port with
    | none => false
    | some b =>
      b.1 == dest ||
        match l.routes.find? fun r => r.rank == b.1 && r.inPort == some b.2 && r.dest == dest with
        | some r => linksReach l dest n b.1 r.out
        | none => false

/-- The buffer dependencies of the routes: a frame in one receive buffer waits for room in the next. They are the same on every VC. -/
def linksDeps (l : Links) : List ((Nat × Nat) × (Nat × Nat)) :=
  l.routes.filterMap fun r => match r.inPort, linksNext l r.rank r.out with
    | some p, some b => if r.rank = r.dest then none else some ((r.rank, p), b)
    | _, _ => none

/-- The dependencies along a channel's ring. -/
def ringDeps (ring : List (Nat × Nat)) : List ((Nat × Nat) × (Nat × Nat)) := ring.zip (ring.tail ++ ring.take 1)

/-- Whether a path of dependencies that begins at a buffer closes to a cycle that no ring holds whole. -/
def badCycle (l : Links) (start : Nat × Nat) : Nat → (Nat × Nat) → List (Nat × Nat) → List ((Nat × Nat) × (Nat × Nat)) → Bool
  | 0, _, _, _ => false
  | n + 1, cur, seen, path =>
    (linksDeps l).any fun d => d.1 == cur &&
      if d.2 = start then !l.rings.any fun r => (d :: path).all (ringDeps r).contains
      else !seen.contains d.2 && badCycle l start n d.2 (d.2 :: seen) (d :: path)

/-- The routes of the Chain break R253: one does not reach its destination within 16 hops, or their dependencies form a cycle that does
not run along one ring. -/
def routesBad (l : Links) : Bool :=
  (l.routes.any fun r => r.rank != r.dest && !linksReach l r.dest 16 r.rank r.out) ||
    (linksDeps l).any fun d => badCycle l d.1 ((linksDeps l).length + 1) d.1 [d.1] []

/-- The links that the check walks: of this engine the port tables by which it forwards and the peers that they name, of the others what
LINKS holds (R253, log entry 8). -/
def walkLinks (l : Links) (rank : Nat) : Links :=
  { l with
    wires := l.wires.filter (fun w => w.rank != rank) ++ l.ports.map fun p => ⟨rank, p.port, p.peerRank, p.peerPort⟩
    routes := l.routes.filter (fun r => r.rank != rank || r.inPort.isNone) ++
      l.ports.flatMap fun p => p.routes.filterMap fun r => r.2.map fun o => ⟨rank, some p.port, r.1, o⟩ }

/-- A port's route table names an outbound port for every DEST of the Chain but this engine's own, which it marks as local (R253). -/
def routesWhole (p : PortRec) (size rank : Nat) : Bool :=
  (List.range size).all fun d => match p.routes.find? fun r => r.1 == d with
    | some r => r.2.isNone == (d == rank)
    | none => false

/-- REFUSE_LINKS, REFUSE_SLOTS and descriptor indices of LINKS. Table 0.3 refuses an image that names a stack port beyond the
configuration; no field of a section names one, so that no image is refused for it (log entry 119). -/
def State.linksFails (s : State) (i : Image) : List Fail :=
  let l := i.links
  let used := l.ports.map (·.port)
  let h := headerOf i.bytes
  (indexed l.ports).flatMap (fun p =>
    failIf (decide (Config.fports s.conf ≤ p.1.port) || (p.1.light && decide (p.1.tier ≠ 0)) ||
      !routesWhole p.1 (h.sizeM1 + 1) h.rank || p.1.routes.any fun r => match r.2 with | some o => !used.contains o | none => false)
      7 8 p.2) ++
  failIf (routesBad (walkLinks l h.rank) || l.routes.any fun r => r.rank == h.rank && !used.contains r.out) 7 8 0 ++
  failIf (l.channels.any fun c => !used.contains c.prev || !used.contains c.next) 7 8 0 ++
  (indexed l.collectives).flatMap (fun c =>
    failIf (decide (i.descs.length ≤ c.1.src) || decide (i.descs.length ≤ c.1.dst)) 9 8 (l.ports.length + c.2)) ++
  (indexed l.groups).flatMap fun g =>
    let n := g.1.foldl (fun n k => n + ((l.collectives.find? fun c => c.num == k).map (·.slots)).getD 0) 0
    failIf (decide (Config.slots s.conf < n)) 6 8 (l.ports.length + l.collectives.length + g.2)

/-! ## STRUCT (R284, R286) -/

/-- Whether two panels may overlap: one owner, or a both-sides panel with one of its sides. -/
def mayOverlap (a b : Owner) : Bool :=
  a == b || (a == .both && (b == .sideA || b == .sideB)) || (b == .both && (a == .sideA || a == .sideB))

/-- Last line of a panel plus 1. -/
def panelEnd (p : PanelRec) : Nat := p.base + p.rows * p.g32

/-- STRUCT: cores, contexts, panels; its entries are numbered in this order. -/
def State.structFails (s : State) (i : Image) : List Fail :=
  let nc := i.cores.length
  let np := nc + i.contexts.length
  let bad := fun (c : Option Nat) => match c with | some c => decide (Config.ctx s.conf ≤ c) | none => false
  (indexed i.cores).flatMap (fun r =>
    failIf (decide (Config.cores s.conf ≤ r.1.core) || bad r.1.ctxA || bad r.1.ctxB || (!r.1.split && r.1.ctxB.isSome) ||
      (indexed i.cores).any fun q => decide (q.2 < r.2) && q.1.core == r.1.core) 1 1 r.2) ++
  (indexed i.contexts).flatMap (fun c => failIf (decide (Config.ctx s.conf ≤ c.1.ctx)) 1 1 (nc + c.2)) ++
  (indexed i.panels).flatMap fun p =>
    let earlier := (indexed i.panels).filter fun q => decide (q.2 < p.2) && q.1.core == p.1.core
    failIf (decide (Config.cores s.conf ≤ p.1.core)) 1 1 (np + p.2) ++
    failIf (decide (1536 < panelEnd p.1) || decide (255 ≤ earlier.length)) 2 1 (np + p.2) ++
    failIf (earlier.any fun q => decide (p.1.base < panelEnd q.1) && decide (q.1.base < panelEnd p.1) && !mayOverlap p.1.owner q.1.owner)
      5 1 (np + p.2)

/-! ## TOKENS (R10, R293, R296) -/

/-- Whether an entry of context c raises token t. -/
def entryRaises (i : Image) (c t : Nat) : Bool :=
  (allQueues i).any fun q => q.1.ctx == c && q.1.entries.any fun w => entRaiseEn w && entRaiseTok w == t

/-- TOKENS and the waits of every entry. -/
def State.tokenFails (s : State) (i : Image) : List Fail :=
  let size := (headerOf i.bytes).sizeM1 + 1
  (indexed i.tokens).flatMap (fun t =>
    failIf (decide (Config.ctx s.conf ≤ t.1.ctx)) 1 2 t.2 ++ failIf (decide (4096 ≤ t.1.tok)) 4 2 t.2) ++
  (indexed i.wiring).flatMap (fun w =>
    failIf (decide (Config.ctx s.conf ≤ w.1.ctx)) 1 2 (i.tokens.length + w.2) ++
    failIf (decide (size ≤ w.1.rank) || decide (64 ≤ w.1.toCtx) || decide (4096 ≤ w.1.toTok)) 4 2 (i.tokens.length + w.2)) ++
  (allQueues i).flatMap fun q => (indexed q.1.entries).flatMap fun e =>
    if entWaitCnt e.1 = 0 then []
    else
      let ok := i.tokens.any fun d => d.ctx == q.1.ctx && d.tok == entWaitTok e.1 &&
        (d.source != .entry || entryRaises i d.ctx d.tok)
      failIf (!ok) 4 q.2.1 (q.2.2 + e.2)

/-! ## TILES (R27, R33, R72, R80, R82, R100, R106, R114, R118, R142, R144, R285, R287, R291) -/

/-- A tile being built while a queue is read: its FIRST pass and what its passes name. -/
structure OpenTile where
  acc : Nat
  first : PassF
  count : Nat
  rows : Nat
  cols : Nat
  done : Bool
deriving DecidableEq, Repr

/-- U(P) of R100: ceil(log2 P) - 4. -/
def upperLevels (p : Nat) : Nat := (if p ≤ 1 then 0 else Nat.log2 (p - 1) + 1) - 4

/-- Spill demand of a tile (R100); an integer tile uses none. -/
def spillDemand (t : OpenTile) : Nat := if 1 < t.first.rate then 0 else t.rows * t.cols * upperLevels t.count

/-- A format of the set floating-point formats a scatter with add may pair (R144). -/
def addFmt (f : Nat) : Bool := convFormat f

/-- The operand conditions of a pass: format, orientation, integer rate, panel. -/
def State.operandFails (i : Image) (k side rate fmt n : Nat) (orient sidelist : Bool) (panel sect idx : Nat) : List Fail :=
  let p := i.panels.find? fun p => p.core == k && p.panel == panel
  let owned := match p with
    | none => false
    | some p => (side == 0 && p.owner == .whole) || (side == 1 && (p.owner == .sideA || p.owner == .both)) ||
        (side == 2 && (p.owner == .sideB || p.owner == .both))
  let comp := match p with | some p => fmt == fmtBQn && p.companion == 255 | none => false
  failIf (decide (5 < fmt) || (fmt == fmtBQn && orient) ||
    (decide (1 < rate) && (fmt != fmtBQn || decide ((if rate = 2 then 8 else 4) < n) || sidelist))) 9 sect idx ++
  failIf (!owned || comp) 2 sect idx

/-- What the reading of one queue carries along: failures, open tiles, prepared destinations. -/
structure QueueRead where
  fails : List Fail
  opens : List OpenTile
  prep : List Nat
deriving DecidableEq, Repr

/-- The conditions of one entry. The IDX of a copy is not used, and an index that lies beyond DESC there is not refused (R131, log entry
129). -/
def State.entryFails (s : State) (i : Image) (q : TileQueue) (sect : Nat) (r : QueueRead) (w : BitVec 512) (idx : Nat) : QueueRead :=
  let k := entKind w
  let nd := i.descs.length
  let d := fun n => descOf (i.descs.getD n 0)
  let sideBad :=
    match (if q.queue = 0 then none else (ctxSides i q.ctx)[q.queue - 1]?) with
    | none => true
    | some (core, b) =>
      let split := ((coreRecOf i core).map (·.split)).getD false
      decide (entCore w ≠ core) || decide (entSide w ≠ (if split then (if b then 2 else 1) else 0)) ||
        decide (Config.cores s.conf ≤ core)
  let add := fun f => { r with fails := r.fails ++ f }
  if 7 < k then add [⟨9, sect, idx⟩]
  else if (k = kPass ∨ k = kDrain) ∧ entSide w = 3 then add [⟨9, sect, idx⟩]
  else if k = kPass then
    let p := passOf w
    let core := entCore w
    let fs := failIf sideBad 1 sect idx ++ failIf (decide (p.rate = 8)) 9 sect idx ++
      State.operandFails i core (entSide w) p.rate p.sFmt p.sN p.sOrient p.sSide p.sPanel sect idx ++
      State.operandFails i core (entSide w) p.rate p.tFmt p.tN p.tOrient p.tSide p.tPanel sect idx
    let acc := entTile w
    let cur := r.opens.find? fun t => t.acc == acc
    let reused := p.first && cur.isSome
    let opens := if p.first then ⟨acc, p, 0, 0, 0, false⟩ :: r.opens.filter fun t => t.acc != acc else r.opens
    match opens.find? fun t => t.acc == acc && !t.done with
    | none => { r with fails := r.fails ++ fs ++ failIf reused 5 sect idx, opens := opens }
    | some t =>
      let t' := { t with count := t.count + 1, rows := max t.rows p.rows, cols := max t.cols p.cols, done := p.last }
      let slots := if entSide w = 0 then 8192 else 4096
      let fs := fs ++ failIf reused 5 sect idx ++
        failIf (decide (1 < t.first.rate) && (decide (p.ea ≠ t.first.ea) || decide (p.eb ≠ t.first.eb))) 9 sect idx ++
        failIf (p.last && (decide (65536 < t'.count) || decide (slots < spillDemand t'))) 2 sect idx
      { r with fails := r.fails ++ fs, opens := t' :: opens.filter fun x => x.acc != acc }
  else if k = kDrain then
    let acc := entTile w
    let dst := drainDst w
    let r := { r with fails := r.fails ++ failIf sideBad 1 sect idx ++ failIf (decide (nd ≤ dst)) 9 sect idx }
    match r.opens.find? fun t => t.acc == acc with
    | none => r
    | some t =>
      let f := (d dst).format
      let adds := t.first.accAdd || t.first.accStep
      let fmtOk := if 1 < t.first.rate then f == fmtI32C || f == fmtS32C || f == fmtG16C
        else f == fmtS32C || f == fmtG16C || f == fmtH16C || f == fmtB16C
      let fs := if nd ≤ dst then [] else
        failIf (!fmtOk || (adds && (f == fmtH16C || f == fmtB16C))) 9 sect idx ++
        failIf (adds && ((d dst).space == 1 || (d dst).space == 2)) 5 sect idx ++
        failIf (t.first.dW && t.first.accAdd && !t.first.accStep && !r.prep.contains dst) 5 sect idx
      { r with
        fails := r.fails ++ fs
        opens := r.opens.filter fun x => x.acc != acc
        prep := if !t.first.accAdd || t.first.accStep then dst :: r.prep else r.prep }
  else if k = kMove then
    let m := s.moveOf w
    let idxNo := bitsOf w 106 20
    let src := d m.srcNo
    let dst := d m.dstNo
    let bad := decide (m.kind = 3) || decide (nd ≤ m.srcNo) || decide (nd ≤ m.dstNo) ||
      (decide (m.kind ≠ 0) && (decide (nd ≤ idxNo) || decide (4 < m.gdim)))
    let sadd := decide (m.kind = 2) && m.add
    let pairOk := (addFmt src.format && addFmt dst.format && dst.format != fmtH16C && dst.format != fmtB16C) ||
      (src.format == fmtI32C && dst.format == fmtI32C)
    add (failIf (bad || (sadd && !pairOk)) 9 sect idx ++
      failIf (!bad && sadd && !m.arrival && dst.dist && !i.links.moveSlots.any fun x => x.1 == m.dstNo) 6 sect idx)
  else if k = kReduce then
    add (failIf (!i.links.collectives.any fun c => c.num == reduceColl w) 7 sect idx)
  else if k = kRecomp then
    let e := ((i.buckets[q.bucket]?).map (·.stash)).getD []
    add (failIf (!e.any fun x => x.entry == recompEntry w && x.place == .recomp && x.ring == recompRing w) 3 sect idx)
  else r

/-- The conditions of every queue; every queue of every bucket and context must be there with its END (R285). -/
def State.tileFails (s : State) (i : Image) : List Fail :=
  let absent := (List.range i.buckets.length).any fun b => i.contexts.any fun c =>
    (List.range (ctxQueues i c.ctx)).any fun q => (tilesFind i.tiles b c.ctx q).isNone
  failIf absent 9 3 (i.tiles.foldl (fun n q => n + q.entries.length) 0) ++
  (allQueues i).flatMap fun q =>
    failIf (decide (Config.ctx s.conf ≤ q.1.ctx)) 1 q.2.1 q.2.2 ++
    failIf (!q.1.entries.any fun w => entKind w == kEnd) 9 q.2.1 q.2.2 ++
    ((indexed q.1.entries).foldl (fun r e => s.entryFails i q.1 q.2.1 r e.1 (q.2.2 + e.2)) ⟨[], [], []⟩).fails

/-! ## DESC, BUCKETS, TRACK, OPTIM and the rest -/

/-- DESC: reserved formats (R33). -/
def descFails (i : Image) : List Fail :=
  (indexed i.descs).flatMap fun d => failIf (decide (8 ≤ (descOf d.1).format)) 9 4 d.2

/-- BUCKETS (R195, R198, R202). -/
def State.bucketFails (s : State) (i : Image) : List Fail :=
  let keg := 2 ^ 20 * Config.kegMib s.conf
  let lo := 2 ^ 26 * s.fld cfgRegionBase 3
  let hi := lo + 2 ^ 26 * s.fld cfgRegionSize 3
  failIf (decide (16 < i.buckets.length)) 2 5 16 ++
  (indexed i.buckets).flatMap fun b =>
    let k := b.1
    let kegBad := k.stash.any fun e =>
      match e.place with
      | .keg => decide (keg = 0) || decide (keg < e.addr + (k.nsetKeg - 1) * k.kegStride + e.bytes)
      | .recomp => decide (keg = 0)
      | .hogs => (List.range k.nsetHogs).any fun n =>
          decide (e.addr + n * k.hogsStride < lo) || decide (hi < e.addr + n * k.hogsStride + e.bytes)
    let seedBad := k.seeds.any fun e =>
      let d := descOf (i.descs.getD e.desc 0)
      decide (i.descs.length ≤ e.desc) || decide (d.format ≠ fmtG16C) || decide (2 < d.space) || decide (d.ext.getD 1 0 ≠ k.len)
    let beyond := fun (p : Pos) => decide (Config.ctx s.conf ≤ p.ctx)
    failIf ((k.stash.any fun e => beyond e.release) || k.seeds.any fun e => beyond e.release) 1 5 b.2 ++
    failIf (decide (k.len < 1) || decide (1048576 < k.len) || seedBad) 9 5 b.2 ++
    failIf (kegBad || k.rings.any fun r => decide (keg < r.base + r.size)) 3 5 b.2

/-- A tracker entry (R33, R160, R178). -/
def trackBad (lean : Bool) (t : TrackRec) : Bool :=
  decide (4 < t.kind) || decide (7 < t.format) ||
    (lean && ((decide (t.kind = kindState ∨ t.kind = kindWgrad) && t.format != fmtG16C) ||
      (t.format == fmtS32C && !(t.kind == kindAct && t.resid))))

/-- TRACK, and the tracker entries of variants. -/
def trackFails (i : Image) : List Fail :=
  (indexed i.track).flatMap (fun t => failIf (trackBad i.lean t.1) 9 6 t.2) ++
  (indexed (i.variants.flatMap (·.track))).flatMap fun t => failIf (trackBad i.lean t.1) 9 11 t.2

/-- Whether ranges of elements leave a gap between the lowest start and the highest end. -/
def slicesGap (l : List Slice) : Bool :=
  let lo := l.foldl (fun m x => min m x.first) ((l.head?.map (·.first)).getD 0)
  let hi := l.foldl (fun m x => max m (x.first + x.count)) 0
  decide (l.foldl (fun n x => n + x.count) 0 < hi - lo)

/-- Whether two slices name one element; a slice of no elements names none. -/
def sliceMeets (a b : Slice) : Bool := decide (max a.first b.first < min (a.first + a.count) (b.first + b.count))

/-- Whether logical index i of a shard stands between groups of 256 elements of dimension 0 (R134, R221): j counts from the shard's
first index, row-major. -/
def onGroup (ext0 first i : Nat) : Bool := decide ((i - first) % max 1 ext0 % 256 = 0)

/-- The state tensors of a layer: master and the moments it uses. -/
def stateTensors (r : LayerRec) : List Nat :=
  [r.tw] ++ (if r.family ≤ 2 then [r.tm] else []) ++ (if r.family = 0 then [r.tv] else [])

/-- OPTIM (R220, R221). -/
def State.optimFails (s : State) (i : Image) : List Fail :=
  match i.optim with
  | none => []
  | some o =>
    let kind := fun t => ((i.track.find? fun e => e.tnum == t).map (·.kind)).getD 5
    let tfmt := fun t => ((i.track.find? fun e => e.tnum == t).map (·.format)).getD 15
    let nd := i.descs.length
    let dfmt := fun n => (descOf (i.descs.getD n 0)).format
    let want := if i.lean then fmtG16C else fmtS32C
    failIf (!o.layers.isEmpty && o.lr.isEmpty) 9 7 0 ++
    (indexed o.layers).flatMap fun p =>
      let r := p.1
      let useM := decide (r.family ≤ 2)
      let useV := decide (r.family = 0)
      let fmtBad := decide (3 < r.family) || decide (2 < r.decay) || (r.bias && decide (r.family ≠ 0)) ||
        decide (kind r.wt ≠ kindWeight) || decide (2 < tfmt r.wt) || decide (kind r.tw ≠ kindState) ||
        (useM && decide (kind r.tm ≠ kindState)) || (useV && decide (kind r.tv ≠ kindState)) ||
        decide (nd ≤ r.dg) || decide (nd ≤ r.dw) || (useM && decide (nd ≤ r.dm)) || (useV && decide (nd ≤ r.dv)) || decide (nd ≤ r.dn) ||
        !convFormat (dfmt r.dg) || decide (dfmt r.dw ≠ want) || (useM && decide (dfmt r.dm ≠ want)) ||
        (useV && decide (dfmt r.dv ≠ want)) || decide (dfmt r.dn ≠ tfmt r.wt) ||
        (decide (tfmt r.wt = fmtBQn) && r.slices.any fun x =>
          let e := (descOf (i.descs.getD r.dn 0)).ext.getD 0 0
          let f := r.slices.foldl (fun m y => min m y.first) x.first
          !onGroup e f x.first || !onGroup e f (x.first + x.count))
      let own := indexed r.slices
      let aliasBad := slicesGap r.slices ||
        (own.any fun a => own.any fun b => decide (a.2 < b.2) && sliceMeets a.1 b.1) ||
        (indexed o.layers).any fun q => decide (q.2 < p.2) &&
          (stateTensors r).any (fun t => (stateTensors q.1).contains t) && r.slices.any fun a => q.1.slices.any fun b => sliceMeets a b
      failIf fmtBad 9 7 p.2 ++
      failIf ((r.slices.any fun x => decide (Config.units s.conf ≤ x.unit)) || !i.contexts.any fun c => c.ctx == r.ctx) 1 7 p.2 ++
      failIf aliasBad 5 7 p.2

/-- CFG.REGSTAT.OVERLAP: two regions of non-zero size overlap (R217). -/
def State.regOverlap (s : State) : Bool :=
  let r := (List.range 7).map fun i => (s.fld cfgRegionBase i, s.fld cfgRegionSize i)
  (indexed r).any fun a => (indexed r).any fun b =>
    decide (a.2 < b.2) && decide (a.1.2 ≠ 0) && decide (b.1.2 ≠ 0) && decide (a.1.1 < b.1.1 + b.1.2) && decide (b.1.1 < a.1.1 + a.1.2)

/-- CFG.REGSTAT.BEYOND: a region reaches past SPORTS × D. -/
def State.regBeyond (s : State) : Bool :=
  (List.range 7).any fun i =>
    decide (s.fld cfgRegionSize i ≠ 0) && decide (s.dataEnd < 2 ^ 26 * (s.fld cfgRegionBase i + s.fld cfgRegionSize i))

/-- SNP.CFG.CELL_UNITS: the shard, with its 4 MiB control block, over k cells rounded up to 64 KiB (R321). -/
def cellUnits (b : Bushel) : Nat :=
  let k := b.n - 2
  if k = 0 then 0 else ((b.stateBytes + 2 ^ 22) + 65536 * k - 1) / (65536 * k)

/-- Bytes of a Bushel slot: 64 KiB of records and digests, and n cells (Table 11.2). -/
def slotSize (b : Bushel) : Nat := 65536 * (1 + b.n * cellUnits b)

/-- HOLDERS, REGIONS, MODES, RESHARD, BUSHEL, FAULTS. -/
def State.otherFails (s : State) (i : Image) : List Fail :=
  failIf (decide (8192 < i.holders.length)) 2 9 8192 ++
  (indexed i.demand).flatMap (fun d =>
    failIf (decide (d.2 ≠ 3) && decide (2 ^ 26 * s.fld cfgRegionSize d.2 < d.1)) 2 10 d.2) ++
  failIf (s.regOverlap || s.regBeyond) 2 10 0 ++
  (match i.bushel with
    | some b => [4, 5].flatMap fun r => failIf (decide (2 ^ 26 * s.fld cfgRegionSize r < slotSize b)) 2 10 r
    | none => []) ++
  (indexed i.reshard).flatMap (fun p =>
    failIf (p.1.rounds.any fun r => decide (1 < r.sends.length) || decide (1 < r.recvs.length)) 7 12 p.2 ++
    failIf (p.1.rounds.any fun r =>
      let reads := r.sends.map (·.1) ++ r.copies.map (·.1)
      let writes := r.recvs.map (·.2) ++ r.copies.map (·.2)
      reads.any writes.contains) 5 12 p.2) ++
  (match i.bushel with
    | some b => failIf (b.partnerFeed == s.fld idStrapFeedId 0 && !s.flag secPolicySharedFeed 0) 8 13 0
    | none => []) ++
  (indexed i.faults).flatMap fun f =>
    let ok := (f.1.1 == 3 && decide (1 ≤ f.1.2) && decide (f.1.2 ≤ 3)) || ((f.1.1 == 5 || f.1.1 == 7) && (f.1.2 == 1 || f.1.2 == 3))
    failIf (!ok) 9 14 f.2

/-- Every failed condition of Table 10.7. -/
def State.admissionFails (s : State) (i : Image) : List Fail :=
  s.digestFails i ++ s.headerFails i ++ s.structFails i ++ s.tokenFails i ++ s.tileFails i ++ descFails i ++ s.bucketFails i ++
    trackFails i ++ s.optimFails i ++ s.linksFails i ++ s.otherFails i

/-! ## The outcome (R298, R299) -/

/-- The first failing code, and its first failure in the order in which the check visits the image. -/
def firstFail (l : List Fail) : Option Fail :=
  l.foldl (fun (m : Option Fail) f => match m with
    | none => some f
    | some g =>
      if f.code < g.code ∨ (f.code = g.code ∧ (f.sect < g.sect ∨ (f.sect = g.sect ∧ f.index < g.index))) then some f else m) none

/-- CFG.ADMIT.MASK: bit k - 1 for code k. -/
def failMask (l : List Fail) : Nat :=
  (List.range 10).foldl (fun m k => if l.any (fun f => f.code == k + 1) then m + 2 ^ k else m) 0

/-- The management controller reads the image in region 0 over the narrow path: its header, then IMAGE_BYTES (R147, R158, R208, R214, log
entry 120). -/
def State.readStore (s : State) : State :=
  let off := 4096 * s.fld cfgImageOffset 0
  let n := max 128 (min (bytesLE (s.region0Bytes (off + 8) 8)) 268435456)
  let a := 2 ^ 26 * s.fld cfgRegionBase 0 + off
  let codes := (List.range ((n + 63) / 64)).map fun u => a / 64 + u
  (({ s with imgBad := false } : State).touchHoles codes).issueReads (Who.narrow 1) false (codes.map fun c => (c, [])) |>.countNarrow n

/-- A write of CFG.CTRL.ADMIT (R298, R385). -/
def State.effAdmit (s : State) : State :=
  if s.admState = admUnloaded then
    (if s.flag dbgStatusScanned 0 then s.cperrState else (s.setFld cfgAdmitState 0 admAdmitting).readStore)
  else s.logEv 0x0203 1 0 (256 * s.admState)

/-- ADMIT (R298). -/
def execAdmit (src : Src) (s : State) : Out := .next (s.gate src .cfgCtrl 0 State.effAdmit)

/-- Largest spill demand of a queue's tiles (Table 4.11). -/
def queueDemand (es : List (BitVec 512)) : Nat :=
  (es.foldl (fun (acc : Nat × Option OpenTile) w =>
    if entKind w ≠ kPass then acc
    else
      let p := passOf w
      let t := if p.first then some ⟨entTile w, p, 0, 0, 0, false⟩ else acc.2
      match t with
      | none => acc
      | some t =>
        let t := { t with count := t.count + 1, rows := max t.rows p.rows, cols := max t.cols p.cols }
        (if p.last then max acc.1 (spillDemand t) else acc.1, if p.last then none else some t)) (0, none)).1

/-- Largest spill demand of a side. -/
def sideDemand (i : Image) (k : Nat) (b : Bool) : Nat :=
  (allQueues i).foldl (fun m q =>
    let owns := q.1.queue ≠ 0 ∧ (ctxSides i q.1.ctx)[q.1.queue - 1]? = some (k, b)
    if owns then max m (queueDemand q.1.entries) else m) 0

/-- ARR.CFG and ACC.CFG of a core record (R89, R123). -/
def State.setCore (s : State) (i : Image) (r : CoreRec) : State :=
  let k := r.core
  let s := (s.setFld arrCfgAssigned k 1).setFlag arrCfgSplit k r.split
  let s := (s.setFld arrCfgCtxA k (r.ctxA.getD 0)).setFld arrCfgCtxB k (if r.split then r.ctxB.getD 0 else 0)
  let s := (s.setFld accCfgSlotsA k (if r.split then 4096 else 8192)).setFld accCfgSlotsB k (if r.split then 4096 else 0)
  (s.setFld accCfgDemandA k (sideDemand i k false)).setFld accCfgDemandB k (if r.split then sideDemand i k true else 0)

/-- FUR.CFG of a used port (Table 9.20). -/
def State.setPortCfg (s : State) (p : PortRec) : State :=
  let n := p.port
  let s := ((s.setFld furCfgUsed n 1).setFld furCfgTier n p.tier).setFlag furCfgFec n p.light
  (s.setFld furCfgPeerRank n p.peerRank).setFld furCfgPeerPort n p.peerPort

/-- SNP.CFG and SNP.SCHED.INTERVAL (R345). -/
def State.setBushel (s : State) (b : Bushel) : State :=
  let s := ((s.setFld snpCfgNM1 0 (b.n - 1)).setFld snpCfgPos 0 b.pos).setFld snpCfgGroup 0 b.group
  let s := ((s.setFld snpCfgPartner 0 b.partner).setFld snpCfgSource 0 b.source).setFld snpCfgCellUnits 0 (cellUnits b)
  (s.setFld snpCfgEnabled 0 1).setFld snpSchedInterval 0 b.interval

/-- The engine address of a slot: region 4 or 5 (R324). -/
def State.slotBase (s : State) (slotB : Bool) : Nat := 2 ^ 26 * s.fld cfgRegionBase (if slotB then 5 else 4)

/-- MAGIC of a record (R324). -/
abbrev recMagic : Nat := 0x4C454853

/-- The 64 bytes of a record (R324); the places of its fields are a choice (log entry 78). -/
def slotRecBytes (r : SlotRec) : List Byte :=
  toBytesLE 4 recMagic ++ toBytesLE 1 (if r.slotB then 0x42 else 0x41) ++ toBytesLE 1 r.n ++ toBytesLE 1 r.k ++ toBytesLE 1 r.e ++
    toBytesLE 4 r.step ++ toBytesLE 4 r.cellUnits ++ toBytesLE 8 r.imageId ++ List.replicate 40 0

/-- The record of a kind that 64 bytes hold: its MAGIC and its slot letter must fit (R325). -/
def recOf (kind : RecKind) (slotB : Bool) (d : List Byte) : Option SlotRec :=
  let w := fun (o n : Nat) => bytesLE ((d.drop o).take n)
  if w 0 4 = recMagic ∧ w 4 1 = (if slotB then 0x42 else 0x41) then
    some ⟨slotB, kind, w 8 4, w 16 8, w 5 1, w 6 1, w 7 1, w 12 4⟩
  else none

/-- The place of a record in its slot, in units (Table 11.2). -/
def recUnit : RecKind → Nat
  | .opened => 0 | .done => 1 | .committed => 2

/-- The records that stand at an engine address: of the units that read good (R325). -/
def State.recsAt (s : State) (a : Nat) (slotB : Bool) : List SlotRec :=
  [RecKind.opened, .done, .committed].filterMap fun k =>
    let x := s.readUnit (a + 64 * recUnit k)
    if x.2 then none else recOf k slotB x.1

/-- The records of a slot, but those whose unit was not delivered good. -/
def State.slotRecs (s : State) (slotB : Bool) : List SlotRec :=
  (s.recsAt (s.slotBase slotB) slotB).filter fun r => !s.snp.lostRecs.contains ((if slotB then 3 else 0) + recUnit r.kind)

/-- The newest record of a slot that is present for the loaded image, and its state (R325, Table 11.10): DONE and COMMIT lie
in front of OPEN. -/
def State.slotState (s : State) (rs : List SlotRec) : Option SlotRec × Nat :=
  let b := s.image.bind fun i => i.bushel
  let ok := fun (r : SlotRec) => r.imageId == s.fld cfgImgidImageId 0 &&
    match b with | some b => r.n == b.n && r.k == b.n - 2 && r.e == b.pos | none => false
  match rs.find? fun r => r.kind == .committed && ok r with
  | some r => (some r, 3)
  | none => match rs.find? fun r => r.kind == .done && ok r with
    | some r => (some r, 2)
    | none => match rs.find? fun r => r.kind == .opened && ok r with
      | some r => (some r, 1)
      | none => (none, 0)

/-- SNP.SLOTA and SNP.SLOTB from the records (Table 11.10). -/
def State.refreshSlots (s : State) : State :=
  let ra := s.slotRecs false
  let rb := s.slotRecs true
  let a := s.slotState ra
  let b := s.slotState rb
  let id := s.fld cfgImgidImageId 0
  let has := fun (rs : List SlotRec) => !rs.isEmpty && rs.all fun r => r.imageId == id
  let stp := fun (x : Option SlotRec) => match x with | some r => r.step | none => 0
  let s := ((s.setFld snpSlotaStep 0 (stp a.1)).setFld snpSlotaState 0 a.2).setFlag snpSlotaImageMatch 0 (has ra)
  ((s.setFld snpSlotbStep 0 (stp b.1)).setFld snpSlotbState 0 b.2).setFlag snpSlotbImageMatch 0 (has rb)

/-- The snapshot coder reads n bytes of records or digests over the narrow path (R147, R158): units with what they feed. -/
def State.narrowReads (s : State) (n : Nat) (l : List (Nat × List Nat)) : State :=
  ((s.touchHoles (l.map (·.1))).issueReads (Who.narrow 3) false l).countNarrow n

/-- The records of both slots are read at admission (R325); those of an image without a BUSHEL section are none. -/
def State.readRecords (s : State) : State :=
  if (s.image.bind fun i => i.bushel).isNone then s
  else
    let s : State := { s with snp := { s.snp with lostRecs := [] } }
    s.narrowReads 384 ([false, true].flatMap fun b => (List.range 3).map fun k => (s.slotBase b / 64 + k, [markSlot b k]))

/-- A record was not delivered good: it is not present, and the slot registers show it (R325). -/
def State.dropRecord (s : State) (k : Nat) : State :=
  ({ s with snp := { s.snp with lostRecs := k :: s.snp.lostRecs } } : State).refreshSlots

/-- Tensors that the update units write (R265). -/
def updateTensors (i : Image) : List Nat :=
  match i.optim with
  | some o => o.layers.flatMap fun r => [r.wt, r.tw, r.tm, r.tv]
  | none => []

/-- The steps that the version tags of admission come from: the dispatched step minus 1, for the holder entries of tensors that the
update units write; the others' tag is the VTAG of their entry (R265, log entry 34). -/
def initialTags (i : Image) (step : Nat) : List (Nat × Nat) :=
  let ts := updateTensors i
  let hs := (i.descs.map descOf).filterMap fun d => if d.dist && ts.contains d.tnum then some d.holder else none
  hs.eraseDups.map fun h => (h, (step + 2 ^ 32 - 1) % 2 ^ 32)

/-- The tables that admission holds on chip. -/
def State.loadTables (s : State) (i : Image) : State :=
  { s with
    image := some i
    pageCrc := pageCrcs i.bytes
    trk := i.track.map trackNew
    upd := { layers := match i.optim with | some o => o.layers.map fun _ => { last := (s.fld cfgDispatchStep 0 + 2 ^ 32 - 1) % 2 ^ 32 } | none => [],
             seed := match i.optim with | some o => o.seed | none => 0,
             clipMax := match i.optim with | some o => o.clipMax | none => 0 }
    chain := { holders := i.holders,
               tags := initialTags i (s.fld cfgDispatchStep 0), expects := initialTags i (s.fld cfgDispatchStep 0) }
    snp := { s.snp with mismatch := false } }

/-- Every register that admission sets (R299). -/
def State.setAdmitted (s : State) (i : Image) : State :=
  let h := headerOf i.bytes
  let s := (s.setFld cfgImgidImageId 0 h.imageId).setFld cfgImgidVersion 0 h.version
  let s := s.setWord .cfgMstat 0 0
  let s := i.cores.foldl (fun s r => s.setCore i r) s
  let s := i.contexts.foldl (fun s c =>
    ((s.setWord .seqStatus c.ctx 0).setFld seqStatusState c.ctx ctxIdle).setFld seqStatusQueues c.ctx (ctxQueues i c.ctx)) s
  let s := s.setFld layCfgHolders 0 i.holders.length
  let s := ((s.setFld sclCfgTensors 0 i.track.length).setFlag sclCfgPolicy 0 i.lean).setFlag sclCfgAutoWiden 0 i.autoWiden
  let s := match i.optim with
    | none => s
    | some o =>
      let us := (o.layers.flatMap fun (r : LayerRec) => r.slices.map Slice.unit).eraseDups
      let s := ((s.setFld updCfgUnits 0 us.length).setFld updCfgClipMode 0 o.clipMode).setFlag updCfgNfPolicy 0 o.nfSkip
      (s.setFld updCfgLayers 0 o.layers.length).setFld updCfgLrPoints 0 o.lr.length
  let s := ((s.setFld mapChainRank 0 h.rank).setFld mapChainSizeM1 0 h.sizeM1).setFld mapChainNdM1 0 h.ndM1
  let s := ((s.setFld mapChainNsM1 0 h.nsM1).setFld mapChainNmM1 0 h.nmM1).setFlag mapChainIsHead 0 (h.rank == 0)
  let s := s.setFld mapChainChainId 0 h.chainId
  let big := i.links.groups.foldl (fun m g =>
    max m (g.foldl (fun n k => n + ((i.links.collectives.find? fun c => c.num == k).map (·.slots)).getD 0) 0)) 0
  let s := (s.setWord .mapSlots 0 0).setFld mapSlotsLimit 0 big
  let s := i.links.ports.foldl State.setPortCfg s
  let s := match i.bushel with | some b => s.setBushel b | none => s
  s.setFld snpStatusJobLost 0 0

/-- The event 0x0401 and the interrupt of an admission that ended. -/
def State.admitEvent (s : State) (code mask sect index : Nat) : State :=
  (s.logEv 0x0401 1 0 (code + mask * 16 + 2 ^ 14 * sect + 2 ^ 18 * index)).irq mgtIrqPendAdmit

/-- The check ends (R299): a refusal changes CFG.ADMIT alone; a success loads the image and the ports go on. -/
def State.endAdmission (s : State) (i : Image) : State :=
  let fs := s.admissionFails i
  match firstFail fs with
  | some f =>
    let s := ((s.setFld cfgAdmitState 0 admUnloaded).setFld cfgAdmitCode 0 f.code).setFld cfgAdmitMask 0 (failMask fs)
    let s := (s.setFld cfgAdmitSection 0 f.sect).setFld cfgAdmitIndex 0 f.index
    s.admitEvent f.code (failMask fs) f.sect f.index
  | none =>
    let s := ((s.setFld cfgAdmitState 0 admLoaded).setFld cfgAdmitCode 0 0).setFld cfgAdmitMask 0 0
    let s := (s.setFld cfgAdmitSection 0 0).setFld cfgAdmitIndex 0 0
    let s := ((s.setAdmitted i).loadTables i).readRecords.refreshSlots
    let s := (s.setWord .updNorm 0 (resetWord .updNorm 0)).admitEvent 0 0 0 0
    let s : State := { s with snp := { s.snp with lastMsg := s.time, lost := false } }
    s.usedPorts.foldl State.sendHello s

/-- Reads of the management controller over the narrow path that have not returned. -/
def State.storeReads (s : State) : Bool := s.sp.any fun p => (p.rd ++ p.rdWait).any fun r => r.cls == clsNar && r.reader.index == 1

/-- ADMISSION_END (R299): the image that the management controller read lies in region 0 at CFG.IMAGE.OFFSET; TILES, DESC and HOLDERS
are what its bytes hold. -/
def execAdmissionEnd (img : Image) (s : State) : Out :=
  .next (
    if s.admState = admAdmitting ∧ s.mcHalted = false ∧ s.storeReads = false ∧ 128 ≤ img.bytes.length ∧
        min (headerOf img.bytes).bytes 268435456 ≤ img.bytes.length ∧
        s.region0Bytes (4096 * s.fld cfgImageOffset 0) img.bytes.length = img.bytes then s.endAdmission (readImage img)
    else s)

/-! ## Dispatch and unload (R302, R304) -/

/-- A layer record at the start of a step. -/
def LayerSt.fresh (l : LayerSt) : LayerSt := { p1 := l.p1, p2 := l.p2, applied := l.applied, last := l.last }

/-- Registers that show a condition of the run now at an end: stopped sides, halted contexts, busy movers and units. -/
def State.clearRunBits (s : State) : State :=
  let s := (List.range (Config.cores s.conf)).foldl (fun s k =>
    let s := (s.setFld arrStatusStoppedA k 0).setFld arrStatusStoppedB k 0
    let s := (s.setFld accStatusHaltA k 0).setFld accStatusHaltB k 0
    (s.setFld accDrainAddA k 0).setFld accDrainAddB k 0) s
  ((((s.setFld layStashPushWait 0 0).setFld layStatusBusy 0 0).setFld updStatusBusy 0 0).setFld updStatusWaitClip 0 0).setFld mapSlotsOpen 0 0

/-- The state of a run that a dispatch starts anew: contexts, tokens, sides, tiles, movers, FX, chain control. -/
def State.freshRun (s : State) : State :=
  let z := State.resetFor s.conf
  let s := s.usedCtx.foldl (fun s c =>
    ((s.setCtxState c ctxIdle).setFld seqStatusMb c 0).setFld seqStatusBucket c 0) s.clearRunBits
  { s with
    ctxs := z.ctxs
    toks := []
    held := []
    mbs := []
    sides := z.sides
    tiles := z.tiles
    movers := z.movers
    fx := { credits := [0, 0, 0, 0], outData := s.fx.outData, outRec := s.fx.outRec, queue := s.fx.queue, out := s.fx.out }
    upd := { s.upd with
      units := z.upd.units, norm := none, localSent := false, released := false, skipped := false
      layers := s.upd.layers.map LayerSt.fresh }
    chain := { s.chain with
      reports := s.chain.reports.filter fun r => r.ready && r.step == (s.fld cfgDispatchStep 0 + 2 ^ 32 - 1) % 2 ^ 32, partials := [], proposals := [], pending := none, staged := none
      committed := none, prepared := none, failRank := none, reported := false, readySent := false, stepFailed := none, colls := [], segs := []
      reduced := [], opened := [], layerTokens := [], writes := [], moves := [], uses := [], parts := [], overwrites := []
      reshard := none, journal := none, blocks := [], roundDones := [], probeAsk := false } }

/-- Grant FX credits of a class, to at most its maximum (Table 14.4). -/
def State.grant (s : State) (cls n cap : Nat) : State :=
  { s with fx := { s.fx with credits := s.fx.credits.set cls (min cap (s.fx.credits.getD cls 0 + n)) } }

/-- A write of CFG.CTRL.DISPATCH (R302, R171, R179, R180, R399). -/
def State.effDispatch (s : State) : State :=
  if s.admState ≠ admLoaded ∧ s.admState ≠ admHalted then s.logEv 0x0203 1 0 (1 + 256 * s.admState)
  else
    let s := ((s.setFld cfgAdmitState 0 admDispatching).setFld mapStatusHalted 0 0).setFld snpStatusLocalHalt 0 0
    let s := s.freshRun
    let s := ({ s with trk := s.trk.map Track.atDispatch, probe := false } : State).setFld sclStatusProbeActive 0 0
    let s := s.setProbeReq
    let probe := s.chain.probeAsk
    let s := ({ s with trk := s.trk.map fun e => e.forStep probe } : State).sendScales none probe (s.fld cfgDispatchStep 0)
    let s := (s.grant 0 128 128).grant 3 64 64
    { s with snp := { s.snp with skipNext := false } }.trySendReady

/-- DISPATCH (R302). -/
def execDispatch (src : Src) (s : State) : Out := .next (s.gate src .cfgCtrl 0 State.effDispatch)

/-- Clear the registers that admission set (R304). -/
def State.clearAdmitted (s : State) : State :=
  let s := (s.setWord .cfgImgid 0 0).setWord .cfgMstat 0 0
  let s := (List.range (Config.cores s.conf)).foldl (fun s k => (s.setWord .arrCfg k 0).setWord .accCfg k 0) s
  let s := (List.range (Config.ctx s.conf)).foldl (fun s c => s.setWord .seqStatus c 0) s
  let s := ((s.setFld layCfgHolders 0 0).setWord .sclCfg 0 0).setWord .updCfg 0 0
  let s := ((s.setWord .mapChain 0 0).setWord .mapSlots 0 0).setWord .mapHead 0 0
  let s := (List.range (Config.fports s.conf)).foldl (fun s n => s.setWord .furCfg n 0) s
  let s := s.setWord .updNorm 0 (resetWord .updNorm 0)
  (((s.setWord .snpCfg 0 0).setFld snpSchedInterval 0 0).setFld sclStatusProbeReq 0 0).setFld sclStatusProbeActive 0 0

/-- A write of CFG.CTRL.UNLOAD (R304). -/
def State.effUnload (s : State) : State :=
  if s.admState ≠ admLoaded ∧ s.admState ≠ admHalted then s.logEv 0x0203 1 0 (2 + 256 * s.admState)
  else
    let z := State.resetFor s.conf
    let s := (s.clearAdmitted.clearRunBits.setFld cfgAdmitState 0 admUnloaded).setFld mapStatusHalted 0 0
    { s with
      image := none, pageCrc := [], probe := false, ctxs := z.ctxs, toks := [], held := [], mbs := [], sides := z.sides, tiles := z.tiles
      movers := z.movers, trk := []
      fx := { outData := s.fx.outData, outRec := s.fx.outRec, queue := s.fx.queue, out := s.fx.out }
      upd := {}, chain := {} }

/-- UNLOAD (R304). -/
def execUnload (src : Src) (s : State) : Out := .next (s.gate src .cfgCtrl 0 State.effUnload)

end Sys2Proof.Machine
end

