-- ==== Sys2Proof/Machine/FxStash.lean ====
section
/-!
DEFINITION. Sys2Proof/Machine/FxStash.lean: the forward-exchange interface (07 sections 7.1 to 7.4, R22, R25, R26, R399 to R401):
credits, stash pushes, recompute streams, loss seeds.
-/
namespace Sys2Proof.Machine

/-- Table 14.4: credits of a class at most. -/
def creditCap (cls : Nat) : Nat := [128, 128, 32, 64].getD cls 0

/-- The FX port works: the engine serves it in Run and Doze. -/
def State.fxOn (s : State) : Bool := s.alive && decide (s.power ≤ 1)

/-- A dispatched image is loaded and the engine is not halted (R22); no re-shard is in progress (R268). -/
def State.fxGrants (s : State) : Bool := (s.admState == admRunning || s.admState == admDispatching) && s.chain.reshard.isNone

/-- Return a credit of a class (R22). -/
def State.giveBack (s : State) (cls : Nat) : State := if s.fxGrants then s.grant cls 1 (creditCap cls) else s

/-- Use a credit of a class; without one the beat or record is discarded and logged (R22). -/
def State.withCredit (s : State) (cls : Nat) (record : Bool) (f : State → State) : State :=
  let n := s.fx.credits.getD cls 0
  if !s.fxOn then s
  else if n = 0 then s.logEv 0x0301 15 0 (cls + (if record then 4 else 0))
  else f { s with fx := { s.fx with credits := s.fx.credits.set cls (n - 1) } }

/-- The micro-batch (step, mb) as the engine holds it. -/
def State.mbRec (s : State) (step mb : Nat) : Option Mb := s.mbs.find? fun m => m.step == step && m.mb == mb

/-- The micro-batches whose traffic the engine grants credits for: that of the slowest context, and four after it (R294). -/
def State.mbWindow (s : State) : Nat := (s.usedCtx.foldl (fun (m : Option Nat) c =>
  let f := (s.ctx c).finished
  some (match m with | none => f | some x => min x f)) none).getD 0 + 4

/-- Whether micro-batch (step, mb) lies in that window, by its index among the accepted ones. The micro-batches of the next step follow
those of the current one; one that is not opened yet comes after those that are. -/
def State.inWindow (s : State) (step mb : Nat) : Bool :=
  let n := (s.mbs.filter fun m => m.acc.isSome).length
  match s.mbRec step mb with
  | some m => (match m.acc with | some a => decide (a ≤ s.mbWindow) | none => true)
  | none =>
    if step = s.curStep then decide (n ≤ s.mbWindow)
    else if step = (s.curStep + 1) % 2 ^ 32 then decide (n + mb ≤ s.mbWindow)
    else true

/-- The credit of a beat or record of micro-batch (step, mb) returns, or is owed until the window reaches the micro-batch (R294). -/
def State.returnFor (s : State) (cls step mb : Nat) : State :=
  if s.inWindow step mb then s.giveBack cls else { s with fx := { s.fx with owed := s.fx.owed ++ [(cls, step, mb)] } }

/-- The window has moved: credits owed return as far as it reaches. -/
def State.payWindow (s : State) : State :=
  s.fx.owed.foldl (fun s o => s.returnFor o.1 o.2.1 o.2.2) { s with fx := { s.fx with owed := [] } }

/-- The credit of a beat of micro-batch (step, mb), once. -/
def State.settle (s : State) (cls : Nat) (b : Beat) (step mb : Nat) : State := if b.paid then s else s.returnFor cls step mb

/-- A refused micro-batch (R199). -/
def State.mbRefused (s : State) (step mb : Nat) : Bool := match s.mbRec step mb with | some m => m.bucket.isNone | none => false

/-- The buckets of the loaded image. -/
def State.buckets (s : State) : List Bucket := match s.image with | some i => i.buckets | none => []

/-- A beat beyond its entry (R400). -/
def State.badBeat (s : State) (cls : Nat) (b : Beat) (step mb : Nat) : State :=
  (s.logEv 0x0302 15 0 (b.entry + 65536 * b.beat)).settle cls b step mb

/-- Whether a stash or seed entry of a set is held by another micro-batch (R197, R202). -/
def State.heldByOther (s : State) (seed : Bool) (entry set step mb : Nat) : Bool :=
  s.fx.holding.any fun h => h.seed == seed && h.entry == entry && h.set == set && !(h.step == step && h.mb == mb)

/-- Hold an entry from its first beat. -/
def State.hold (s : State) (h : Holding) : State :=
  if s.fx.holding.contains h then s else { s with fx := { s.fx with holding := s.fx.holding ++ [h] } }

/-! ## Stash pushes (R194 to R197, R201) -/

/-- The entry of a bucket's plan that pushes fill. -/
def stashOf (b : Bucket) (entry : Nat) : Option StashRec := b.stash.find? fun r => r.entry == entry && r.place != .recomp

/-- The set of a micro-batch and the address of the entry in it (R196). -/
def stashSet (b : Bucket) (r : StashRec) (acc : Nat) : Nat × Nat :=
  if r.place = .keg then let t := acc % max 1 b.nsetKeg; (t, r.addr + t * b.kegStride)
  else let t := acc % max 1 b.nsetHogs; (t, r.addr + t * b.hogsStride)

/-- The data of a beat with +0 at padding (R201); where the padding of a pushed tensor lies is open. -/
def padBeat (entry bucket n len beat : Nat) (d : List Byte) : List Byte :=
  if len ≤ n then d
  else (d.zip (List.range d.length)).map fun p => if Config.stashPadding (entry + 65536 * bucket) n (256 * beat + p.2) then 0 else p.1

/-- A beat of a micro-batch that was refused, discarded like one without a credit (R22, R199). -/
def State.refuseBeat (s : State) (cls : Nat) (b : Beat) (step mb : Nat) : State := (s.logEv 0x0301 15 0 cls).settle cls b step mb

/-- Write a push of micro-batch (step, mb), unless it must wait (none) for its micro-batch-open or for a release. -/
def State.writePush (s : State) (b : Beat) (step mb : Nat) : Option State :=
  match s.mbRec step mb with
  | none => none
  | some m =>
    match m.bucket.bind fun k => (s.buckets[k]?).map fun x => (k, x) with
    | none => some (s.refuseBeat 0 b step mb)
    | some (k, x) =>
      match stashOf x b.entry with
      | none => some (s.badBeat 0 b step mb)
      | some r =>
        if r.bytes ≤ 256 * b.beat then some (s.badBeat 0 b step mb)
        else
          let (set, a) := stashSet x r (m.acc.getD 0)
          if s.heldByOther false b.entry set step mb then none
          else
            let ws := bytesAt (if r.place = .keg then 1 else 0) (a + 256 * b.beat) (padBeat b.entry k m.n x.len b.beat b.data) false
            some (((s.hold ⟨false, b.entry, set, step, mb⟩).storeBatch Who.engine false ws).settle 0 b step mb)

/-- The micro-batch that the next record of its kind is expected to name: the first accepted one whose seed-done has not come. Only the
return of a credit rests on it (log entry 15). -/
def State.expected (s : State) : Option (Nat × Nat) := (s.mbs.find? fun m => m.bucket.isSome && !m.seed).map fun m => (m.step, m.mb)

/-- Whether another micro-batch holds the stash entry that a push of micro-batch (step, mb) fills (R197). -/
def State.pushHeld (s : State) (b : Beat) (step mb : Nat) : Bool :=
  match (s.mbRec step mb).bind fun m => m.bucket.bind fun k => (s.buckets[k]?).bind fun x => (stashOf x b.entry).map fun r =>
    (stashSet x r (m.acc.getD 0)).1 with
  | some set => s.heldByOther false b.entry set step mb
  | none => false

/-- LAY.STASH.PUSH_WAIT: a push waits for a release (R197). -/
def State.showPushWait (s : State) : State :=
  s.setFlag layStashPushWait 0 (s.fx.wait0.any fun b => match b.own.or s.expected with
    | some p => (s.mbRec p.1 p.2).isSome && s.pushHeld b p.1 p.2
    | none => false)

/-- Take a push: written when the layer-done that follows it has named its micro-batch, else kept; its credit returns as soon as the
micro-batch expected of it leaves its entry free. -/
def State.takePush (s : State) (b : Beat) : State :=
  match b.own.bind fun p => s.writePush b p.1 p.2 with
  | some s => s
  | none =>
    let keep := fun (s : State) (b : Beat) => ({ s with fx := { s.fx with wait0 := s.fx.wait0 ++ [b] } } : State)
    match (if b.own.isNone && !b.paid then s.expected else none) with
    | some p => if s.pushHeld b p.1 p.2 then keep s b else keep (s.returnFor 0 p.1 p.2) { b with paid := true }
    | none => keep s b

/-- The padding of a layer's stash entries that a micro-batch has pushed: +0 at every padding position, sent or not (R201). -/
def State.padLayer (s : State) (step mb layer : Nat) : State :=
  match s.mbRec step mb with
  | none => s
  | some m =>
    match m.bucket.bind fun k => (s.buckets[k]?).map fun x => (k, x) with
    | none => s
    | some (k, x) =>
      if x.len ≤ m.n then s
      else
        let es := x.stash.filter fun r => r.place != .recomp &&
          (match s.track r.tnum with | some t => t.stat.layer == layer | none => false) &&
          s.fx.holding.any fun h => !h.seed && h.entry == r.entry && h.step == step && h.mb == mb
        es.foldl (fun s r =>
          let a := (stashSet x r (m.acc.getD 0)).2
          let ws := (List.range r.bytes).filterMap fun o =>
            if Config.stashPadding (r.entry + 65536 * k) m.n o then
              some (⟨⟨if r.place = .keg then 1 else 0, a + o⟩, 0, false⟩ : ByteWrite) else none
          s.storeBatch Who.engine false ws) s

/-- Write the padding of every layer whose pushes have all been written; of a refused micro-batch there is none. -/
def State.padPushes (s : State) : State :=
  s.fx.pads.foldl (fun (s : State) p =>
    if (s.mbRec p.1 p.2.1).isSome && !s.fx.wait0.any (fun b => b.own == some (p.1, p.2.1)) then s.padLayer p.1 p.2.1 p.2.2
    else { s with fx := { s.fx with pads := s.fx.pads ++ [p] } }) { s with fx := { s.fx with pads := [] } }

/-- Try every waiting push in its order. -/
def State.flushPushes (s : State) : State :=
  ((s.fx.wait0.foldl State.takePush { s with fx := { s.fx with wait0 := [] } }).padPushes).showPushWait

/-- STASH_PUSH (R25, R197): a class 0 beat; the layer-done that follows names its micro-batch (log entry 15). -/
def execStashPush (entry beat : Nat) (_last : Bool) (data : List Byte) (s : State) : Out :=
  if data.length ≠ 256 then .fault .illFormed
  else .next (s.withCredit 0 false fun s =>
    (s.takePush ⟨entry, beat, data, none, false⟩).showPushWait)

/-! ## Loss seeds (R202) -/

/-- The seed entry of a bucket. -/
def seedOf (b : Bucket) (entry : Nat) : Option SeedRec := b.seeds.find? fun r => r.entry == entry

/-- Elements to be overwritten, by position: those of this engine as bytes, those of others by the rank that holds them (R150). -/
def State.elemWrites (s : State) (d : Desc) (l : List (List Nat × List Byte)) : List ByteWrite × List (Nat × WItem) :=
  l.foldr (fun x acc =>
    match s.whereIs d d.elem x.1 with
    | .here p => (writesAt p x.2 false ++ acc.1, acc.2)
    | .away k => (acc.1, (k, ⟨0, x.1, pairOfBytes d.format d.pair 0 x.2, x.2, false⟩) :: acc.2)) ([], [])

/-- The tag that this engine expects of a holder entry's pieces (R265): the step of the last applied update for tensors that the update
units write, else the entry's VTAG. -/
def State.tagOf (s : State) (holder : Nat) : Nat :=
  match s.chain.expects.find? fun t => t.1 == holder with
  | some t => t.2 % 65536
  | none => ((s.holderAt holder).map (·.vtag)).getD 0

/-- Overwrite elements of descriptor n, here and on the engines that hold them (R150, R151). -/
def State.putElems (s : State) (w : Who) (n : Nat) (l : List (List Nat × List Byte)) : State :=
  let d := s.desc n
  let (ws, away) := s.elemWrites d l
  ((away.map (·.1)).eraseDups).foldl (fun s k =>
    s.post (.writeReq k ⟨s.rank, d.holder, n, s.tagOf d.holder, false, false, 0, none, (away.filter fun x => x.1 == k).map (·.2)⟩))
    (s.storeBatch w false ws)

/-- The elements of beat `beat` of a seed: those that occupy its 256 bytes in memory order, +0 at token positions from n. -/
def seedElems (d : Desc) (beat n : Nat) (data : List Byte) : List (List Nat × List Byte) :=
  let total := d.ext.foldl (· * ·) 1
  (List.range 128).filterMap fun j =>
    let k := 128 * beat + j
    let i := unrank (d.order false) d.ext k
    if total ≤ k then none else some (i, if n ≤ i.getD 1 0 then [0, 0] else (data.drop (2 * j)).take 2)

/-- Write a seed beat of micro-batch (step, mb), unless it must wait. A page of its descriptor that disagrees halts the context that releases the
seed (R283, log entry 145). -/
def State.writeSeed (s : State) (b : Beat) (step mb : Nat) : Option State :=
  match s.mbRec step mb with
  | none => none
  | some m =>
    match m.bucket.bind fun k => s.buckets[k]? with
    | none => some (s.refuseBeat 2 b step mb)
    | some x =>
      match seedOf x b.entry with
      | none => some (s.badBeat 2 b step mb)
      | some r =>
        if r.bytes ≤ 256 * b.beat then some (s.badBeat 2 b step mb)
        else if s.descsDiffer [r.desc] then
          some ((if (s.ctx r.release.ctx).halted.isSome then s else s.pageHalt r.release.ctx r.release.queue r.release.index).settle 2 b step mb)
        else if s.heldByOther true b.entry 0 step mb then none
        else some (((s.hold ⟨true, b.entry, 0, step, mb⟩).putElems Who.engine r.desc (seedElems (s.desc r.desc) b.beat m.n b.data)).settle 2 b
          step mb)

/-- The seed entries that a micro-batch holds: +0 at every padding position, sent or not (R201, R202). -/
def State.padSeeds (s : State) (m : Mb) : State :=
  match m.bucket.bind fun k => s.buckets[k]? with
  | none => s
  | some x =>
    if x.len ≤ m.n then s
    else
      (x.seeds.filter fun r => s.fx.holding.any fun h => h.seed && h.entry == r.entry && h.step == m.step && h.mb == m.mb).foldl
        (fun s r =>
          let d := s.desc r.desc
          s.putElems Who.engine r.desc ((d.rowMajorPositions.filter fun i => decide (m.n ≤ i.getD 1 0)).map fun i =>
            (i, List.replicate d.elem.bytes 0))) s

/-- Write the padding of every seed whose beats have all been written. -/
def State.padDone (s : State) : State :=
  s.fx.seedPads.foldl (fun (s : State) p =>
    match s.mbRec p.1 p.2 with
    | some m =>
      if s.fx.wait2.any fun b => b.own == some p then { s with fx := { s.fx with seedPads := s.fx.seedPads ++ [p] } } else s.padSeeds m
    | none => { s with fx := { s.fx with seedPads := s.fx.seedPads ++ [p] } }) { s with fx := { s.fx with seedPads := [] } }

/-- Take a seed beat: written when the seed-done that follows it has named its micro-batch, else kept; its credit returns as soon as the
micro-batch expected of it leaves its entry free. -/
def State.takeSeed (s : State) (b : Beat) : State :=
  match b.own.bind fun p => s.writeSeed b p.1 p.2 with
  | some s => s
  | none =>
    let keep := fun (s : State) (b : Beat) => ({ s with fx := { s.fx with wait2 := s.fx.wait2 ++ [b] } } : State)
    match (if b.own.isNone && !b.paid then s.expected else none) with
    | some p => if s.heldByOther true b.entry 0 p.1 p.2 then keep s b else keep (s.returnFor 2 p.1 p.2) { b with paid := true }
    | none => keep s b

/-- Try every waiting seed beat in its order. -/
def State.flushSeeds (s : State) : State :=
  (s.fx.wait2.foldl State.takeSeed { s with fx := { s.fx with wait2 := [] } }).padDone

/-- SEED_BEAT (R26, R202): a class 2 beat; the seed-done that ends the seed names its micro-batch (log entry 15). -/
def execSeedBeat (entry beat : Nat) (_last : Bool) (data : List Byte) (s : State) : Out :=
  if data.length ≠ 256 then .fault .illFormed
  else .next (s.withCredit 2 false fun s =>
    s.takeSeed ⟨entry, beat, data, none, false⟩)

/-- Class 2 credits after micro-batch-open: as many as the buffer holds (Table 14.4, R294). -/
def State.grantSeeds (s : State) : State :=
  let s := s.payWindow
  if s.fxGrants && s.mbs.any (fun m => !m.seed && match m.acc with | some a => decide (a ≤ s.mbWindow) | none => false) then
    s.grant 2 32 (32 - (s.fx.wait2.filter fun b => !b.paid).length)
  else s

/-! ## Recompute streams (R204) -/

/-- Class 1 credits: the beats that requested streams still owe, as far as their ring has room. -/
def State.grantRings (s : State) : State :=
  let n := s.fx.rings.foldl (fun n r =>
    let owed := (s.fx.streams.filter fun t => t.ring == r.ring).foldl (fun n t => n + (t.beats - t.landed.length)) 0
    n + min owed (r.size / 256 - r.used.length)) 0
  if s.fxGrants then { s with fx := { s.fx with credits := s.fx.credits.set 1 (min 128 n) } } else s

/-- Whether every byte of a beat of an entry is padding (R201). -/
def padOnly (entry bucket n len beat : Nat) : Bool :=
  decide (n < len) && (List.range 256).all fun o => Config.stashPadding (entry + 65536 * bucket) n (256 * beat + o)

/-- A beat of a stream is in its ring: written, in use until it is read, and the last of the stream ends its entry. -/
def State.ringBeat (s : State) (t : Stream) (r : RingSt) (beat : Nat) (d : List Byte) : State :=
  let o := (t.start + 256 * beat) % max 1 r.size
  let s := s.storeBatch Who.engine false (bytesAt 1 (r.base + o) d false)
  let t' := { t with landed := if t.landed.contains beat then t.landed else beat :: t.landed }
  let done := decide (t.beats ≤ t'.landed.length)
  let s : State := { s with fx := { s.fx with
    rings := s.fx.rings.map fun x =>
      if x.ring = r.ring then { x with used := (o / 256, List.range 256) :: x.used.filter fun u => u.1 != o / 256 } else x
    streams := if done then s.fx.streams.filter (· ≠ t) else s.fx.streams.map fun y => if y = t then t' else y } }
  if done then s.finishFlight t.ctx t.queue t.index else s

/-- The bucket, its length and the length of a stream's micro-batch. -/
def State.streamLen (s : State) (t : Stream) : Nat × Nat × Nat :=
  let m := s.mbRec t.step t.mb
  let k := (m.bind fun m => m.bucket).getD 0
  let len := ((s.buckets[k]?).map (·.len)).getD 0
  (k, len, (m.map (·.n)).getD len)

/-- A padding beat that a stream may have omitted: once every other beat has landed, the first whose ring space is free (R201). -/
def State.paddingDue (s : State) (t : Stream) : Option (RingSt × Nat) :=
  let (k, len, n) := s.streamLen t
  let due := (List.range t.beats).filter fun b => !t.landed.contains b
  match s.fx.rings.find? fun r => r.ring == t.ring with
  | none => none
  | some r =>
    if due.all fun b => padOnly t.entry k n len b then
      (due.find? fun b => !r.used.any fun u => u.1 == (t.start + 256 * b) % max 1 r.size / 256).map fun b => (r, b)
    else none

/-- Write up to n omitted padding beats as +0. -/
def State.padStreams : Nat → State → State
  | 0, s => s
  | n + 1, s =>
    match s.fx.streams.findSome? fun t => (s.paddingDue t).map fun x => (t, x) with
    | some (t, r, b) => State.padStreams n (s.ringBeat t r b (List.replicate 256 0))
    | none => s

/-- Omitted padding beats are written as far as their rings have room. -/
def State.padRings (s : State) : State := s.padStreams (s.fx.streams.foldl (fun n t => n + (t.beats - t.landed.length)) 0)

/-- Start the stream of a RECOMP entry: the request on FX outbound and its place in the ring. -/
def State.startStream (s : State) (c q i entry ring : Nat) : State :=
  let x := s.ctx c
  match s.buckets[x.bucket]? with
  | none => s.finishFlight c q i
  | some b =>
    match b.stash.find? fun r => r.entry == entry && r.place == .recomp, b.rings.find? fun r => r.ring == ring with
    | some r, some g =>
      let old := s.fx.rings.find? fun t => t.ring == g.ring && t.base == g.base && t.size == g.size
      let cur : RingSt := old.getD ⟨g.ring, g.base, g.size, 0, []⟩
      let rest := s.fx.rings.filter fun t => t.ring != g.ring
      let st : Stream := ⟨c, q, i, x.mbStep, x.mbNum, entry, ring, cur.head, r.bytes / 256, []⟩
      let new := { cur with head := (cur.head + r.bytes) % max 1 g.size }
      ((({ s with fx := { s.fx with rings := rest ++ [new], streams := s.fx.streams ++ [st] } } : State).fxSend
        [.recompute x.mbStep x.mbNum entry ring]).padRings).grantRings
    | _, _ => s.finishFlight c q i

/-- A beat of a stream lands in its ring. -/
def State.landBeat (s : State) (t : Stream) (beat : Nat) (data : List Byte) : State :=
  match s.fx.rings.find? fun r => r.ring == t.ring with
  | none => s
  | some r =>
    let (k, len, n) := s.streamLen t
    (s.ringBeat t r beat (padBeat t.entry k n len beat data)).padRings

/-- RECOMPUTE_BEAT (R204): a class 1 beat of the oldest stream of its entry that still owes it; one that no requested stream owes is
discarded (R400). -/
def execRecomputeBeat (entry beat : Nat) (_last : Bool) (data : List Byte) (s : State) : Out :=
  if data.length ≠ 256 then .fault .illFormed
  else .next (s.withCredit 1 false fun s =>
    match s.fx.streams.find? fun t => t.entry == entry && decide (beat < t.beats) && !t.landed.contains beat with
    | some t => (s.landBeat t beat data).grantRings
    | none => (s.logEv 0x0302 15 0 (entry + 65536 * beat)).grantRings)

/-- Reads of Keg bytes, by key, take them out of the landing rings; a beat all of whose bytes are out is free (R204). -/
def State.freeRing (s : State) (keys : List Nat) : State :=
  if s.fx.rings.isEmpty || keys.isEmpty then s
  else
    (({ s with fx := { s.fx with rings := s.fx.rings.map fun r =>
      { r with used := (r.used.map fun u => (u.1, u.2.filter fun o => !keys.contains (r.base + 256 * u.1 + o))).filter fun u =>
        !u.2.isEmpty } } } : State).padRings).grantRings

end Sys2Proof.Machine
end

