-- ==== Sys2Proof/Machine/Collect.lean ====
section
/-!
DEFINITION. Sys2Proof/Machine/Collect.lean: collectives (09 section 9.6, R28, R103): recursive halving in part order, the arrival
ring, copies, reduction slots, layer-complete. A segment range is halved as the image assigns its halves (R259): at stage k a part keeps
the pieces whose number has bit k set when the image gives it the upper half (log entry 35).
-/
namespace Sys2Proof.Machine

/-- What a part does in one phase of a collective; `k` is the stage number that its segments carry. -/
inductive Phase where
  /-- Stage k of recursive halving with a partner part (R259). -/
  | swap (k partner : Nat)
  /-- The fold of the next smaller group's result into this engine. -/
  | take (k src : Nat)
  /-- This engine's group result goes to the next larger group: its exponent and the parts. -/
  | give (k exp : Nat) (dst : List Nat)
  /-- Step t of the arrival ring (R261). -/
  | ring (t : Nat)
  /-- Copies of what the holders hold go to every part. -/
  | gather (holders : List Nat)
deriving DecidableEq, Repr

/-- The groups of the binary digits of q, from the largest: first part and exponent. -/
def binGroups : Nat → Nat → Nat → List (Nat × Nat)
  | 0, _, _ => []
  | n + 1, q, base => if q.testBit n then (base, n) :: binGroups n q (base + 2 ^ n) else binGroups n q base

/-- The groups of a collective's parts. -/
def collGroups (c : Collective) : List (Nat × Nat) := binGroups 11 c.ranks.length 0

/-- The index of a part in its group. -/
def partIndex (c : Collective) (j : Nat) : Nat :=
  match (collGroups c).find? fun g => decide (g.1 ≤ j) && decide (j < g.1 + 2 ^ g.2) with
  | some g => j - g.1
  | none => 0

/-- Whether part j keeps the upper half at stage k: as the image assigns it, else by bit k of its index (R259). -/
def keepsUpper (c : Collective) (j k : Nat) : Bool := ((c.halves[j]?).bind fun l => l[k]?).getD ((partIndex c j).testBit k)

/-- Whether part j holds piece p after e stages. -/
def holdsPiece (c : Collective) (j e p : Nat) : Bool := (List.range e).all fun k => p.testBit k == keepsUpper c j k

/-- Whether two parts hold the same segments after e stages. -/
def sameHalves (c : Collective) (i j e : Nat) : Bool := (List.range e).all fun k => keepsUpper c i k == keepsUpper c j k

/-- The phases of an ordered reduce-scatter for one part (R259). -/
def collOrdered (c : Collective) : List Phase :=
  let gs := (collGroups c)
  match gs.findIdx? fun g => decide (g.1 ≤ c.part) && decide (c.part < g.1 + 2 ^ g.2) with
  | none => []
  | some i =>
    let (base, b) := gs.getD i (0, 0)
    let l := c.part - base
    let swaps := (List.range b).map fun k => Phase.swap k (base + (l ^^^ 2 ^ k))
    let take := match gs[i + 1]? with
      | some (b0, e) =>
        ((((List.range (2 ^ e)).map fun j => b0 + j).find? fun j => sameHalves c j c.part e).map fun j => Phase.take (100 + i) j).toList
      | none => []
    let give := if i = 0 then [] else
      match gs[i - 1]? with
      | some (b0, e) => [Phase.give (99 + i) e (((List.range (2 ^ e)).map fun j => b0 + j).filter fun j => sameHalves c j c.part b)]
      | none => []
    swaps ++ take ++ give

/-- The parts of the largest group. -/
def collFirstGroup (c : Collective) : List Nat :=
  match (collGroups c) with | g :: _ => (List.range (2 ^ g.2)).map (g.1 + ·) | [] => []

/-- The phases of a collective (Table 9.8). -/
def collPhases (c : Collective) : List Phase :=
  let red := if c.ordered then (collOrdered c) else (List.range (c.ranks.length - 1)).map Phase.ring
  let holders := if c.ordered then (collFirstGroup c) else List.range c.ranks.length
  match c.kind with
  | .reduceScatter => red
  | .allReduce => red ++ [.gather holders]
  | .allGather => [.gather (List.range c.ranks.length)]
  | .broadcast => [.gather [0]]

/-- Whether the collective reduces; the others copy. -/
def collReduces (c : Collective) : Bool :=
  match c.kind with | .reduceScatter | .allReduce => true | .allGather | .broadcast => false

/-- Pieces that the reduction cuts its elements into. -/
def collPieces (c : Collective) : Nat := if c.ordered then max 1 (collFirstGroup c).length else max 1 c.ranks.length

/-- The piece of element x of n. -/
def collPieceOf (c : Collective) (n x : Nat) : Nat := x / max 1 ((n + (collPieces c) - 1) / (collPieces c))

/-- A pair at the carried width, and what its rounding counts (R103, R172). -/
def widthRound (w : Width) (p : Pair) : Pair × Conv :=
  match w with
  | .pair => (p, ⟨0, false, false⟩)
  | .s32 => (⟨p.s, 0⟩, ⟨0, false, false⟩)
  | .g16 => let c := encodeFloat fmtG16 (pairVal p); (⟨toF32 (decodeG16 c.bits), 0⟩, c)

/-- Counts of overflows and underflows. -/
def convCounts (l : List Conv) : Nat × Nat := ((l.filter fun c => c.ovf).length, (l.filter fun c => c.unf).length)

/-- Words of 8 bytes that a copied element takes. -/
def copyWords (e : Elem) : Nat := (e.bytes + 7) / 8

/-- Bytes as words of a pair. -/
def packPair (b : List Byte) : Pair := ⟨BitVec.ofNat 32 (bytesLE (b.take 4)), BitVec.ofNat 32 (bytesLE ((b.drop 4).take 4))⟩

/-- The bytes of a word. -/
def unpackPair (p : Pair) : List Byte := toBytesLE 4 p.s.toNat ++ toBytesLE 4 p.e.toNat

/-- The collective in LINKS. -/
def State.collective (s : State) (num : Nat) : Option Collective :=
  match s.image with
  | some i => i.links.collectives.find? fun c => c.num == num
  | none => none

/-- Elements (reductions) or words (copies) of the whole collective. -/
def State.collSize (s : State) (c : Collective) : Nat :=
  let d := s.desc c.src
  let e := s.desc c.dst
  match c.kind with
  | .reduceScatter | .allReduce => d.rowMajorPositions.length
  | .allGather => d.rowMajorPositions.length * copyWords d.elem * c.ranks.length
  | .broadcast => e.rowMajorPositions.length * copyWords e.elem

/-- What this part brings: values by element index, whether a source is poisoned, and what rounding to the carried width counts. A source in
a format that Table 2.6 does not convert brings free values (R54, log entry 142). -/
def State.collInput (s : State) (c : Collective) : List (Nat × Pair) × Bool × Nat × Nat :=
  let d := s.desc c.src
  let read := d.rowMajorPositions.map fun i =>
    match s.whereIs d d.elem i with
    | .here l => s.readLocs l
    | .away _ => ([], false)
  let bad := read.any (·.2)
  if (collReduces c) then
    let se := s.descSe d
    let vs := read.map fun r => widthRound c.width (if convFormat d.format then pairOfBytes d.format d.pair se r.1
      else packPair (toBytesLE 8 (Config.unlisted d.format fmtS32C (bytesLE r.1)).toNat))
    ((List.range read.length).zip (vs.map (·.1)), bad, convCounts (vs.map (·.2)))
  else if c.kind = .broadcast ∧ c.part ≠ 0 then ([], false, 0, 0)
  else
    let ws := read.flatMap fun r => (List.range (copyWords d.elem)).map fun k => packPair ((r.1.drop (8 * k)).take 8)
    let base := if c.kind = .allGather then c.part * ws.length else 0
    ((List.range ws.length).zip ws |>.map fun x => (base + x.1, x.2), bad, 0, 0)

/-- Values of a segment: 64 KiB of the destination at the carried width (R258). -/
def segValues (w : Width) : Nat := match w with | .pair => 8192 | .s32 => 16384 | .g16 => 32768

/-- The channel of the collective's cut that carries element x (R244); none where the image gives none. -/
def collChannel (c : Collective) (x : Nat) : Option Nat :=
  (c.ranges.find? fun r => decide (r.first ≤ x) && decide (x < r.first + r.count)).map (·.channel)

/-- The port of channel k of a cut by which frames reach a rank (R244): the one that faces the next engine of the ring, or where no
route leads there the one that faces the previous. -/
def State.channelPort (s : State) (cut : Cut) (k : Option Nat) (toRank : Nat) : Option Nat :=
  match s.image with
  | none => none
  | some i => k.bind fun k => (((i.links.channels.filter fun x => x.cut == cut)[k]?).map fun x =>
      if linksReach i.links toRank 16 s.rank x.next || !linksReach i.links toRank 16 s.rank x.prev then x.next else x.prev)

/-- Cut values with their element indices into segments: of one channel each, of up to 64 KiB (R244, R258). `at'` is the place of the
first in its stage. -/
def cutSegments (c : Collective) (words : Nat) : Nat → List (Nat × Pair) → List (Option Nat × Nat × List Pair)
  | _, [] => []
  | at', v :: t =>
    let k := collChannel c (v.1 / words)
    match cutSegments c words (at' + 1) t with
    | (k', a, vs) :: rest => if k = k' ∧ a = at' + 1 ∧ vs.length < segValues c.width then (k, at', v.2 :: vs) :: rest else (k, at', [v.2]) :: (k', a, vs) :: rest
    | [] => [(k, at', [v.2])]

/-- Send values to a part in segments, each on the port of its channel (R244, R258). -/
def State.sendSegments (s : State) (c : Collective) (k toPart : Nat) (vals : List (Nat × Pair)) : State :=
  let words := if collReduces c then 1 else max 1 (copyWords (s.desc c.src).elem)
  (cutSegments c words 0 vals).foldl (fun s g =>
    s.post (.segment toPart (s.channelPort c.cut g.1 (c.ranks.getD toPart 0)) ⟨c.num, k, c.part, g.2.1, g.2.2⟩)) s

/-- The value at position i that has arrived in a stage from a part. -/
def segAt (l : List Segment) (num k src i : Nat) : Option Pair :=
  (l.find? fun g => g.coll == num && g.stage == k && g.part == src && decide (g.first ≤ i) && decide (i < g.first + g.vals.length)).map
    fun g => g.vals.getD (i - g.first) Pair.zero

/-- The n values that a part sends in a stage, once all have arrived. -/
def segAll (l : List Segment) (num k src n : Nat) : Option (List Pair) :=
  let vs := (List.range n).map fun i => segAt l num k src i
  if vs.all Option.isSome then some (vs.map fun v => v.getD Pair.zero) else none

/-- Drop the segments of a stage from a part. -/
def segDrop (l : List Segment) (num k src : Nat) : List Segment :=
  l.filter fun g => !(g.coll == num && g.stage == k && g.part == src)

/-- The indices that holder h of the gather holds. -/
def State.gatherSet (s : State) (c : Collective) (h : Nat) : List Nat :=
  let n := s.collSize c
  match c.kind with
  | .broadcast => List.range n
  | .allGather => let m := n / max 1 c.ranks.length; (List.range m).map (h * m + ·)
  | _ =>
    let e := match collGroups c with | g :: _ => g.2 | [] => 0
    (List.range n).filter fun x => if c.ordered then holdsPiece c h e (collPieceOf c n x) else collPieceOf c n x == h

/-- Change the state of a collective in progress. -/
def State.modColl (s : State) (num : Nat) (f : CollSt → CollSt) : State :=
  { s with chain := { s.chain with colls := s.chain.colls.map fun x => if x.num = num then f x else x } }

/-- Enter phase p: what this part sends, and what it keeps. -/
def State.enterPhase (s : State) (c : Collective) (st : CollSt) (p : Phase) : State :=
  let n := s.collSize c
  match p with
  | .swap k partner =>
    let keep := fun (x : Nat × Pair) => (collPieceOf c n x.1).testBit k == keepsUpper c c.part k
    let s := s.sendSegments c k partner (st.cur.filter fun x => !keep x)
    s.modColl c.num fun y => { y with cur := y.cur.filter keep }
  | .take _ _ => s
  | .give k e dst =>
    let s := dst.foldl (fun s d => s.sendSegments c k d (st.cur.filter fun x => holdsPiece c d e (collPieceOf c n x.1))) s
    s.modColl c.num fun y => { y with cur := [] }
  | .ring t =>
    let q := c.ranks.length
    let piece := (c.part + 2 * q - 1 - t) % q
    s.sendSegments c t ((c.part + 1) % q) (st.cur.filter fun x => collPieceOf c n x.1 == piece)
  | .gather hs =>
    if hs.contains c.part then
      ((List.range c.ranks.length).filter (· ≠ c.part)).foldl (fun s p => s.sendSegments c 200 p st.cur) s
    else s

/-- Combine values that arrived with those held at the same places: one node each, at the carried width, and what that counts (R103, R172,
R259). -/
def combineHeld (w : Width) (cur : List (Nat × Pair)) (vs : List Pair) : List (Nat × Pair) × Nat × Nat :=
  let out := (cur.zip vs).map fun x => (x.1.1, widthRound w (node x.1.2 x.2))
  (out.map fun o => (o.1, o.2.1), convCounts (out.map fun o => o.2.2))

/-- Finish phase p if everything it waits for has arrived: what is then held, what its roundings count, and the segments left. -/
def State.phaseResult (s : State) (c : Collective) (st : CollSt) (p : Phase) : Option ((List (Nat × Pair) × Nat × Nat) × List Segment) :=
  let n := s.collSize c
  let sg := s.chain.segs
  match p with
  | .swap k src | .take k src =>
    (segAll sg c.num k src st.cur.length).map fun vs => (combineHeld c.width st.cur vs, segDrop sg c.num k src)
  | .give _ _ _ => some ((st.cur, 0, 0), sg)
  | .ring t =>
    let q := c.ranks.length
    let piece := (c.part + 2 * q - 2 - t) % q
    let src := (c.part + q - 1) % q
    let mine := st.cur.filter fun x => collPieceOf c n x.1 == piece
    (segAll sg c.num t src mine.length).map fun vs =>
      let (new, o, u) := combineHeld c.width mine vs
      let rest := st.cur.filter fun x => collPieceOf c n x.1 != piece
      ((if t + 2 = q then new else new ++ rest, o, u), segDrop sg c.num t src)
  | .gather hs =>
    let need := hs.filter (· ≠ c.part)
    let got := need.map fun h => (segAll sg c.num 200 h (s.gatherSet c h).length).map fun vs => (s.gatherSet c h).zip vs
    if got.all Option.isSome then
      some ((st.cur ++ got.flatMap fun g => g.getD [], 0, 0), need.foldl (fun l h => segDrop l c.num 200 h) sg)
    else none

/-- The writes of a delivered result; in a format that Table 2.6 gives a reduction no conversion to, free values (R54, log entry 142). -/
def State.collWrites (s : State) (c : Collective) (st : CollSt) : List ByteWrite × Nat × Nat :=
  let d := s.desc c.dst
  let pos := d.rowMajorPositions
  if (collReduces c) then
    let vs := if c.kind = .reduceScatter then (List.range st.cur.length).zip ((st.cur.map (·.2))) else st.cur
    let out := vs.filterMap fun v => (pos[v.1]?).map fun i =>
      (i, if d.format = fmtS32C ∨ d.format = fmtG16C then pairTo d.format d.pair (s.descSe d) v.2
        else (⟨0, false, false⟩, toBytesLE d.elem.bytes (Config.unlisted fmtS32C d.format (bytesLE (unpackPair v.2))).toNat))
    (out.flatMap fun o => match s.whereIs d d.elem o.1 with | .here l => writesAt l o.2.2 st.bad | .away _ => [],
      (out.filter fun o => o.2.1.ovf).length, (out.filter fun o => o.2.1.unf).length)
  else
    let w := copyWords d.elem
    ((pos.zip (List.range pos.length)).flatMap fun p =>
      let b := (List.range w).flatMap fun k => match st.cur.find? fun x => x.1 == p.2 * w + k with | some x => unpackPair x.2 | none => []
      if b.length = 8 * w then (match s.whereIs d d.elem p.1 with | .here l => writesAt l (b.take d.elem.bytes) st.bad | .away _ => [])
      else [], 0, 0)

/-- Deliver the result of a collective to this engine: its REDUCE entry's work is done (R292). The roundings to the carried width count for
the destination's tensor (DESIGN CHOICE, log entry 143). -/
def State.deliver (s : State) (c : Collective) (st : CollSt) : State :=
  let (ws, o, u) := s.collWrites c st
  let s := (s.countConv (s.desc c.dst) (o + st.ovf) (u + st.unf)).storeBatch ⟨some st.ctx, st.queue, st.index, clsFur⟩ false ws
  (s.modColl c.num fun y => { y with finished := true }).finishFlight st.ctx st.queue st.index

/-- Carry a collective on as far as the segments that have arrived allow. -/
def State.advanceColl : Nat → State → Nat → State
  | 0, s, _ => s
  | n + 1, s, num =>
    match s.collective num, s.chain.colls.find? fun x => x.num == num with
    | some c, some st =>
      if st.finished then s
      else
        match (collPhases c)[st.phase]? with
        | none => s.deliver c st
        | some p =>
          match s.phaseResult c st p with
          | none => s
          | some ((cur, o, u), sg) =>
            let st := { st with cur := cur, phase := st.phase + 1, ovf := st.ovf + o, unf := st.unf + u }
            let s : State := { s.modColl num fun _ => st with
              chain := { (s.modColl num fun _ => st).chain with segs := sg } }
            State.advanceColl n (match (collPhases c)[st.phase]? with | some p => s.enterPhase c st p | none => s) num
    | _, _ => s

/-- A segment of a reduction is staged in the working region: in what form its slot holds it is open, so the bytes there are (R258, log
entry 123). -/
def State.stageSegment (s : State) (c : Collective) (g : Segment) : State :=
  if collReduces c && !g.vals.isEmpty then
    let a := c.staging + 65536 * (g.first / segValues c.width)
    let n := (g.vals.length * (65536 / segValues c.width) + 63) / 64
    let d := (List.range (64 * n)).map fun i => Config.freeByte (s.free + i)
    ({ s with free := s.free + 64 * n } : State).storeBatch Who.furlong false (bytesAt 0 (a / 64 * 64) d false)
  else s

/-- The slots of a collective open, once; the segments that wait for them in the receive buffers are staged (R28, R258). -/
def State.openSlots (s : State) (c : Collective) : State :=
  if s.chain.opened.contains c.num then s
  else
    let s : State := { s with chain := { s.chain with opened := c.num :: s.chain.opened } }
    let o := s.fld mapSlotsOpen 0 + c.slots
    let s := (s.setFld mapSlotsOpen 0 o).setFld mapSlotsPeak 0 (max o (s.fld mapSlotsPeak 0))
    (s.chain.segs.filter fun g => g.coll == c.num).foldl (fun s g => s.stageSegment c g) s

/-- The Keg bytes of a collective's source. -/
def State.collKegKeys (s : State) (c : Collective) : List Nat :=
  let d := s.desc c.src
  kegKeys (d.rowMajorPositions.flatMap fun i => (s.whereIs d d.elem i).places)

/-- The source of a collective is read for a REDUCE entry: holes, SRAM errors, requests, landing rings, and a report of poison that no
response will bring (R204, R208, R211, R214). -/
def State.readColl (s : State) (c : Collective) (ctx q i : Nat) : State :=
  let d := s.desc c.src
  let codes := (d.rowMajorPositions.flatMap fun p => (s.whereIs d d.elem p).codes).eraseDups
  let now := s.reportsNow codes
  let keg := s.kegBad codes
  let s := ((s.touchHoles codes).kegErrors codes).issueReads ⟨some ctx, q, i, clsFur⟩ false (codes.map fun u => (u, [markColl c.num]))
  let s := s.freeRing (s.collKegKeys c)
  if now then s.uncorrFault ctx q i (if keg then 3 else 2) else s

/-- Start a collective (R28, R258, R291): its slots are open, its source is read, its first phase begins. -/
def State.startColl (s : State) (num ctx q i : Nat) : State :=
  match s.collective num with
  | none => s.finishFlight ctx q i
  | some c =>
    let (cur, bad, o, u) := s.collInput c
    let st : CollSt := ⟨num, ctx, q, i, bad, 0, cur, false, o, u⟩
    let s : State := { s with chain := { s.chain with colls := s.chain.colls.filter (fun x => x.num ≠ num) ++ [st] } }
    let s := (s.openSlots c).readColl c ctx q i
    State.advanceColl 64 (match (collPhases c)[0]? with | some p => s.enterPhase c st p | none => s) num

/-- The reductions of layer l. A layer without one has no layer-complete token: the spec ties the token to its reduction alone (log entry
122). -/
def State.layerColls (s : State) (l : Nat) : List Collective :=
  match s.image with
  | some i => i.links.collectives.filter fun c => c.layer == some l && (collReduces c)
  | none => []

/-- The layer-complete token of layer l: its context's tokens and the units that hold slices of it (R29, R223); in a skipped step no unit takes
it up (R234). -/
def State.layerComplete (s : State) (l : Nat) : State :=
  let s := s.raiseSource fun x => match x with | .unitLayerComplete k => k == l | _ => false
  match s.layerRecs[l]? with
  | none => s
  | some r =>
    { s with upd := { s.upd with
        layers := s.upd.layers.modify l fun x => { x with token := true, step := s.epoch.toNat }
        units := (s.upd.units.zip (List.range s.upd.units.length)).map fun u =>
          if r.slices.any (fun y => y.unit == u.2) && !u.1.queue.contains l && !s.upd.skipped then { u.1 with queue := u.1.queue ++ [l] } else u.1 } }

/-- A collective is complete on every engine (R28): its slots are released, and
the layer is complete when each of its reductions is. -/
def State.collComplete (s : State) (c : Collective) : State :=
  let s : State := { s.setFld mapSlotsOpen 0 (s.fld mapSlotsOpen 0 - c.slots) with
    chain := { s.chain with
      colls := s.chain.colls.filter (fun x => x.num ≠ c.num)
      reduced := c.num :: s.chain.reduced
      opened := s.chain.opened.filter (· ≠ c.num) } }
  match c.layer with
  | none => s
  | some l =>
    if (collReduces c) && (s.layerColls l).all (fun x => s.chain.reduced.contains x.num) && !s.chain.layerTokens.contains l then
      ({ s with chain := { s.chain with layerTokens := l :: s.chain.layerTokens } } : State).layerComplete l
    else s

/-- REDUCTION_COMPLETE (R28, R29): the collective has completed on every engine of the cut. -/
def execReductionComplete (coll : Nat) (s : State) : Out :=
  .next (
    match s.collective coll, s.chain.colls.find? fun x => x.num == coll with
    | some c, some st => if st.finished then s.collComplete c else s
    | _, _ => s)

/-- COLLECTIVE_SEGMENT (R258, R259): staged once its slot is open, and until then it waits in the receive buffer; combined when its
collective has come so far. -/
def execCollectiveSegment (g : Segment) (s : State) : Out :=
  .next (
    if s.works && s.admState == admRunning then
      let s := match s.collective g.coll with
        | some c => if s.chain.opened.contains c.num then s.stageSegment c g else s
        | none => s
      State.advanceColl 64 { s with chain := { s.chain with segs := s.chain.segs ++ [g] } } g.coll
    else s)

/-- Whether the micro-batch that context c runs is the last accepted one of the step; none while that is not known (R28). -/
def State.lastMb (s : State) (c : Nat) : Option Bool :=
  let x := s.ctx c
  let later := s.mbs.any fun m => m.step == x.mbStep && match m.acc with | some a => decide (x.accMb < a) | none => false
  if later then some false
  else match s.image with
  | some i => if s.allOpened i then some true else none
  | none => none

/-- Whether entry w is a dW drain of the layer that a collective reduces: into its source tensor, or into a tracked WGRAD tensor whose
LAYER is that of the layer's weights (R28, R237, log entry 124). -/
def State.feedsColl (s : State) (c : Collective) (w : BitVec 512) : Bool :=
  entKind w == kDrain &&
    let d := s.desc (drainDst w)
    let lay := fun t => (s.track t).map fun e => e.stat.layer
    d.tnum == (s.desc c.src).tnum || (d.tracked &&
      match s.track d.tnum, (c.layer.bind fun l => s.layerRecs[l]?) with
      | some e, some r => e.stat.kind == kindWgrad && lay r.wt == some e.stat.layer
      | _, _ => false)

/-- Context x has still to write a dW drain of the layer in the micro-batch that it runs. -/
def State.drainsLeft (s : State) (x : Nat) (c : Collective) : Bool :=
  (s.ctx x).flight.any (fun f => s.feedsColl c f.word) ||
    (indexed (s.ctx x).queues).any fun u =>
      !u.1.ended && ((s.tileQueue (s.ctx x).bucket x u.2).drop u.1.ptr).any (s.feedsColl c)

/-- Context x will drain no more of the layer's weight gradient in this step (R28). -/
def State.ctxDrained (s : State) (x : Nat) (c : Collective) : Bool :=
  let has := match s.image with
    | some i => i.tiles.any fun t => t.ctx == x && t.entries.any (s.feedsColl c)
    | none => false
  !has || if (s.ctx x).running then s.lastMb x == some true && !s.drainsLeft x c
    else (match s.image with | some i => s.allOpened i | none => false) &&
      decide ((s.ctx x).finished = (s.mbs.filter fun m => m.acc.isSome).length)

/-- The last dW drain of the step has been written for the layer that a collective reduces. -/
def State.layerDrained (s : State) (c : Collective) : Bool := s.usedCtx.all fun x => s.ctxDrained x c

/-- A drain entry has completed: the slots of the layers whose last dW drain it was open (R28). -/
def State.openAfter (s : State) (w : BitVec 512) : State :=
  match s.image with
  | none => s
  | some i =>
    (i.links.collectives.filter fun c => collReduces c && c.layer.isSome && s.feedsColl c w && !s.chain.reduced.contains c.num).foldl
      (fun s c => if s.layerDrained c then s.openSlots c else s) s

/-- Whether a REDUCE entry starts its collective: the reduction of a layer's weight gradient waits for the last accepted
micro-batch and for the layer's last dW drain, and in an earlier micro-batch the entry is done at its issue (R28, log entry 36). None: not
known yet, or a drain is still to be written. -/
def State.reduceStarts (s : State) (c num : Nat) : Option Bool :=
  match s.collective num with
  | some k =>
    if (collReduces k) && k.layer.isSome then
      match s.lastMb c with
      | some true => if s.layerDrained k then some true else none
      | x => x
    else some true
  | none => some false

end Sys2Proof.Machine
end

