-- ==== Sys2Proof/Machine/FxRecords.lean ====
section
/-!
DEFINITION. Sys2Proof/Machine/FxRecords.lean: the records of the forward complex: micro-batch-open, layer-done, seed-done, amax, outbound
credits, and the releases of stash and seed entries (R22 to R26, R198 to R202, Table 14.5).
-/
namespace Sys2Proof.Machine

/-! ## Releases -/

/-- The entry at a tile table position has completed: the stash and seed entries it releases, and the beats that waited. -/
def State.releaseAt (s : State) (c q i : Nat) : State :=
  let x := s.ctx c
  match s.buckets[x.bucket]? with
  | none => s
  | some b =>
    let p : Pos := ⟨c, q, i⟩
    let frees := fun (h : Holding) => h.step == x.mbStep && h.mb == x.mbNum &&
      (if h.seed then b.seeds.any fun r => r.entry == h.entry && r.release == p
       else b.stash.any fun r => r.entry == h.entry && r.place != .recomp && r.release == p)
    if s.fx.holding.any frees then
      (({ s with fx := { s.fx with holding := s.fx.holding.filter fun h => !frees h } } : State).flushPushes).flushSeeds
    else s

/-! ## Records (Table 14.5) -/

/-- A record of micro-batch (step, mb) is consumed, and its credit returns (R294, Table 14.4). -/
def State.record (s : State) (step mb : Nat) (f : State → State) : State := s.withCredit 3 true fun s => f (s.returnFor 3 step mb)

/-- Every dW destination of tile tables (R200). -/
def dwDests (ts : List TileQueue) : List Nat :=
  (ts.flatMap fun t => (t.entries.foldl (fun (acc : List Nat × List Nat) w =>
    if entKind w = kPass then ((if (passOf w).dW then entTile w :: acc.1 else acc.1.filter (· ≠ entTile w)), acc.2)
    else if entKind w = kDrain ∧ acc.1.contains (entTile w) = true then (acc.1, drainDst w :: acc.2)
    else acc) ([], [])).2).eraseDups

/-- The REDUCE entries of weight-gradient reductions: context, queue, index, collective. -/
def reduceEntries (i : Image) (ts : List TileQueue) : List (Nat × Nat × Nat × Nat) :=
  ts.flatMap fun t => (indexed t.entries).filterMap fun p =>
    if entKind p.1 = kReduce then
      (if i.links.collectives.any fun c => c.num == reduceColl p.1 && c.layer.isSome && collReduces c then
        some (t.ctx, t.queue, p.2, reduceColl p.1) else none)
    else none

/-- Every micro-batch of the step was refused: +0 to every dW destination, and the reductions start with it (R200, log entry
37). -/
def State.zeroGradients (s : State) : State :=
  match s.image with
  | none => s
  | some i =>
    let s := (dwDests s.tilesInForce).foldl (fun s n =>
      s.putElems Who.engine n ((s.desc n).rowMajorPositions.map fun p => (p, List.replicate (s.desc n).elem.bytes 0))) s
    (reduceEntries i s.tilesInForce).foldl (fun s e =>
      if s.chain.colls.any (fun c => c.num == e.2.2.2) || s.chain.reduced.contains e.2.2.2 then s
      else s.startColl e.2.2.2 e.1 e.2.1 e.2.2.1) s

/-- Accept or refuse a micro-batch-open record of the current step (R198 to R200). -/
def State.openMb (s : State) (step mb n : Nat) : State :=
  match s.image with
  | none => s
  | some i =>
    if (s.mbRec step mb).isSome then s
    else
      let k := if n = 0 ∨ i.nmb ≤ mb then none else i.buckets.findIdx? fun b => decide (n ≤ b.len)
      let seed := s.fx.earlySeeds.contains (step, mb)
      let s := match k with
        | none =>
          let s : State := { s with mbs := s.mbs ++ [⟨step, mb, n, none, none, seed⟩] }
          (((s.fxSend [.refusal step mb]).bump layStashRefused 0 1).setFld cfgAdmitCode 0 11 |>.logEv 0x0402 6 0 (mb + 4096 * n)).raiseFx .refusal 0 step mb |>.flushPushes.flushSeeds
        | some k =>
          let acc := (s.mbs.filter fun m => m.acc.isSome).length
          let s : State := { s with mbs := s.mbs ++ [⟨step, mb, n, some k, some acc, seed⟩] }
          let s := ((s.setFld layStashBucketLast 0 k).raiseFx .mbOpen 0 step mb).grantSeeds.flushPushes.flushSeeds
          if seed then s.raiseFx .seed 0 step mb else s
      if decide (mb < i.nmb) && s.allOpened i && s.mbs.all (fun m => m.acc.isNone) then s.zeroGradients else s

/-- MICRO_BATCH_OPEN (R198, R297): a record of the next step is held until its epoch opens. -/
def execMicroBatchOpen (step mb n : Nat) (s : State) : Out :=
  .next (s.withCredit 3 true fun s =>
    if s.admState = admRunning ∧ step = s.curStep ∧ s.chain.reshard.isNone then (s.openMb step mb n).returnFor 3 step mb
    else if step = (s.curStep + 1) % 2 ^ 32 ∨ (step = s.curStep ∧ s.chain.reshard.isSome) then { s with fx := { s.fx with earlyOpens := s.fx.earlyOpens ++ [(step, mb, n)] } }
    else s.giveBack 3)

/-- LAYER_DONE (R25, R201, R293): the amax records and pushes before it belong to its step and micro-batch; the padding of the layer's
entries, and the FX tokens of the layer. -/
def execLayerDone (step mb layer : Nat) (s : State) : Out :=
  .next (s.record step mb fun s =>
    let s := s.fx.amax.foldl (fun s a => s.measureFx a.1 (({} : Amax).takeF a.2) step) s
    let s : State := { s with fx := { s.fx with
      amax := []
      wait0 := s.fx.wait0.map fun b => if b.own.isNone then { b with own := some (step, mb) } else b
      pads := s.fx.pads ++ [(step, mb, layer)] } }
    let s := s.flushPushes
    if s.mbRefused step mb then s else s.raiseFx .layerDone layer step mb)

/-- SEED_DONE (R26, R202): the seed of the micro-batch has arrived. -/
def execSeedDone (step mb : Nat) (s : State) : Out :=
  .next (s.record step mb fun s =>
    let s : State := { s with fx := { s.fx with
      wait2 := s.fx.wait2.map fun b => if b.own.isNone then { b with own := some (step, mb) } else b
      seedPads := s.fx.seedPads ++ [(step, mb)] } }
    match s.mbRec step mb with
    | none => { s with fx := { s.fx with earlySeeds := s.fx.earlySeeds ++ [(step, mb)] } }
    | some m =>
      let s := s.flushSeeds
      if m.bucket.isNone then s
      else
        let s : State := { s with mbs := s.mbs.map fun x => if x.step = step ∧ x.mb = mb then { x with seed := true } else x }
        (s.raiseFx .seed 0 step mb).flushPushes)

/-- AMAX_RECORD (R25, R163, R401): it waits for the layer-done that attributes it; the sign is ignored. A record whose TYPE is none of 1 to 4
is discarded and recorded (log entry 157). -/
def execAmaxRecord (type tnum : Nat) (amax : F32) (s : State) : Out :=
  .next (s.withCredit 3 true fun s =>
    let s := s.giveBack 3
    if type = 4 then { s with fx := { s.fx with amax := s.fx.amax ++ [(tnum, amax)] } }
    else s.logEv 0x0302 15 0 (type + 2 ^ 63))

/-- Beats, padding and seed-done records of steps that have closed: their beats are discarded with a record, and their credits
return (R22, log entry 116). -/
def State.dropFx (s : State) (gone : Nat → Bool) : State :=
  let old := fun (b : Beat) => match b.own with | some p => gone p.1 | none => false
  let a := s.fx.wait0.filter old
  let c := s.fx.wait2.filter old
  let s : State := { s with fx := { s.fx with
    wait0 := s.fx.wait0.filter fun b => !old b
    wait2 := s.fx.wait2.filter fun b => !old b
    pads := s.fx.pads.filter fun p => !gone p.1
    seedPads := s.fx.seedPads.filter fun p => !gone p.1
    earlySeeds := s.fx.earlySeeds.filter fun p => !gone p.1 } }
  let drop := fun (cls : Nat) (s : State) (b : Beat) => let p := b.own.getD (0, 0); s.refuseBeat cls b p.1 p.2
  ((c.foldl (drop 2) (a.foldl (drop 0) s)).payWindow).showPushWait

/-- FXO_CREDIT (R401): outbound credits, and what waited for them. -/
def execFxoCredit (beats records : Nat) (s : State) : Out :=
  .next (
    if s.fxOn then
      ({ s with fx := { s.fx with outData := s.fx.outData + beats, outRec := s.fx.outRec + records } } : State).fxPump
    else s)

end Sys2Proof.Machine
end

