-- ==== Sys2Proof/Machine/Remote.lean ====
section
/-!
DEFINITION. Sys2Proof/Machine/Remote.lean: moves as the sequencer runs them, and remote gather and scatter through the holder table
(R136 to R152, R265, R266).
-/
namespace Sys2Proof.Machine

/-- The ranks that hold pieces of a tensor (R150). -/
def State.holderRanks (s : State) (holder : Nat) : List Nat :=
  match s.holderAt holder with
  | some h => ((List.range h.nhold).map fun k => (h.first + k * h.step) % s.chainSize).eraseDups
  | none => [s.rank]

/-! ## The holder's side -/

/-- The place of an element that this engine holds. -/
def State.heldPlace (s : State) (d : Desc) (pos : List Nat) : Option (List (Option Loc)) :=
  match s.whereIs d d.elem pos with
  | .here l => some l
  | .away _ => none

/-- Write a contribution as an overwrite. -/
def State.putItem (s : State) (d : Desc) (x : WItem) : State :=
  match s.heldPlace d x.pos with
  | some l => s.storeBatch Who.furlong false (writesAt l x.bytes x.bad)
  | none => s

/-- Combine a contribution into its element. -/
def State.addItem (s : State) (d : Desc) (x : WItem) : State :=
  match s.heldPlace d x.pos with
  | some l => (s.combineAt Who.furlong d l x.bytes x.bad).1
  | none => s

/-- Combine a contribution of an add drain: the combine unit measures the sum and counts its conversion (R107, R111). -/
def State.addDrained (s : State) (d : Desc) (mb : Nat) (x : WItem) : State :=
  match s.heldPlace d x.pos with
  | none => s
  | some l =>
    let (old, ob) := s.readLocs l
    let s := s.kegErrors (locCodes l)
    let (c, b, v, _) := sumInto d (s.descSe d) old (signed 32 (bytesLE x.bytes)) (ofF32 x.val.s) (ofF32 x.val.e)
    let s := s.countConv d (if c.ovf then 1 else 0) (if c.unf then 1 else 0)
    let s := s.storeBatch Who.furlong true (writesAt l b (x.bad || ob))
    if d.tracked then s.measure d.tnum (({} : Amax).take v) (some mb) else s

/-- The number of moves whose PARTs, 0 on, make one chain (R151); the image gives it (DESIGN CHOICE, log entry 152). -/
def State.partCount (s : State) (desc : Nat) : Nat :=
  match s.image with
  | some i => ((i.links.moveSlots.find? fun x => x.1 == desc).map (·.2)).getD 1
  | none => 1

/-- The next PART of a destination's chain. -/
def State.nextPart (s : State) (desc : Nat) : Nat := ((s.chain.parts.find? fun p => p.1 == desc).map (·.2)).getD 0

/-- Apply the ordered adds whose PART is next, in PART order (R151). -/
def State.drainParts : Nat → State → Nat → State
  | 0, s, _ => s
  | n + 1, s, desc =>
    let p := s.nextPart desc
    match s.chain.writes.find? fun w => w.desc == desc && w.part == p with
    | none => s
    | some w =>
      let s : State := { s with chain := { s.chain with
        writes := s.chain.writes.filter (· ≠ w)
        parts := (desc, (p + 1) % max 1 (s.partCount desc)) :: s.chain.parts.filter fun x => x.1 != desc } }
      State.drainParts n (w.items.foldl (fun s x => s.addItem (s.desc desc) x) s) desc

/-- Overwrites: the highest (PART, j) of a round remains (R144); a PART seen before begins a new round (log entry 38). -/
def State.overwriteItems (s : State) (w : WriteReq) : State :=
  let (seen, best) := ((s.chain.overwrites.find? fun o => o.1 == w.desc).map (·.2)).getD ([], [])
  let fresh := seen.contains w.part
  let seen := if fresh then [w.part] else w.part :: seen
  let best := if fresh then [] else best
  let (s, best) := w.items.foldl (fun (acc : State × List (List Nat × Nat × Nat)) x =>
    let (s, best) := acc
    let wins := match best.find? fun b => b.1 == x.pos with
      | some b => decide (b.2.1 < w.part) || (b.2.1 == w.part && decide (b.2.2 ≤ x.j))
      | none => true
    if wins then (s.putItem (s.desc w.desc) x, (x.pos, w.part, x.j) :: best.filter fun b => b.1 != x.pos) else (s, best)) (s, best)
  { s with chain := { s.chain with overwrites := (w.desc, seen, best) :: s.chain.overwrites.filter fun o => o.1 != w.desc } }

/-- Apply a remote write whose tag agrees (R151). -/
def State.applyWrite (s : State) (w : WriteReq) : State :=
  if !w.add then s.overwriteItems w
  else match w.drainMb with
  | some mb => w.items.foldl (fun s x => s.addDrained (s.desc w.desc) mb x) s
  | none =>
  if w.arrival then w.items.foldl (fun s x => s.addItem (s.desc w.desc) x) s
  else State.drainParts 1024 { s with chain := { s.chain with writes := s.chain.writes ++ [w] } } w.desc

/-- The piece of a holder entry that position idx lies in (R150). -/
def State.pieceOf (s : State) (holder : Nat) (idx : List Nat) : Nat :=
  match s.holderAt holder with
  | some h => if 5 ≤ h.dim ∨ h.pieceExt = 0 then 0 else idx.getD h.dim 0 / h.pieceExt
  | none => 0

/-- The tag of a piece that this engine holds (R265). -/
def State.pieceTag (s : State) (holder piece : Nat) : Nat :=
  match s.chain.pieces.find? fun p => p.1 == holder && p.2.1 == piece with
  | some p => p.2.2 % 65536
  | none =>
    match s.chain.tags.find? fun t => t.1 == holder with
    | some t => t.2 % 65536
    | none => ((s.holderAt holder).map (·.vtag)).getD 0

/-- The first tag among the pieces of an access that differs from the one it carries (R266). -/
def State.staleTag (s : State) (holder vtag : Nat) (ps : List (List Nat)) : Option Nat :=
  (ps.map fun p => s.pieceTag holder (s.pieceOf holder p)).find? (· ≠ vtag)

/-- REMOTE_WRITE (R151, R266): applied, or discarded with a stale response. -/
def execRemoteWrite (w : WriteReq) (s : State) : Out :=
  .next (
    if !s.onChain then s
    else match s.staleTag w.holder w.vtag (w.items.map (·.pos)) with
    | some t => s.post (.stale w.rank w.holder w.desc w.part t (if w.add then 1 else 2))
    | none => s.applyWrite w)

/-- REMOTE_READ_REQUEST (R150, R204, R266): data once it has been read, or a stale response; the symbol code may correct Keg words, or find
some beyond correction (R203). -/
def execRemoteReadRequest (r : ReadReq) (kegFixed kegLost : List FixedWord) (s : State) : Out :=
  .next (
    if !s.onChain then s
    else match s.staleTag r.holder r.vtag r.elems with
    | some t => s.post (.stale r.rank r.holder r.desc r.part t 2)
    | none =>
      let s := (s.kegCorrected kegFixed).kegLost kegLost
      let d := s.desc r.desc
      let items := r.elems.filterMap fun p => (s.heldPlace d p).map fun l => (p, l, s.readLocs l)
      let codes := (items.flatMap fun i => locCodes i.2.1).eraseDups
      let s := ((s.touchHoles codes).kegErrors codes).freeRing (kegKeys (items.flatMap fun i => i.2.1))
      let feeds := fun c => ((indexed items).filter fun i => (locCodes i.1.2.1).contains c).map fun i => i.2
      s.holdMsg Who.furlong (codes.map fun c => (c, feeds c))
        (.readResp r.rank ⟨s.rank, r.holder, r.desc, r.part, items.map fun i => (i.1, i.2.2)⟩))

/-! ## Order of the writes of a context (R87, R107, R139) -/

/-- The FIRST pass of the tile that the pass at position i belongs to: the last one at or before it that names its tile. -/
def State.firstOf (s : State) (c q i t : Nat) : Nat :=
  let es := s.tileQueue (s.ctx c).bucket c q
  (((List.range (i + 1)).reverse).find? fun j =>
    let w := es.getD j 0
    entKind w == kPass && entTile w == t && (passOf w).first).getD i

/-- The position of entry (i, c) in the destination (R289). -/
def drainPos (i c : Nat) : List Nat := [c, i, 0, 0, 0]

/-- Rows and columns of the tile that the drain at position i takes: the most that a pass of it names. -/
def State.drainShape (s : State) (c q i : Nat) (w : BitVec 512) : Nat × Nat :=
  let es := s.tileQueue (s.ctx c).bucket c q
  let f := s.firstOf c q i (entTile w)
  let ps := ((List.range (i + 1)).drop f).filterMap fun j =>
    let x := es.getD j 0
    if entKind x = kPass ∧ entTile x = entTile w then some (passOf x) else none
  (ps.foldl (fun n p => max n p.rows) 0, ps.foldl (fun n p => max n p.cols) 0)

/-- The units and words of an element, or a number of its own for one that another engine holds. -/
def State.marks (s : State) (d : Desc) (e : Elem) (pos : List Nat) : List Nat :=
  match s.whereIs d e pos with
  | .here l => locCodes l
  | .away k => [2 ^ 50 * (pos.foldl (fun n x => n * 2 ^ 24 + x) (k * 2 ^ 13 + d.holder + 1))]

/-- The positions that a gather or scatter may name on the side that its indices select: every valid index at each position of the other
side (R142, R143). -/
def movePicks (m : MoveArgs) : List (List Nat) :=
  let d := if m.kind = 1 then m.dst else m.src
  let g := m.src.elem.groups
  positions rowMajor ((d.space5 g).set m.gdim (indexBound m))

/-- The units and words that an entry in flight may write: those of a drain's rows and fusion records, and of a move's destination, all
that its extents or its indices can name. -/
def State.flightWrites (s : State) (c : Nat) (f : Flight) : List Nat :=
  if entKind f.word = kDrain then
    let d := s.desc (drainDst f.word)
    let (r, k) := s.drainShape c f.queue f.index f.word
    let cells := (List.range r).flatMap fun i => (List.range k).flatMap fun x => s.marks d d.elem (drainPos i x)
    let recs := if drainFuse f.word then (List.range r).map fun i => (drainAddr f.word + 32 * i) % 2 ^ 42 / 64 else []
    cells ++ recs
  else if entKind f.word = kMove then
    let m := s.moveOf f.word
    let e := s.dstElem m
    (if m.kind = 2 then movePicks m else positions rowMajor (m.dst.space5 e.groups)).flatMap (s.marks m.dst e)
  else []

/-- The units and words that a move may read: of its source, all that its extents or its indices can name, and of its index tensor. -/
def State.moveReads (s : State) (m : MoveArgs) : List Nat :=
  let e := m.src.elem
  (if m.kind = 1 then movePicks m else positions rowMajor (m.src.space5 e.groups)).flatMap (s.marks m.src e) ++
    (moveIndices m).flatMap fun j => s.marks m.idx indexElem (indexPos m j)

/-- Contributions of an entry's ordered add that this engine, their holder, still keeps for an earlier PART (R151). -/
def State.ownParts (s : State) (f : Flight) : Bool :=
  let m := s.moveOf f.word
  entKind f.word == kMove && m.add && m.dst.dist &&
    s.chain.writes.any fun w => w.rank == s.rank && w.desc == m.dstNo && w.part == m.part

/-- The drains and moves of a context issued before entry (q, i), still to be carried out, that write one of the given units and
words; a reissued entry is issued anew. -/
def State.writersBefore (s : State) (c q i : Nat) (codes : Unit → List Nat) : List (Nat × Nat) :=
  let fs := ((s.ctx c).flight.takeWhile fun f => !(f.queue == q && f.index == i)).filter fun f =>
    (!f.finished || s.ownParts f) && (entKind f.word == kDrain || entKind f.word == kMove)
  if fs.isEmpty then []
  else
    let cs := codes ()
    (fs.filter fun f => (s.flightWrites c f).any cs.contains).map fun f => (f.queue, f.index)

/-- Whether an entry that a move waits for has still to complete: it is in flight, or it is a drain not yet done (R310). -/
def State.stillWrites (s : State) (c : Nat) (x : Nat × Nat) : Bool :=
  (match s.flightOf c x.1 x.2 with | some f => !f.finished || s.ownParts f | none => false) ||
    (entKind ((s.tileQueue (s.ctx c).bucket c x.1).getD x.2 0) == kDrain && !((s.ctx c).q x.1).doneDrains.contains x.2)

/-! ## Moves (R136 to R152, R290) -/

/-- Note a remote access that an entry makes (R265). -/
def State.noteUse (s : State) (c q i rank holder desc part : Nat) (write : Bool) : State :=
  { s with chain := { s.chain with uses := s.chain.uses ++ [⟨c, q, i, (s.ctx c).accMb, rank, holder, desc, part, s.tagOf holder, write⟩] } }

/-- Send the contributions of a move to their holders (R150, R151): those of an ordered add to every holder, in one message each;
this engine's own it applies itself. -/
def State.sendWrites (s : State) (c q i : Nat) (m : MoveArgs) (ws : List (Nat × WItem)) : State :=
  let held := m.add && m.dst.dist && !m.arrival
  let ranks := if held then s.holderRanks m.dst.holder else (ws.map (·.1)).eraseDups
  ranks.foldl (fun s k =>
    let w : WriteReq := ⟨s.rank, m.dst.holder, m.dstNo, s.tagOf m.dst.holder, m.add, m.arrival, m.part, none,
      (ws.filter fun x => x.1 == k).map (·.2)⟩
    if k = s.rank then s.applyWrite w
    else (s.noteUse c q i k m.dst.holder m.dstNo m.part true).post (.writeReq k w)) s

/-- Send the contributions of a drain's row to the engines that hold their elements (R107, R150): an add is combined there in the order
in which the drains of its context send it (log entry 50). -/
def State.sendDrain (s : State) (c q i dst : Nat) (add : Bool) (ws : List (Nat × WItem)) : State :=
  let h := (s.desc dst).holder
  ((ws.map (·.1)).eraseDups).foldl (fun s k =>
    (s.noteUse c q i k h dst 0 true).post (.writeReq k ⟨s.rank, h, dst, s.tagOf h, add, false, 0, if add then some (s.ctx c).accMb else none,
      (ws.filter fun x => x.1 == k).map (·.2)⟩)) s

/-- The mover that runs an entry. -/
def State.moverOf (s : State) (c q i : Nat) : Option Nat :=
  s.movers.findIdx? fun m => match m with | some m => m.ctx == c && m.queue == q && m.index == i | none => false

/-- Mover n. -/
def State.mover (s : State) (n : Nat) : Option Mover := (s.movers[n]?).join

/-- Change mover n. -/
def State.modMover (s : State) (n : Nat) (f : Mover → Mover) : State := { s with movers := s.movers.modify n (Option.map f) }

/-- The end of a move (R143, R151, R152): what it reports, the contributions it sends, its entry's work done. -/
def State.endMove (s : State) (c q i : Nat) (m : MoveArgs) (o : MoveOut) : State :=
  let s := if o.poison then s.setFld layStatusPoisonW 0 1 else s
  let s := if o.report then s.uncorrFault c q i (if o.keg then 3 else 2) else s
  let s := s.bump layIdxdropCount c o.dropped
  (s.sendWrites c q i m o.writes).modFlight c q i fun f => { f with finished := true, dropped := o.dropped, idxFault := o.idxFault }

/-- One window of a move (R136 to R144, R204): the ring bytes that it reads are free after it. The final window writes the positions that
have no source bytes. -/
def State.moveWindow (m : MoveArgs) (w : Who) (acc : State × MoveOut) (win : Option (List Item)) : State × MoveOut :=
  match win with
  | some its =>
    let codes := (its.flatMap fun i => i.src.codes).eraseDups
    let keys := kegKeys (its.flatMap fun i => i.src.places)
    let acc := (acc.1, { acc.2 with keg := acc.2.keg || acc.1.kegBad codes })
    let (s, o) := if m.add then State.addWindow m w acc its else State.overwriteWindow m w acc its
    (s.freeRing keys, o)
  | none =>
    let pads := (acc.1.moveItems m).2.1
    (acc.1.padWindow m w pads, { acc.2 with writes := acc.2.writes ++ acc.1.padAway m pads })

/-- The next window of the move on mover n, or all that are left; the last of them ends the move (R138, R153). -/
def State.runWindows (s : State) (n c q i : Nat) (w : BitVec 512) (all : Bool) : State :=
  match s.mover n with
  | none => s
  | some v =>
    match v.next with
    | none => s
    | some k =>
      let m := { s.moveOf w with got := v.got }
      let left := s.windowsFrom m k
      let now := if all then left else left.take 1
      let (s, o) := now.foldl (State.moveWindow m ⟨some c, q, i, clsOpr⟩) (s, v.out)
      let s := s.modMover n fun v => { v with next := some (k + now.length), out := o }
      if now.length = left.length then s.endMove c q i m o else s

/-- Begin a move whose elements are all at hand: its index tensor is read, and its first window runs. -/
def State.runMoveEntry (s : State) (c q i : Nat) (w : BitVec 512) (m : MoveArgs) : State :=
  match s.moverOf c q i with
  | none => s
  | some n =>
    let (s, o) := s.beginMove m ⟨some c, q, i, clsOpr⟩
    let s := (s.freeRing (s.indexKegKeys m)).modMover n fun v => { v with next := some 0, got := m.got, out := o }
    s.runWindows n c q i w false

/-- Ask the holders for what a move of a PART needs, one request for each rank and descriptor. -/
def State.askRemote (s : State) (c q i part : Nat) (need : List (Nat × Nat × List Nat)) : State :=
  ((need.map fun n => (n.1, n.2.1)).eraseDups).foldl (fun s k =>
    let h := (s.desc k.1).holder
    let r : ReadReq := ⟨s.rank, h, k.1, part, s.tagOf h, (need.filter fun n => n.1 == k.1 && n.2.1 == k.2).map fun n => n.2.2⟩
    (s.noteUse c q i k.2 h k.1 part false).post (.readReq k.2 r)) s

/-- Run a move, or wait for the elements that other engines hold. -/
def State.startMove (s : State) (c q i : Nat) (w : BitVec 512) (got : List (Nat × List Nat × List Byte × Bool)) : State :=
  let m := { s.moveOf w with got := got }
  let need := s.moveNeeds m
  if need.isEmpty then s.runMoveEntry c q i w m
  else
    ({ s with chain := { s.chain with moves := s.chain.moves ++ [⟨c, q, i, need, got, []⟩] } } : State).askRemote c q i m.part need

/-- A move begins once the writes issued before it to what it reads and writes are complete (R139). -/
def State.orderMove (s : State) (c q i : Nat) (w : BitVec 512) (f : Flight) : State :=
  let after := s.writersBefore c q i fun _ => s.moveReads (s.moveOf w) ++ s.flightWrites c f
  if after.isEmpty then s.startMove c q i w []
  else { s with chain := { s.chain with moves := s.chain.moves ++ [⟨c, q, i, [], [], after⟩] } }

/-- Whether the moves of a context stand: it is being preempted or is preempted (R153). -/
def State.movesStand (s : State) (c : Nat) : Bool := s.ctxState c == ctxPreempting || s.ctxState c == ctxPreempted

/-- The moves of a context that can go on do: those whose earlier writes are complete (R139), which look again at what their indices now
name, and those whose elements have come. -/
def State.resumeMoves (s : State) (c : Nat) : State :=
  if s.movesStand c then s
  else
    (s.chain.moves.filter fun m => m.ctx == c && m.need.isEmpty).foldl (fun s m =>
      let after := m.after.filter fun x => s.stillWrites c x
      let rest := s.chain.moves.filter (· ≠ m)
      if after.isEmpty then
        let s : State := { s with chain := { s.chain with moves := rest } }
        match s.flightOf c m.queue m.index with
        | some f => if m.got.isEmpty then s.orderMove c m.queue m.index f.word f else s.startMove c m.queue m.index f.word m.got
        | none => s
      else { s with chain := { s.chain with moves := rest ++ [{ m with after := after }] } }) s

/-- REMOTE_READ_RESPONSE (R150): elements for a move that waits for them; with the last of them it goes on. -/
def execRemoteReadResponse (r : ReadResp) (s : State) : Out :=
  let wants := fun (n : Nat × Nat × List Nat) => n.1 == r.desc && n.2.1 == r.rank && r.items.any fun x => x.1 == n.2.2
  .next (
    if !s.works then s
    else match s.chain.moves.find? fun m => m.need.any wants with
    | none => s
    | some m =>
      let new := (m.need.filter wants).filterMap fun n => (r.items.find? fun x => x.1 == n.2.2).map fun x => (n.1, n.2.2, x.2)
      let m' := { m with need := m.need.filter fun n => !wants n, got := m.got ++ new }
      let gone := fun (u : RemoteUse) => u.ctx == m.ctx && u.queue == m.queue && u.index == m.index && u.rank == r.rank &&
        u.holder == r.holder && u.desc == r.desc && !u.write && !m'.need.any fun n => n.1 == r.desc && n.2.1 == r.rank
      let s : State := { s with chain := { s.chain with
        moves := s.chain.moves.map fun x => if x = m then m' else x
        uses := s.chain.uses.filter fun u => !gone u } }
      if m'.need.isEmpty then s.resumeMoves m.ctx else s)

/-- STALE_RESPONSE (R266): STALE_SHARD of the context that made the access, which its header names; its entry never completes, unless it was
a write whose entry had completed. -/
def execStaleResponse (rank holder desc part expect found : Nat) (s : State) : Out :=
  .next (
    if !s.onChain then s
    else
      let s := ((s.setFld mapStaleHolder 0 holder).setFld mapStaleExpect 0 expect).setFld mapStaleFound 0 found
      let s := (s.setFld mapStaleRank 0 rank).setFld mapStatusStale 0 1
      match s.chain.uses.find? fun u => u.rank == rank && u.holder == holder && u.desc == desc && u.part == part && u.vtag == expect with
      | none => s
      | some u =>
        let s := s.fixedFault u.ctx 1 u.queue u.index rank
        let s := if (s.ctx u.ctx).accMb = u.acc then s.modFlight u.ctx u.queue u.index fun f => { f with dead := true } else s
        { s with chain := { s.chain with
          moves := s.chain.moves.filter fun m => !(m.ctx == u.ctx && m.queue == u.queue && m.index == u.index)
          uses := s.chain.uses.filter (· ≠ u) } })

end Sys2Proof.Machine
end

