-- ==== Sys2Proof/Machine/PassOps.lean ====
section
/-!
DEFINITION. Sys2Proof/Machine/PassOps.lean: the operands of a pass as it reads them from the operand buffer, and the conditions under
which a pass may issue and start (03, R74, R87, R267).
-/
namespace Sys2Proof.Machine

/-! ## Operands (R40 to R47, R55, R68, R78 to R84) -/

/-- What the reading of one streamed row or one stationary column gives: values or integer codes by chunk position, counts of
R172, the words read, an exponent byte that differs from the declared one. -/
structure LaneRead where
  vals : List Val := []
  ints : List Int := []
  ovf : Nat := 0
  unf : Nat := 0
  spill : Nat := 0
  codes : List Nat := []
  iexp : Bool := false
deriving DecidableEq, Repr

/-- The code of element j of a BQn group: bit planes for n below 8, bytes for n = 8 (R40, R44). -/
def bqCode (n : Nat) (b : List Byte) (j : Nat) : Int :=
  if n = 8 then signed 8 (b.getD j 0).toNat
  else
    let x := (List.range n).foldl (fun x p => x + (if (b.getD (32 * p + j / 8) 0).toNat.testBit (j % 8) then 2 ^ p else 0)) 0
    if n = 1 then (if x = 0 then 1 else -1) else signed n x

/-- COUNT of a side-list record, 5 to 7 read as 4 (R47). -/
def sideCount (r : List Byte) : Nat := min 4 ((r.getD 12 0).toNat % 8)

/-- A record whose COUNT exceeds 4 counts as an outlier spill (R47). -/
def sideSpill (r : List Byte) : Nat := if 4 < (r.getD 12 0).toNat % 8 then 1 else 0

/-- The side-list value at position j of a group: the valid entry with the highest index (R46, R47). -/
def sideVal (r : List Byte) (j : Nat) : Option Val :=
  (((List.range (sideCount r)).reverse).find? fun e => (r.getD (3 * e) 0).toNat == j).map fun e =>
    decodeG16 (bytesLE ((r.drop (3 * e + 1)).take 2))

/-- The value of element j of a group (R40, R41, R46). -/
def bqVal (n : Nat) (b exps : List Byte) (side : Option (List Byte)) (j : Nat) : Val :=
  let e := (exps.getD (j / 32) 0).toNat
  if e = 255 then .nan
  else match side.bind fun r => sideVal r j with
  | some v => v
  | none => valScale ((e : Int) - 127) (valOfInt (bqCode n b j))

/-- Panel p of core k. -/
def State.panel (s : State) (k p : Nat) : Option PanelRec :=
  match s.image with
  | some i => i.panels.find? fun x => x.core == k && x.panel == p
  | none => none

/-- n bytes at offset o of a panel. -/
def State.panelLocs (s : State) (p : PanelRec) (o n : Nat) : List (Option Loc) :=
  (List.range n).map fun b => s.panelLoc p.core p.base p.g32 (o + b)

/-- Bytes of a row of a panel (R78). -/
def panelRow (p : PanelRec) : Nat := 1024 * (if p.g32 = 0 then 1 else p.g32)

/-- How an operand is to be read: panel, first row and word, orientation, format, n, side-list, tracker entry, declared byte. -/
structure OpArgs where
  panel : Nat
  row : Nat
  word : Nat
  trans : Bool
  fmt : Nat
  n : Nat
  side : Bool
  tnum : Nat
  decl : Nat
deriving DecidableEq, Repr

/-- The streaming operand of a pass; EA is its declared byte. -/
def PassF.sArgs (p : PassF) : OpArgs := ⟨p.sPanel, p.sRow, p.sWord, p.sOrient, p.sFmt, p.sN, p.sSide, p.sTnum, p.ea⟩

/-- The stationary operand of a pass; EB is its declared byte. -/
def PassF.tArgs (p : PassF) : OpArgs := ⟨p.tPanel, p.tRow, p.tWord, p.tOrient, p.tFmt, p.tN, p.tSide, p.tTnum, p.eb⟩

/-- A group of a BQn operand: groups lie one after another in a panel row, and the companion panel holds 8 exponent bytes for each,
then 16 side-list bytes for each, numbered row by row over the panel (R44, R81, R134, log entry 39). A first word within a group takes the
exponents and side-list of that group (DESIGN CHOICE, log entry 148). -/
def State.readGroup (s : State) (p : PanelRec) (a : OpArgs) (r g : Nat) : List Byte × List Byte × Option (List Byte) × List Nat :=
  let per := panelRow p / 32 / max 1 a.n
  let row := a.row + r
  let no := row * per + a.word / max 1 a.n + g
  let cl := s.panelLocs p (row * panelRow p + a.word * 32 + g * 32 * a.n) (32 * a.n)
  match s.panel p.core p.companion with
  | none => ((s.readLocs cl).1, List.replicate 8 0, none, locCodes cl)
  | some q =>
    let el := s.panelLocs q (8 * no) 8
    let sl := if a.side then s.panelLocs q (8 * (p.rows * per) + 16 * no) 16 else []
    ((s.readLocs cl).1, (s.readLocs el).1, if a.side then some (s.readLocs sl).1 else none, locCodes (cl ++ el ++ sl))

/-- The groups of row r of a BQn operand that hold a chunk position below v. -/
def State.readBq (s : State) (p : PanelRec) (a : OpArgs) (integer : Bool) (v r : Nat) : LaneRead :=
  (List.range ((v + 255) / 256)).foldl (fun l g =>
    let (b, e, sd, cs) := s.readGroup p a r g
    let n := min 256 (v - 256 * g)
    let js := List.range n
    let ops := if integer then [] else js.map fun j => expand (bqVal a.n b e sd j)
    { vals := l.vals ++ ops.map (·.v)
      ints := if integer then l.ints ++ js.map (bqCode a.n b) else []
      ovf := l.ovf + (ops.filter (·.ovf)).length
      unf := l.unf + (ops.filter (·.unf)).length
      spill := l.spill + (match sd with | some x => sideSpill x | none => 0)
      codes := l.codes ++ cs
      iexp := l.iexp || (List.range ((n + 31) / 32)).any fun x => (e.getD x 0).toNat != a.decl }) {}

/-- The value of an operand code of the other formats; F8A, F8B and G16 are scaled by the SE of their tensor (R39, R55). -/
def operandVal (fmt : Nat) (se : Int) (b : List Byte) : Val := valueOf fmt se b

/-- Row r of an operand in F8A, F8B, G16, H16 or B16: plain, position k lies along the row; transposed, across rows (R79). Past the rows or
words of the panel the read goes on by byte offset (DESIGN CHOICE, log entry 147). -/
def State.readPlain (s : State) (p : PanelRec) (a : OpArgs) (v r : Nat) : LaneRead :=
  let size := if a.fmt = fmtF8AC ∨ a.fmt = fmtF8BC then 1 else 2
  let se := if a.fmt ≤ fmtG16C then s.seOf a.tnum else 0
  let locs := (List.range v).map fun k =>
    let (x, y) := if a.trans then (a.row + k, r) else (a.row + r, k)
    s.panelLocs p (x * panelRow p + a.word * 32 + y * size) size
  let ops := locs.map fun l => expand (operandVal a.fmt se (s.readLocs l).1)
  { vals := ops.map (·.v)
    ovf := (ops.filter (·.ovf)).length
    unf := (ops.filter (·.unf)).length
    codes := locs.flatMap locCodes }

/-- Row r of an operand: positions below v (R68). -/
def State.readLane (s : State) (k : Nat) (a : OpArgs) (integer : Bool) (v r : Nat) : LaneRead :=
  match s.panel k a.panel with
  | none => { vals := List.replicate v valZero, ints := List.replicate v 0 }
  | some p => if a.fmt = fmtBQn then s.readBq p a integer v r else s.readPlain p a v r

/-- Count what the expansion of an operand found (R47, R55, R172). -/
def State.countLanes (s : State) (tnum : Nat) (l : List LaneRead) : State :=
  let sum := fun (f : LaneRead → Nat) => l.foldl (fun n x => n + f x) 0
  if sum (·.ovf) + sum (·.unf) + sum (·.spill) = 0 then s
  else s.modTrack tnum fun e =>
    { e with ovf := sat32 (e.ovf + sum (·.ovf)), unf := sat32 (e.unf + sum (·.unf)), spill := sat32 (e.spill + sum (·.spill)) }

/-! ## What a pass waits for (R87, R267) -/

/-- The words that a pass on a core reads. -/
def State.passCodes (s : State) (k : Nat) (p : PassF) : List Nat :=
  let v := min p.valid (512 * p.rate)
  let int := decide (1 < p.rate)
  ((List.range p.rows).flatMap fun i => (s.readLane k p.sArgs int v i).codes) ++
    (List.range p.cols).flatMap fun c => (s.readLane k p.tArgs int v c).codes

/-- The core of a queue's side. -/
def State.queueCore (s : State) (c q : Nat) : Nat := match s.queueSide c q with | some si => si / 2 | none => 0

/-- Whether entry x of a context waits for one of queue q at position i or later. -/
def State.waitsFor (s : State) (c : Nat) (x : Nat × Nat) (q i : Nat) : Bool :=
  let later := fun (y : Nat × Nat) => y.1 == q && decide (i ≤ y.2)
  (s.chain.moves.any fun m => m.ctx == c && m.queue == x.1 && m.index == x.2 && m.after.any later) ||
    match s.flightOf c x.1 x.2 with
    | some f => entKind f.word == kDrain && (s.writersBefore c x.1 x.2 fun _ => s.flightWrites c f).any later
    | none => false

/-- The operands of a pass are still on their way: an earlier entry of its context that writes them is in flight (R87), unless that entry
itself waits for a later one of the pass's queue, as a replay can leave it (log entry 45). -/
def State.operandsComing (s : State) (r : PassRec) (p : PassF) : Bool :=
  (s.writersBefore r.ctx r.queue r.index fun _ => s.passCodes (s.queueCore r.ctx r.queue) p).any fun x =>
    !s.waitsFor r.ctx x r.queue r.index

/-- A pass that reads what a stale access should have brought is never issued (R267). -/
def State.staleOperand (s : State) (c q : Nat) (w : BitVec 512) : Bool :=
  let dead := (s.ctx c).flight.filter (·.dead)
  if dead.isEmpty then false
  else
    let codes := s.passCodes (s.queueCore c q) (passOf w)
    dead.any fun f => (s.flightWrites c f).any codes.contains

/-- The pass that a queue may issue now (R74, R267, R287). -/
def State.mayPass (s : State) (c q : Nat) : Option (Nat × BitVec 512 × Bool) :=
  (s.mayIssue c q kPass).bind fun x => if s.staleOperand c q x.2.1 then none else some x

end Sys2Proof.Machine
end

