-- ==== Sys2Proof/Machine/Sequencer.lean ====
section
/-!
DEFINITION. Sys2Proof/Machine/Sequencer.lean: micro-batches, the issue of tile table entries, their completion, tokens, doorbells,
preemption (10 sections 10.3, 10.4, 10.6, 10.10).
-/
namespace Sys2Proof.Machine

/-! ## Micro-batches (R303) -/

/-- The micro-batch that context c may start: the next accepted one, once its seed has arrived. Seeds that arrive in another order than
the opens, which R26 forbids the sender, leave the order of acceptance: a context waits for the missing seed (log entry 125). -/
def State.nextMb (s : State) (c : Nat) : Option Mb :=
  if s.works ∧ s.admState = admRunning ∧ s.usedCtx.contains c = true ∧ s.ctxState c = ctxIdle ∧ (s.ctx c).running = false then
    s.mbs.find? fun m => m.acc == some (s.ctx c).finished && m.seed && m.step == s.epoch.toNat
  else none

/-- Context c starts micro-batch m: MB tokens clear, held raises apply, every queue starts at its first entry. -/
def State.startMb (s : State) (c : Nat) (m : Mb) : State :=
  let n := match s.image with | some i => ctxQueues i c | none => 0
  let s := s.clearToks fun d => d.ctx == c && d.scope == .mb
  let s := s.modCtx c fun x => { x with
    queues := List.replicate n {}, flight := [], running := true, accMb := m.acc.getD 0, mbStep := m.step, mbNum := m.mb
    bucket := m.bucket.getD 0, tileFaults := [] }
  let s := ((s.setFld seqStatusMb c (m.acc.getD 0)).setFld seqStatusBucket c (m.bucket.getD 0)).setCtxState c ctxRunning
  s.applyHeld c m.step m.mb

/-- MICRO_BATCH_START (R303). -/
def execMicroBatchStart (ctx : Nat) (s : State) : Out :=
  .next (match s.nextMb ctx with | some m => s.startMb ctx m | none => s)

/-! ## Issue (R287 to R292) -/

/-- Whether the image page of entry i of a queue, or of a descriptor that it names, disagrees with its CRC (R283). -/
def State.pageWrong (s : State) (c q i : Nat) (w : BitVec 512) : Bool :=
  let ds := if entKind w = kDrain then [drainDst w]
    else if entKind w = kMove then let m := s.moveOf w; [m.srcNo, m.dstNo] ++ (if m.kind = 0 then [] else [m.idxNo])
    else if entKind w = kReduce then (match s.collective (reduceColl w) with | some x => [x.src, x.dst] | none => [])
    else []
  (match s.tileRec (s.ctx c).bucket c q with | some t => s.entryDiffers t i | none => false) ||
    s.descsDiffer ds

/-- Issue the next entry of a queue when it has kind k and may issue; its image page may disagree with its CRC on both fetches, for what
region 0 holds or for bits struck on the way (`pageBad`; R283). -/
def State.issue (s : State) (c q k : Nat) (pageBad : Bool) (f : Nat → BitVec 512 → Bool → State) : State :=
  match s.mayIssue c q k with
  | none => s
  | some (i, w, rep) => if pageBad || s.pageWrong c q i w then s.pageHalt c q i else f i w rep

/-- A PASS goes to its side, whose clock it starts (R288, R350). -/
def State.issuePass (s : State) (c q i : Nat) (w : BitVec 512) (rep : Bool) : State :=
  match s.queueSide c q with
  | none => s
  | some si => ((s.launch c q i w rep).modSide si fun d => { d with issued := d.issued ++ [⟨c, q, i, w⟩] }).wakeCore (si / 2)

/-- PASS_ISSUE (R74, R267, R288). -/
def execPassIssue (ctx queue : Nat) (pageBad : Bool) (s : State) : Out :=
  .next (if (s.mayPass ctx queue).isNone then s else s.issue ctx queue kPass pageBad (s.issuePass ctx queue))

/-- DRAIN_ISSUE (R289). -/
def execDrainIssue (ctx queue : Nat) (pageBad : Bool) (s : State) : Out :=
  .next (s.issue ctx queue kDrain pageBad fun i w rep => (s.launch ctx queue i w rep).wakeCore (entCore w))

/-- The first mover without a move. -/
def State.freeMover (s : State) : Option Nat := s.movers.findIdx? Option.isNone

/-- A MOVE goes to mover n (R145, R290). -/
def State.issueMove (s : State) (c q i : Nat) (w : BitVec 512) (rep : Bool) (n : Nat) : State :=
  let s := s.launch c q i w rep
  let s := s.setFld layStatusBusy 0 (s.fld layStatusBusy 0 ||| 2 ^ n)
  let s : State := { s with movers := s.movers.set n (some { ctx := c, queue := q, index := i }) }
  match s.flightOf c q i with
  | some f => s.orderMove c q i w f
  | none => s

/-- MOVE_ISSUE (R290): once a mover is free; the symbol code may correct Keg words, or find some beyond correction. -/
def execMoveIssue (ctx queue : Nat) (pageBad : Bool) (kegFixed kegLost : List FixedWord) (s : State) : Out :=
  .next (s.issue ctx queue kMove pageBad fun i w rep =>
    match s.freeMover with
    | some n => ((s.kegCorrected kegFixed).kegLost kegLost).issueMove ctx queue i w rep n
    | none => s)

/-- A REDUCE starts its collective, whose source is then read; one that a replay repeats is not started again (R310). -/
def State.issueReduce (s : State) (c q : Nat) (fixed lost : List FixedWord) (i : Nat) (w : BitVec 512) (rep : Bool) : State :=
  let n := reduceColl w
  let again := rep && (s.chain.reduced.contains n || s.chain.colls.any fun x => x.num == n)
  match s.reduceStarts c n with
  | none => s
  | some false => (s.launch c q i w rep).finishFlight c q i
  | some true =>
    if again then (s.launch c q i w rep).finishFlight c q i
    else (((s.kegCorrected fixed).kegLost lost).launch c q i w rep).startColl n c q i

/-- REDUCE_ISSUE (R28, R291); the symbol code may correct Keg words of the source, or find some beyond correction (R203). -/
def execReduceIssue (ctx queue : Nat) (pageBad : Bool) (kegFixed kegLost : List FixedWord) (s : State) : Out :=
  .next (s.issue ctx queue kReduce pageBad (s.issueReduce ctx queue kegFixed kegLost))

/-- An entry whose completion is its issue (R292). -/
def State.issueDone (s : State) (c q i : Nat) (w : BitVec 512) (rep : Bool) : State :=
  ((s.launchDone c q i w rep).releaseAt c q i).checkDone c

/-- RAISE (R287, R291). -/
def execRaise (ctx queue : Nat) (pageBad : Bool) (s : State) : Out :=
  .next (s.issue ctx queue kRaise pageBad (s.issueDone ctx queue))

/-- WAIT (R287, R291): issues once its wait is satisfied. -/
def execWait (ctx queue : Nat) (pageBad : Bool) (s : State) : Out :=
  .next (s.issue ctx queue kWait pageBad (s.issueDone ctx queue))

/-- RECOMP (R204, R291). -/
def execRecomp (ctx queue : Nat) (pageBad : Bool) (s : State) : Out :=
  .next (s.issue ctx queue kRecomp pageBad fun i w rep =>
    (s.launch ctx queue i w rep).startStream ctx queue i (recompEntry w) (recompRing w))

/-- END (R285, R303): the queue ends for the micro-batch. -/
def execEnd (ctx queue : Nat) (pageBad : Bool) (s : State) : Out :=
  .next (s.issue ctx queue kEnd pageBad fun i w rep =>
    ((((s.launchDone ctx queue i w rep).modQueue ctx queue fun u => { u with ended := true }).releaseAt ctx queue i).checkDone ctx).grantSeeds)

/-! ## Completion (R292) -/

/-- Whether the drain of the tile whose LAST pass stands at entry i has been done, as in a replay it can (R310). -/
def State.drainDone (s : State) (c q i t : Nat) : Bool :=
  let es := s.tileQueue (s.ctx c).bucket c q
  match (List.range es.length).find? fun j => decide (i < j) && entKind (es.getD j 0) == kDrain && entTile (es.getD j 0) == t with
  | some j => ((s.ctx c).q q).doneDrains.contains j
  | none => false

/-- A PASS has left the array: it counts, its side has it no more, and its tile is COMPLETE when it was the last (R91, R94). A tile that a
replay fills again although its drain is done is free (log entry 118). -/
def State.completePass (s : State) (c q i : Nat) (w : BitVec 512) : State :=
  match s.queueSide c q with
  | none => s
  | some si =>
    let s := s.setFld arrPerfPasses (si / 2) ((s.fld arrPerfPasses (si / 2) + 1) % 2 ^ 32)
    let done := s.drainDone c q i (entTile w)
    let s := s.modSide si fun d => { d with inArray := d.inArray.filter fun p => !(p.queue == q && p.index == i && p.ctx == c) }
    if (passOf w).last then
      s.modTile (si * 2 + entTile w) fun t =>
        if t.state = .filling then (if done then {} else { t with state := .complete }) else t
    else s

/-- A MOVE has ended: its mover, and IDX_DROP (R143). -/
def State.completeMove (s : State) (c q i : Nat) (f : Flight) : State :=
  let s := match s.moverOf c q i with
    | some n =>
      let s := s.setFld layStatusBusy 0 (s.fld layStatusBusy 0 &&& (65535 - 2 ^ n))
      { s with movers := s.movers.set n none }
    | none => s
  if f.idxFault then
    ((s.setFld layStatusIdxFault 0 1).setFld layIdxdropFaulted c 1).policyFault c 5 1 q i 0 f.dropped
  else s

/-- What the completion of an entry does by its kind. -/
def State.completeKind (s : State) (c q i : Nat) (f : Flight) : State :=
  let k := entKind f.word
  if k = kPass then s.completePass c q i f.word
  else if k = kDrain then s.modQueue c q fun u => { u with doneDrains := i :: u.doneDrains }
  else if k = kMove then s.completeMove c q i f
  else s

/-- An entry completes: its token, the entries it releases, the end of the micro-batch. -/
def State.completeEntry (s : State) (c q i : Nat) (f : Flight) : State :=
  let s := s.completeKind c q i f
  let s := s.modCtx c fun x => { x with flight := x.flight.filter fun y => !(y.queue == q && y.index == i) }
  let s : State := { s with chain := { s.chain with uses := s.chain.uses.filter fun u => u.write || !(u.ctx == c && u.queue == q && u.index == i) } }
  let s := if entRaiseAt f.word then s.raiseEntry c q i f.word f.replay else s
  let s := if entKind f.word = kDrain then s.openAfter f.word else s
  (((s.resumeMoves c).releaseAt c q i).checkDone c).grantSeeds

/-- The windows that a move has still to write, unless its context stands (R138, R153). -/
def State.runMoves (s : State) (c q i : Nat) : State :=
  match s.flightOf c q i, s.moverOf c q i with
  | some f, some n => if f.finished || s.movesStand c then s else s.runWindows n c q i f.word true
  | _, _ => s

/-- ENTRY_COMPLETE (R292): its work is done and every request it made is answered. A preempted context completes nothing before it is
resumed, for it raises nothing (R315). -/
def execEntryComplete (ctx queue index : Nat) (s : State) : Out :=
  .next (
    if s.ctxState ctx = ctxPreempted then s
    else
      let s := s.runMoves ctx queue index
      match s.flightOf ctx queue index with
      | some f =>
        if f.finished && !f.dead && !s.outstanding ctx queue index && !s.ownParts f then s.completeEntry ctx queue index f else s
      | none => s)

/-! ## Tokens and doorbells (R293, R296) -/

/-- TOKEN_MESSAGE (R296): to a token declared REMOTE of a context that the image uses. -/
def execTokenMessage (rank ctx tok : Nat) (s : State) : Out :=
  .next (
    if !s.onChain then s
    else match s.tokDecl ctx tok with
    | some d =>
      if d.source = .remote ∧ s.usedCtx.contains ctx = true then s.raiseTok ctx tok
      else s.logEv 0x030A 2 ctx (rank + 1024 * tok)
    | none => s.logEv 0x030A 2 ctx (rank + 1024 * tok))

/-- A write of SEQ.DOORBELL (Table 10.26). -/
def State.effDoorbell (s : State) (c t : Nat) : State :=
  match s.tokDecl c t with
  | some d => if d.source = .doorbell then s.raiseTok c t else s.logEv 0x0204 2 c t
  | none => s.logEv 0x0204 2 c t

/-- DOORBELL (R21, R293). -/
def execDoorbell (ctx : Nat) (value : Word) (src : Src) (s : State) : Out :=
  .next (s.gate src .seqDoorbell ctx fun s => s.effDoorbell ctx (fldGet seqDoorbellToken value))

/-! ## Preemption (R314 to R316) -/

/-- PREEMPT (R314): in RUNNING, WAITING or RESTARTING. -/
def execPreempt (ctx : Nat) (src : Src) (s : State) : Out := .next (s.gate src .seqCtrl ctx fun s => s.preemptCtx ctx)

/-- CONTEXT_PREEMPTED (R314): every unit of the context has stopped. -/
def execContextPreempted (ctx : Nat) (s : State) : Out :=
  .next (if s.ctxState ctx = ctxPreempting ∧ s.mayRest ctx = true then s.restCtx ctx else s)

/-- RESUME (R315). -/
def execResume (ctx : Nat) (src : Src) (s : State) : Out := .next (s.gate src .seqCtrl ctx fun s => (s.resumeCtx ctx).resumeMoves ctx)

end Sys2Proof.Machine
end

