-- ==== Sys2Proof/Machine/Array.lean ====
section
/-!
DEFINITION. Sys2Proof/Machine/Array.lean: the gradient array and the accumulators: operands, passes, the cord, the tile lock, drains
and their fusions, poison and reissue (03, 04).
-/
namespace Sys2Proof.Machine

/-! ## The cord (R98, R99) -/

/-- Carries from level l: an empty level stands for a part with nothing to contribute (R99). -/
def cordCarry (k : Nat) : Nat → Nat → Pair → List (Option Pair) → Nat × Pair × List (Option Pair)
  | 0, l, x, c => (l, x, c)
  | n + 1, l, x, c =>
    if k.testBit l then cordCarry k n (l + 1) (node ((c.getD l none).getD Pair.zero) x) (c.set l none) else (l, x, c)

/-- The 16 levels of an entry. -/
def cordLevels (c : List (Option Pair)) : List (Option Pair) := c ++ List.replicate (16 - c.length) none

/-- accept() of R98. -/
def accept (e : AccEntry) (v : F32) (k : Nat) (last : Bool) : AccEntry :=
  let (l, x, c) := cordCarry k 16 0 (pairOf v) (cordLevels e.cord)
  if last then
    let r := (c.drop (l + 1)).foldl (fun x y => match y with | some y => node y x | none => x) x
    { e with cord := [], res := r }
  else { e with cord := c.set l (some x) }

/-! ## Passes (R61 to R74, R82 to R86, R112, R118, R119) -/

/-- Outcomes of the tile lock (Table 4.8). -/
inductive Lock where
  | wait | collide | run
deriving DecidableEq, Repr

/-- The tile lock (R118): the tag is the tile's FIRST pass in its queue. -/
def tileLock (t : Tile) (c q f : Nat) (first : Bool) : Lock :=
  let same := t.ctx == c && t.queue == q && t.first == f
  match t.state with
  | .free => if first then .run else .collide
  | .filling => if first then .collide else if same then .run else .collide
  | .complete | .draining => if first then .wait else .collide

/-- An integer sum enters an entry, saturated (R112): the entry and whether it saturated. -/
def acceptInt (e : AccEntry) (x : Int) : AccEntry × Bool := let (v, b) := satI32 (e.int + x); ({ e with int := v }, b)

/-- The bit of ACC.SATFLAG of a tile. -/
def satFld (n : Nat) : Fld :=
  if n % 4 = 0 then accSatflagSatA0 else if n % 4 = 1 then accSatflagSatA1 else if n % 4 = 2 then accSatflagSatB0 else accSatflagSatB1

/-- Saturating additions in a tile (R113). -/
def State.saturate (s : State) (n count : Nat) : State :=
  if count = 0 then s
  else
    let s := (s.setFld (satFld n) (n / 4) 1).bump accSatflagSatCnt (n / 4) count
    s.modTile n fun t => { t with sat := true, satCount := t.satCount + count }

/-- A FIRST pass starts its tile: every level and result clear, the flags of the tile travel with it (R98, R107, R112). What an
earlier run of the same tile committed to memory stays known (R108). -/
def startTile (t : Tile) (c q i : Nat) (p : PassF) : Tile :=
  let again := t.ctx == c && t.queue == q && t.first == i
  { state := .filling, tag := i % 16384, ctx := c, queue := q, first := i, restart := i - p.restart, rows := p.rows, cols := p.cols
    integer := decide (1 < p.rate), accAdd := p.accAdd, accStep := p.accStep, ea := p.ea, eb := p.eb, dW := p.dW
    committed := if again then t.committed else 0 }

/-- The chunk partial sums of a pass at rate 1: 512 products, +0 from position V on (R67, R68). -/
def passFloat (v : Nat) (a b : List Val) : F32 :=
  chunkSum ((a.zip b).map (fun x => valMul x.1 x.2) ++ List.replicate (512 - v) valZero)

/-- The exact sum of a pass at integer rate (R83). -/
def passInt (a b : List Int) : Int := (a.zip b).foldl (fun n x => n + x.1 * x.2) 0

/-- The results of a pass enter its tile (R66, R98, R112). A side of a split core keeps every column that the pass names, 17 to 32 too (R75,
log entry 127). In a tile whose passes mix rate 1 with an integer rate the first pass says which kind it is, and a pass of the other kind
adds an empty operand (R82, log entry 128). -/
def State.runPass (s : State) (n : Nat) (p : PassF) (ss ts : List LaneRead) : State :=
  let t := s.tile n
  let v := min p.valid (512 * p.rate)
  let at' := (List.range p.rows).flatMap fun i => (List.range p.cols).map fun c => (i, c)
  let t' := { t with rows := max t.rows p.rows, cols := max t.cols p.cols, k := t.k + 1 }
  if t.integer then
    let (es, sat) := at'.foldl (fun (acc : Cells AccEntry × Nat) x =>
      let key := entryKey x.1 x.2
      let (e, b) := acceptInt (cellGet entryZero acc.1 key) (passInt (ss.getD x.1 {}).ints (ts.getD x.2 {}).ints)
      (cellSet entryZero acc.1 key e, acc.2 + (if b then 1 else 0))) (t.entries, 0)
    (s.modTile n fun _ => { t' with entries := es }).saturate n sat
  else
    let es := at'.foldl (fun (es : Cells AccEntry) x =>
      let key := entryKey x.1 x.2
      cellSet entryZero es key (accept (cellGet entryZero es key) (passFloat v (ss.getD x.1 {}).vals (ts.getD x.2 {}).vals) t.k p.last)) t.entries
    s.modTile n fun _ => { t' with entries := es }

/-- A side is poisoned (R85): its FILLING tile and its passes are lost, it stops, and the fault is reported of entry i. ORIGIN 0 is
the operand buffer, 1 the accumulator bank (Table 10.23). -/
def State.poisonSide (s : State) (si i origin : Nat) : State :=
  match s.sideOwner (si / 2) (si % 2 == 1) with
  | none => s
  | some (c, q) =>
    let f := s.faultTile si
    let s := ((s.poisonFilling si).stopSide si).setFld (sideFld arrStatusPoisonA arrStatusPoisonB si) (si / 2) 1
    s.reissueFault c 7 q si f i origin 3

/-- Words of an operand buffer with one symbol in error, corrected (R85, R92). -/
def State.bufCorrected (s : State) (k : Nat) (l : List FixedWord) : State :=
  l.foldl (fun s x =>
    (((s.corr arrBuferrCorrCnt k 1).setFld arrBuferrLastBank k x.bank).setFld arrBuferrLastLine k x.line).setFld arrBuferrLastUncorr k 0) s

/-- An error of the accumulator bank or the spill area (R128). -/
def State.accError (s : State) (k : Nat) (uncorrected spill : Bool) (index : Nat) : State :=
  let s := if uncorrected then s.uncorr accErrUncorrCnt k 1 else s.corr accErrCorrCnt k 1
  ((s.setFlag accErrLastSpill k spill).setFld accErrLastIndex k index).setFlag accErrLastUncorr k uncorrected

/-- A pass whose lock answers run: it leaves the issued ones, reads its operands and enters its tile; poisoned operand data
poisons the side instead (R85). A VALID above 512 times the rate counts as that many positions (R68, log entry 126). -/
def State.startPass (s : State) (si : Nat) (r : PassRec) (p : PassF) : State :=
  let n := si * 2 + entTile r.word
  let k := si / 2
  let s := s.modSide si fun d => { d with issued := d.issued.tail, inArray := d.inArray ++ [r] }
  let s := if p.first then s.modTile n fun t => startTile t r.ctx r.queue r.index p else s
  let s := s.setFld (sideFld arrStatusStoppedA arrStatusStoppedB si) k 0
  let (g, s) := s.draw 32
  let s := s.setFld arrPerfGaps k g
  let v := min p.valid (512 * p.rate)
  let int := decide (1 < p.rate)
  let ss := (List.range p.rows).map fun i => s.readLane k p.sArgs int v i
  let ts := (List.range p.cols).map fun c => s.readLane k p.tArgs int v c
  let s := (s.countLanes p.sTnum ss).countLanes p.tTnum ts
  let s := if int && (ss.any (·.iexp) || ts.any (·.iexp)) then s.setFld (sideFld arrStatusIexpA arrStatusIexpB si) k 1 else s
  let lost := ((ss ++ ts).flatMap (·.codes)).eraseDups.filter s.bad.contains
  if lost.isEmpty then (s.runPass n p ss ts).finishFlight r.ctx r.queue r.index
  else (s.bufErrors k lost).poisonSide si r.index 0

/-- TILE_COLLISION (R119): the pass is discarded, the FILLING tile is poisoned, the side stops. A second collision of the same tag,
the FIRST entry of the pass's tile, before that tile drains halts the context. -/
def State.collide (s : State) (si : Nat) (r : PassRec) : State :=
  let tag := s.firstOf r.ctx r.queue r.index (entTile r.word)
  let again := (s.side si).collided.contains tag
  let s := ((s.poisonFilling si).stopSide si).setFld (sideFld accStatusCollideA accStatusCollideB si) (si / 2) 1
  let s := s.modSide si fun d => { d with collided := tag :: d.collided.filter (· ≠ tag) }
  if again then
    ((s.setFld (sideFld accStatusHaltA accStatusHaltB si) (si / 2) 1).reportFault r.ctx 2 3 r.queue r.index 0 0).haltCtx r.ctx 2
  else s.reportFault r.ctx 2 2 r.queue r.index 0 0

/-- Whether the context lets its passes start: not while it is preempted or being preempted (R86, R314), nor before its tiles are back from
the save area (R120). -/
def State.passesRun (s : State) (c : Nat) : Bool :=
  s.works && s.admState == admRunning && s.ctxState c != ctxPreempting && s.ctxState c != ctxPreempted && !s.outstanding c saveQueue 0

/-- PASS_START (R71, R74, R87, R118): the oldest pass issued to the side, unless its tile has still to drain or its operands have
not arrived. -/
def execPassStart (core : Nat) (sideB : Bool) (fixed : List FixedWord) (accFixed : List (Bool × Nat)) (s : State) : Out :=
  let si := sideNo core sideB
  .next (
    match (s.side si).issued.head? with
    | none => s
    | some r =>
      if (s.side si).poisoned || !s.passesRun r.ctx then s
      else
        let p := passOf r.word
        if s.operandsComing r p then s
        else match tileLock (s.tile (si * 2 + entTile r.word)) r.ctx r.queue (s.firstOf r.ctx r.queue r.index (entTile r.word)) p.first with
        | .wait => s
        | .collide => s.collide si r
        | .run => accFixed.foldl (fun s x => s.accError core false x.1 x.2) ((s.bufCorrected core fixed).startPass si r p))

/-! ## Drains (R105 to R114, R237) -/

/-- Whether the tile of a drain of context c adds (R27, R107). -/
def State.drainAdds (s : State) (t : Tile) (c : Nat) : Bool := if t.accStep then decide ((s.ctx c).accMb ≠ 0) else t.accAdd

/-- The scaled value of an integer entry, exact (R114). -/
def entryScaled (t : Tile) (e : AccEntry) : Val := valScale ((t.ea : Int) + t.eb - 254) (valOfInt e.int)

/-- The result of an entry: its pair, or the scaled integer as a pair (R98, R114). -/
def entryPair (t : Tile) (e : AccEntry) : Pair := if t.integer then pairOfVal (entryScaled t e) else e.res

/-- What an entry writes on an overwrite: conversion, bytes, and the value that is measured (R106, R111, R112). A scaled integer is rounded
once, from its exact value (R49, R53). -/
def drainValue (t : Tile) (d : Desc) (se : Int) (e : AccEntry) : Conv × List Byte × Val :=
  if t.integer ∧ d.format = fmtI32C then (⟨0, false, false⟩, toBytesLE 4 (twos 32 e.int), valOfInt e.int)
  else
    let p := entryPair t e
    if t.integer then
      let c := convTo (if d.pair then fmtS32C else d.format) false se (entryScaled t e)
      (c.1, if d.format = fmtS32C ∧ d.pair then (pairTo d.format d.pair se p).2 else c.2, ofF32 p.s)
    else
      let (c, b) := pairTo d.format d.pair se p
      (c, b, ofF32 p.s)

/-- What a value meets on its way into a binary32 word: an overflow, or an underflow to zero (R50, R51). -/
def wordConv (v : Val) : Conv :=
  let x := ofF32 (toF32 v)
  ⟨0, valIsFinite v && !valIsFinite x, valIsFinite v && !valIsZero v && valIsZero x⟩

/-- What an entry leaves on an add to an existing value: conversion, bytes, the value measured, saturation (R107, R112). A scaled integer
meets the existing value unrounded; one outside the binary32 range counts as an overflow or an underflow (R50, R51, R114). -/
def drainSum (t : Tile) (d : Desc) (se : Int) (e : AccEntry) (old : List Byte) : Conv × List Byte × Val × Bool :=
  if t.integer then
    let v := entryScaled t e
    let x := ofF32 (toF32 v)
    if d.format = fmtI32C then sumInto d se old e.int valZero valZero
    else
      let (c, b) := sumInto d se old e.int x (if valIsFinite x then zeroPos (valAdd v (valNegate x)) else valZero)
      ({ c with ovf := c.ovf || (wordConv v).ovf, unf := c.unf || (wordConv v).unf }, b)
  else sumInto d se old e.int (ofF32 e.res.s) (ofF32 e.res.e)

/-- Who drains: context, queue, index, tile number, destination index and its descriptor. -/
structure DrainAt where
  ctx : Nat
  queue : Nat
  index : Nat
  tile : Nat
  dst : Nat
  desc : Desc
  add : Bool
deriving DecidableEq, Repr

/-- Fold what a drain writes into the measurement of its tensor (R111). -/
def State.measureDrain (s : State) (a : DrainAt) (l : List Val) : State :=
  if a.desc.tracked then s.measure a.desc.tnum (l.foldl Amax.take {}) (some (s.ctx a.ctx).accMb) else s

/-- A contribution of a drain to an element that another engine holds: its result as a pair, an infinity where the scaled integer lies
beyond the binary32 range (DESIGN CHOICE, log entry 139), and as an overwrite or an integer add takes it. -/
def drainItem (t : Tile) (d : Desc) (se : Int) (e : AccEntry) (i c : Nat) : WItem :=
  ⟨i, drainPos i c, entryPair t e, (drainValue t d se e).2.1, false⟩

/-- Row i of an overwrite drain. -/
def State.drainOver (s : State) (a : DrainAt) (t : Tile) (i : Nat) : State × List (Nat × WItem) :=
  let se := s.descSe a.desc
  let es := (List.range t.cols).map fun c => (c, cellGet entryZero t.entries (entryKey i c))
  let out := es.map fun x => (x, s.whereIs a.desc a.desc.elem (drainPos i x.1), drainValue t a.desc se x.2)
  let ws := out.flatMap fun o => match o.2.1 with | .here l => writesAt l o.2.2.2.1 false | .away _ => []
  let away := out.filterMap fun o => match o.2.1 with | .here _ => none | .away k => some (k, drainItem t a.desc se o.1.2 i o.1.1)
  let n := fun (f : Conv → Bool) => (out.filter fun o => f o.2.2.1).length
  let now := s.reportsNow (partCodes false ws)
  let s := s.kegErrors (partCodes false ws)
  let s := (s.countConv a.desc (n (·.ovf)) (n (·.unf))).storeBatch ⟨some a.ctx, a.queue, a.index, clsDrn⟩ false ws
  let s := s.measureDrain a (out.map fun o => o.2.2.2.2)
  (if now then s.uncorrFault a.ctx a.queue a.index 2 else s, away)

/-- Entry (i, c) of an add drain: combined at memory; a poisoned existing value leaves its unit poisoned (R107, R108). Whether an I32 sum
saturates at an element that another engine holds is free, for nothing brings word of it back (R112, log entry 140). -/
def State.drainAddAt (s : State) (a : DrainAt) (t : Tile) (i c : Nat) : State × List (Nat × WItem) :=
  let se := s.descSe a.desc
  let e := cellGet entryZero t.entries (entryKey i c)
  match s.whereIs a.desc a.desc.elem (drainPos i c) with
  | .away k =>
    let cv := wordConv (entryScaled t e)
    let s := if t.integer && a.desc.format != fmtI32C then
      s.countConv a.desc (if cv.ovf then 1 else 0) (if cv.unf then 1 else 0) else s
    let (g, s) := if t.integer && a.desc.format == fmtI32C && e.int != 0 then s.draw 1 else (0, s)
    (s.saturate a.tile g, [(k, drainItem t a.desc se e i c)])
  | .here l =>
    let (old, bad) := s.readLocs l
    let (cv, b, v, sat) := drainSum t a.desc se e old
    let now := s.reportsNow (locCodes l)
    let s := s.kegErrors (locCodes l)
    let s := s.countConv a.desc (if cv.ovf then 1 else 0) (if cv.unf then 1 else 0)
    let s := (s.storeBatch ⟨some a.ctx, a.queue, a.index, clsDrn⟩ true (writesAt l b bad)).saturate a.tile (if sat then 1 else 0)
    let s := s.measureDrain a [v]
    (if now then s.uncorrFault a.ctx a.queue a.index 2 else s, [])

/-- Row i of an add drain. -/
def State.drainAdd (s : State) (a : DrainAt) (t : Tile) (i : Nat) : State × List (Nat × WItem) :=
  (List.range t.cols).foldl (fun acc c => let (s, l) := acc.1.drainAddAt a t i c; (s, acc.2 ++ l)) (s, [])

/-- The square of an s word as the pair (h, l) (R109). -/
def squarePair (x : F32) : Pair :=
  let v := valMul (ofF32 x) (ofF32 x)
  let h := toF32 v
  if valIsFinite (ofF32 h) then ⟨h, toF32 (zeroPos (valAdd v (valNegate (ofF32 h))))⟩ else ⟨h, 0⟩

/-- The fusion record of a row (Table 4.5). -/
def fusionRecord (t : Tile) (i : Nat) : List Byte :=
  let ss := (List.range 32).map fun c => if c < t.cols then (entryPair t (cellGet entryZero t.entries (entryKey i c))).s else 0
  let vs := (ss.take t.cols).map ofF32
  let nan := vs.any valIsNan
  let inf := vs.any fun v => !valIsNan v && !valIsFinite v
  let amax := if nan then f32NaN else vs.foldl (fun m v => if absLt (ofF32 m) v then toF32 (valAbs v) else m) 0
  let sum := treeT (ss.map pairOf)
  let sq := treeT (ss.map squarePair)
  let pr := fun (p : Pair) => toBytesLE 4 p.s.toNat ++ toBytesLE 4 p.e.toNat
  toBytesLE 4 amax.toNat ++ pr sum ++ pr sq ++ toBytesLE 2 t.cols ++
    toBytesLE 1 ((if nan then 1 else 0) + (if inf then 2 else 0) + (if t.sat then 4 else 0)) ++ List.replicate 9 0

/-- Row i of a drain: its values and its fusion record (R106 to R111). -/
def State.drainRow (s : State) (a : DrainAt) (w : BitVec 512) (i : Nat) : State :=
  let t := s.tile a.tile
  let (s, away) := if a.add then s.drainAdd a t i else s.drainOver a t i
  let s := s.sendDrain a.ctx a.queue a.index a.dst a.add away
  if drainFuse w then
    s.storeBatch ⟨some a.ctx, a.queue, a.index, clsDrn⟩ false (bytesAt 0 ((drainAddr w + 32 * i) % 2 ^ 42) (fusionRecord (s.tile a.tile) i) false)
  else s

/-- The last row is read: the tile is free, ACC_SAT is reported once, the entry's work is done (R105, R113). Under REISSUE the tile
is to be computed again. -/
def State.endDrain (s : State) (a : DrainAt) : State :=
  let t := s.tile a.tile
  let si := a.tile / 2
  let s := s.setFld (sideFld accDrainAddA accDrainAddB si) (si / 2) 0
  let act := s.policy 3 1
  if t.sat && act == 2 then
    let s := s.countTileFault a.ctx si t.first
    let s := s.modTile a.tile fun t => { first := t.first, ctx := t.ctx, queue := t.queue, restart := t.restart, committed := t.committed, poisoned := true }
    if 3 ≤ s.tileFaultCount a.ctx si t.first then (s.reportFault a.ctx 3 3 a.queue a.index 0 t.satCount).haltCtx a.ctx 3
    else (s.reportFault a.ctx 3 2 a.queue a.index 0 t.satCount).stopSide si
  else
    let s := (s.modTile a.tile fun _ => {}).finishFlight a.ctx a.queue a.index
    let s := s.modSide si fun d => { d with collided := d.collided.filter (· ≠ t.first) }
    if t.sat then s.policyFault a.ctx 3 1 a.queue a.index 0 t.satCount else s

/-- An uncorrectable word of the bank stops the drain (R108): the rows committed stay. -/
def State.poisonDrain (s : State) (a : DrainAt) (index : Nat) : State :=
  let si := a.tile / 2
  let f := (s.tile a.tile).first
  let s := (s.accError (si / 2) true false index).setFld (sideFld accStatusDrainPoisonA accStatusDrainPoisonB si) (si / 2) 1
  let s := ((s.modTile a.tile fun t => { t with poisoned := true }).stopSide si).setFld (sideFld accDrainAddA accDrainAddB si) (si / 2) 0
  s.reissueFault a.ctx 7 a.queue si f a.index 1 3

/-- The drain reads up to `rows` further rows; `err` names the row whose word is uncorrectable, and its entry. -/
def State.drainRows (s : State) (a : DrainAt) (w : BitVec 512) (rows : Nat) (err : Option (Nat × Nat)) : State :=
  let t := s.tile a.tile
  let n := min (t.rows - t.rowsRead) rows
  let rs := (List.range n).map (t.rowsRead + ·)
  let hit := err.bind fun e => if rs.contains e.1 then some e else none
  let good := match hit with | some e => rs.filter (· < e.1) | none => rs
  let s := good.foldl (fun s i => if a.add && decide (i < t.committed) then s else s.drainRow a w i) s
  let done := t.rowsRead + good.length
  let s := s.modTile a.tile fun x => { x with rowsRead := done, committed := if a.add then max x.committed done else done }
  let s := s.setFld (sideFld accDrainRowsDoneA accDrainRowsDoneB (a.tile / 2)) (a.tile / 4) done
  match hit with
  | some e => s.poisonDrain a e.2
  | none => if t.rows ≤ done then s.endDrain a else s

/-- The DRAIN entry in flight for tile n of context c's queue q. -/
def State.drainFlight (s : State) (c q n : Nat) : Option Flight :=
  (s.ctx c).flight.find? fun f => f.queue == q && entKind f.word == kDrain && entTile f.word == n % 2 && !f.finished && !f.lapsed

/-- The drain of an entry in flight. -/
def State.drainAt (s : State) (c q n : Nat) (f : Flight) : DrainAt :=
  ⟨c, q, f.index, n, drainDst f.word, s.desc (drainDst f.word), s.drainAdds (s.tile n) c⟩

/-- A drain waits for the writes of its context issued earlier to a unit or word that it writes (R107, R139). -/
def State.drainBehind (s : State) (a : DrainAt) (f : Flight) : Bool :=
  !(s.writersBefore a.ctx a.queue a.index fun _ => s.flightWrites a.ctx f).isEmpty

/-- R237: an overwrite of a layer's weight gradient waits while a unit still has to read the gradient of an earlier step. -/
def State.drainHeld (s : State) (a : DrainAt) : Bool :=
  !a.add && a.desc.tracked &&
    match s.track a.desc.tnum with
    | none => false
    | some e =>
      e.stat.kind == kindWgrad &&
        (indexed (s.layerRecs.zip s.upd.layers)).any fun x =>
          (match s.track x.1.1.wt with | some y => y.stat.layer == e.stat.layer | none => false) &&
            x.1.2.token && x.1.2.step != s.epoch.toNat && s.upd.units.any fun u => u.queue.contains x.2 || u.cur == some x.2

/-- DRAIN_START (R105, R107, R127, R237): one drain of a side at a time (log entry 117). -/
def execDrainStart (core : Nat) (sideB tile1 : Bool) (rows : Nat) (bankError : Option (Nat × Nat)) (accFixed : List (Bool × Nat))
    (s : State) : Out :=
  let n := sideNo core sideB * 2 + (if tile1 then 1 else 0)
  .next (
    match s.sideOwner core sideB with
    | none => s
    | some (c, q) =>
      if !s.works || s.admState != admRunning || (s.tile n).state != .complete || (s.tile n).poisoned then s
      else match s.drainFlight c q n with
      | none => s
      | some f =>
        let a := s.drainAt c q n f
        let other := s.tile (n / 2 * 2 + (1 - n % 2))
        if s.drainHeld a || s.drainBehind a f || (other.state == .draining && !other.poisoned) then s
        else
          let s := s.modTile n fun t => { t with state := .draining, rowsRead := 0, committed := if a.add then t.committed else 0 }
          let s := (s.setFlag (sideFld accDrainAddA accDrainAddB (n / 2)) core a.add).setFld
            (sideFld accDrainRowsDoneA accDrainRowsDoneB (n / 2)) core 0
          (accFixed.foldl (fun s x => s.accError core false x.1 x.2) s).drainRows a f.word rows bankError)

/-- DRAIN_RESUME (R105): a drain that back-pressure stopped reads on. -/
def execDrainResume (core : Nat) (sideB tile1 : Bool) (rows : Nat) (bankError : Option (Nat × Nat)) (accFixed : List (Bool × Nat))
    (s : State) : Out :=
  let n := sideNo core sideB * 2 + (if tile1 then 1 else 0)
  .next (
    match s.sideOwner core sideB with
    | none => s
    | some (c, q) =>
      if !s.works || s.admState != admRunning || (s.tile n).state != .draining || (s.tile n).poisoned then s
      else match s.drainFlight c q n with
      | none => s
      | some f => (accFixed.foldl (fun s x => s.accError core false x.1 x.2) s).drainRows (s.drainAt c q n f) f.word rows bankError)

/-! ## Idle clusters (R350) -/

/-- A drain of core k's tile i has been issued and has not ended. -/
def State.drainPending (s : State) (k i : Nat) : Bool :=
  (s.tile (4 * k + i)).state == .draining ||
    match s.sideOwner k (i / 2 == 1) with
    | some (c, q) => (s.tile (4 * k + i)).state == .complete && (s.drainFlight c q (4 * k + i)).isSome
    | none => false

/-- A core has no pass, drain, save or pending issue on its sides. -/
def State.coreIdle (s : State) (k : Nat) : Bool :=
  (List.range 2).all (fun i => (s.side (2 * k + i)).issued.isEmpty && (s.side (2 * k + i)).inArray.isEmpty) &&
    (List.range 4).all fun i => !s.drainPending k i

/-- CLUSTER_IDLE_GATE (R350). -/
def execClusterIdleGate (cluster : Nat) (s : State) : Out :=
  let cores := (List.range 16).map (fun i => cluster * 16 + i) |>.filter fun k => decide (k < Config.cores s.conf)
  .next (
    if s.clocksOn ∧ cluster < Config.clusters s.conf ∧ s.flag pwrPaceGateIdle 0 ∧ !s.flag pwrClkNogate cluster ∧ cores.all s.coreIdle
    then s.setFld pwrClkGated cluster 1 else s)

/-! ## Poison and reissue (R85, R128, R310) -/

/-- SIDE_POISON (R85, R128): a word that a side's passes read, or a stationary buffer, is found in error. -/
def execSidePoison (core : Nat) (sideB : Bool) (cause : PoisonCause) (s : State) : Out :=
  let si := sideNo core sideB
  .next (
    if !s.works || (s.side si).poisoned then s
    else match (s.side si).inArray ++ (s.side si).issued with
    | [] => s
    | r :: _ =>
      match cause with
      | .obufWord bank line => (s.bufErrors core [2 * 2 ^ 40 + 65536 * core + 1536 * bank + line]).poisonSide si r.index 0
      | .stationaryParity => s.poisonSide si r.index 0
      | .accWord spill index => (s.accError core true spill index).poisonSide si r.index 1)

/-- REISSUE (R310, R316). -/
def execReissue (core : Nat) (sideB : Bool) (s : State) : Out :=
  .next (
    match s.sideOwner core sideB with
    | none => s
    | some (c, _) =>
      if s.works && s.admState == admRunning && (s.side (sideNo core sideB)).poisoned && (s.ctx c).halted.isNone &&
          s.ctxState c != ctxPreempted && !s.outstanding c saveQueue 0 then s.reissueSide core sideB
      else s)

end Sys2Proof.Machine
end

