-- ==== Sys2Proof/Machine/SnapOps.lean ====
section
/-!
DEFINITION. Sys2Proof/Machine/SnapOps.lean: Bushel snapshots and mirrors as other parts of the engine act on them (11 sections 11.1
to 11.4): geometry, control blocks, records, the opening of a snapshot, the mirror, the halt of R257, the scan of a restore.
-/
namespace Sys2Proof.Machine

/-! ## Groups, stripes, cells (R320 to R324) -/

/-- The engine takes part in the Chain: it serves its ports with an image loaded, in Run or Doze, through which heartbeats flow (R356). -/
def State.inChain (s : State) : Bool := s.alive && decide (s.power ≤ 1) && s.loaded

/-- The BUSHEL section of the loaded image. -/
def State.bushel (s : State) : Option Bushel := s.image.bind fun i => i.bushel

/-- The rank of group position p. -/
def groupRank (b : Bushel) (p : Nat) : Nat := (b.groups.getD b.group []).getD p 0

/-- k, the data positions of a group. -/
def dataCells (b : Bushel) : Nat := b.n - 2

/-- What group position e holds of stripe j, which is also the number of the cell in its slot: a data position below k, k for P,
k + 1 for Q (R322, Table 11.2). -/
def stripeCell (b : Bushel) (j e : Nat) : Nat := (e + 2 * b.n - j - 2) % b.n

/-- The group position that holds cell i of stripe j. -/
def stripeHolder (b : Bushel) (j i : Nat) : Nat := (j + 2 + i) % b.n

/-- Bytes of a control block. -/
abbrev ctlSize : Nat := 4194304

/-- Bytes of a piece, and units of a piece (R328). -/
abbrev pieceBytes : Nat := 65536
abbrev pieceUnits : Nat := 1024

/-- Bytes of a cell (R321). -/
def State.cellLen (s : State) : Nat := s.fld snpCfgCellUnits 0 * pieceBytes

/-- The engine address of a cell of a slot (Table 11.2). -/
def State.cellAddr (s : State) (slotB : Bool) (cell : Nat) : Nat := s.slotBase slotB + 0x10000 + cell * s.cellLen

/-- Bytewise exclusive-or. -/
def xorBytes (a b : List Byte) : List Byte := a.zipWith (· ^^^ ·) b

/-- A coefficient times every byte (R323). -/
def gfScale (c : Byte) (l : List Byte) : List Byte := l.map (gfMul c)

/-! ## The snapshot coder's traffic -/

/-- The coder writes whole good units from an engine address on. -/
def State.coderWrite (s : State) (a : Nat) (d : List Byte) : State :=
  let us := (List.range (d.length / 64)).map fun u => a / 64 + u
  let t := us.foldl (fun s u => s.writeUnit (64 * u) ((d.drop (64 * u - a)).take 64) false) s
  (t.touchHoles us).issueWrites s.mem Who.coder us

/-- Records, headers and digest tables go over the narrow path (R147, R328). -/
def State.coderNarrow (s : State) (a : Nat) (d : List Byte) : State :=
  let us := (List.range (d.length / 64)).map fun u => a / 64 + u
  let t := us.foldl (fun s u => s.writeUnit (64 * u) ((d.drop (64 * u - a)).take 64) false) s
  ((t.touchHoles us).issueWrites s.mem (Who.narrow 3) us).countNarrow d.length

/-- The coder's reads of units, with what each feeds. -/
def State.coderReads (s : State) (l : List (Nat × List Nat)) : State := (s.touchHoles (l.map (·.1))).issueReads Who.coder false l

/-- Whether a request of the coder is open: bulk traffic of class COD, or its narrow copies. -/
def State.coderBusy (s : State) : Bool :=
  s.sp.any fun p => (p.rd ++ p.wr ++ p.rdWait ++ p.wrWait).any fun r =>
    r.cls == clsCod || (r.cls == clsNar && r.reader.index == 3 && r.reader.ctx.isNone)

/-- A response to the coder found a unit that is not good: a capture has read poison (R344). -/
def State.coderPoison (s : State) : State := if s.snp.active then { s with snp := { s.snp with poisonSeen := true } } else s

/-! ## Control blocks (Table 11.1) -/

/-- What the control block holds of a tracker entry. -/
def Track.ctl (e : Track) (probe : Bool) : CtlTensor :=
  ⟨e.stat.tnum, e.peck, e.seIn probe, e.sePrev, e.rx, e.rxPrev, e.head, e.flagged, e.variant⟩

/-- VALID of a Peck. -/
def peckValid (l : List (BitVec 32)) : Nat := (l.filter fun w => w.toNat % 2 ^ 31 ≠ 0x7FFFFFFF).length

/-- The word of SCL.SCALE but for CLAMP (Table 6.11); the RX that the moments were written under goes into bits that SCL.SCALE reserves
(log entry 40). -/
def ctlScale (t : CtlTensor) : Nat :=
  twos 8 t.se + 2 ^ 8 * twos 8 t.sePrev + 2 ^ 16 * twos 7 t.rx + 2 ^ 23 * (t.head % 16) + 2 ^ 27 * peckValid t.peck +
    (if t.flagged then 2 ^ 33 else 0) + 2 ^ 34 * (t.variant % 8) + 2 ^ 37 * twos 7 t.rxPrev

/-- The tensor whose pieces a holder entry places. -/
def holderTensor (i : Image) (h : Nat) : Option Nat :=
  ((i.descs.map descOf).find? fun d => d.dist && d.holder == h).map fun d => d.tnum

/-- The tensors of an image: of its tracker entries, those of variants included, and of its updates. -/
def imageTensors (i : Image) : List Nat :=
  (((i.track ++ i.variants.flatMap fun v => v.track).map fun t => t.tnum) ++ updateTensors i).eraseDups

/-- Steps of the last applied update by tensor (Table 11.1, R265): of the tensors that the update units write. -/
def State.updateTags (s : State) : List (Nat × Nat) :=
  (s.layerRecs.zip s.upd.layers).flatMap fun p => [p.1.wt, p.1.tw, p.1.tm, p.1.tv].map fun t => (t, p.2.last)

/-- The control block as it stands; `norm` is the norm of the step that has closed. -/
def State.controlBlock (s : State) (step : Nat) : CtlBlock where
  step := step
  imageId := s.fld cfgImgidImageId 0
  variants := s.chain.variants
  seed := s.upd.seed
  clipMax := s.upd.clipMax
  norm := BitVec.ofNat 32 (s.fld updNormNormLast 0)
  holderVar := s.chain.holderVar
  tensors := s.trk.map fun e => e.ctl s.probe
  layers := (s.upd.layers.zip (List.range s.upd.layers.length)).map fun p => ⟨p.2, p.1.p1, p.1.p2, p.1.applied, p.1.last⟩
  tags := s.updateTags

/-- Byte o of the little-endian bytes of n. -/
def byteOf (n o : Nat) : Byte := BitVec.ofNat 8 (n / 2 ^ (8 * o))

/-- The fields at the start of a control block: MAGIC, step, IMAGE_ID, norm, seed, CLIP_MAX, holder table; their places are a choice (log
entry 78). -/
def ctlHead (b : CtlBlock) : List Byte :=
  toBytesLE 4 recMagic ++ toBytesLE 4 b.step ++ toBytesLE 4 b.imageId ++ toBytesLE 4 b.norm.toNat ++ toBytesLE 8 b.seed.toNat ++
    toBytesLE 4 b.clipMax.toNat ++ toBytesLE 4 b.holderVar

/-- The variant that a control block gives a layer. -/
def ctlVariant (b : CtlBlock) (layer : Nat) : Nat := ((b.variants.find? fun v => v.1 == layer).map (·.2)).getD 0 % 8

/-- Byte o of a control block (Table 11.1). In the first 4 KiB, the variants of layers 2 x and 2 x + 1 share the byte at 0x800 + x. -/
def ctlByte (b : CtlBlock) (o : Nat) : Byte :=
  let tensor := fun (n : Nat) => b.tensors.find? fun t => t.tnum == n
  if o < 0x800 then (ctlHead b).getD o 0
  else if o < 0x1000 then BitVec.ofNat 8 (ctlVariant b (2 * (o - 0x800)) + 16 * ctlVariant b (2 * (o - 0x800) + 1))
  else if o < 0x101000 then
    let x := o - 0x1000
    match tensor (x / 64) with
    | some t => byteOf (t.peck.getD (x % 64 / 4) 0).toNat (x % 4)
    | none => 0
  else if o < 0x121000 then
    let x := o - 0x101000
    match tensor (x / 8) with | some t => byteOf (ctlScale t) (x % 8) | none => 0
  else if o < 0x131000 then
    let x := o - 0x121000
    match b.layers.find? fun l => l.index == x / 16 with
    | some l => byteOf ([l.p1.toNat, l.p2.toNat, l.applied, l.last].getD (x % 16 / 4) 0) (x % 4)
    | none => 0
  else if o < 0x141000 then
    let x := o - 0x131000
    match b.tags.find? fun t => t.1 == x / 4 with | some t => byteOf t.2 (x % 4) | none => 0
  else 0

/-- The 4 MiB of a control block. -/
def ctlBytes (b : CtlBlock) : List Byte := (List.range ctlSize).map (ctlByte b)

/-- The control block that 4 MiB hold, if its MAGIC stands; a tensor that had no entry has zeros there, which no entry has: a Peck of sixteen
zeros has VALID 16. The SE encoding 0x80 reads as -127 (R39). -/
def ctlFrom (i : Image) (d : List Byte) : Option CtlBlock :=
  let w := fun (o n : Nat) => bytesLE ((d.drop o).take n)
  let layers := List.range ((i.optim.map fun o => o.layers.length).getD 0)
  if w 0 4 ≠ recMagic then none
  else some {
    step := w 4 4
    imageId := w 8 4
    variants := ((i.variants.map fun v => v.layer).eraseDups).map fun l => (l, w (0x800 + l / 2) 1 / 16 ^ (l % 2) % 16)
    seed := BitVec.ofNat 64 (w 16 8)
    clipMax := BitVec.ofNat 32 (w 24 4)
    norm := BitVec.ofNat 32 (w 12 4)
    holderVar := w 28 4
    tensors := (imageTensors i).filterMap fun t =>
      let x := w (0x101000 + 8 * t) 8
      if x = 0 ∧ w (0x1000 + 64 * t) 64 = 0 then none
      else some ⟨t, (List.range 16).map fun k => BitVec.ofNat 32 (w (0x1000 + 64 * t + 4 * k) 4), max (-127) (signed 8 x), max (-127) (signed 8 (x / 2 ^ 8)),
        signed 7 (x / 2 ^ 16), signed 7 (x / 2 ^ 37), x / 2 ^ 23 % 16, x.testBit 33, x / 2 ^ 34 % 8⟩
    layers := layers.map fun l =>
      ⟨l, BitVec.ofNat 32 (w (0x121000 + 16 * l) 4), BitVec.ofNat 32 (w (0x121000 + 16 * l + 4) 4), w (0x121000 + 16 * l + 8) 4,
        w (0x121000 + 16 * l + 12) 4⟩
    tags := (updateTensors i).eraseDups.map fun t => (t, w (0x131000 + 4 * t) 4) }

/-- The control block at an engine address, where every unit of it is readable. -/
def State.ctlAt (s : State) (a : Nat) : Option CtlBlock :=
  let x := s.loadBytes 0 a ctlSize
  if x.2 then none else s.image.bind fun i => ctlFrom i x.1

/-! ## Mirror messages (R332) -/

/-- Send a mirror message to the partner. -/
def State.sendMirror (s : State) (m : MirrorMsg) : State :=
  match s.bushel with | some b => s.post (.mirror b.partner m) | none => s

/-! ## The re-shard journal (R270, R341) -/

/-- Bytes of a journal: an INTENT and a COMMIT record for each round of the longest plan. -/
def journalLen (i : Image) : Nat := 128 * (i.reshard.map fun p => p.rounds.length).foldl max 0

/-- The 64 bytes of a journal record; the places of its fields are a choice (log entry 78). -/
def journalBytes (r : JournalRec) : List Byte :=
  toBytesLE 4 (if r.commit then 2 else 1) ++ toBytesLE 4 r.plan ++ toBytesLE 4 r.round ++ List.replicate 52 0

/-- The place of a journal record. -/
def journalOff (r : JournalRec) : Nat := 128 * r.round + (if r.commit then 64 else 0)

/-- Write bytes of the working region for the Furlong transport. -/
def State.workWrite (s : State) (a : Nat) (d : List Byte) : State := s.storeBatch Who.furlong false (bytesAt 0 a d false)

/-- Put a record into the journal at an address. -/
def State.putJournal (s : State) (a : Nat) (r : JournalRec) : State := s.workWrite (a + journalOff r) (journalBytes r)

/-- Clear the journal at an address. -/
def State.clearJournal (s : State) (a : Nat) : State :=
  match s.image with
  | some i => if i.reshard.isEmpty then s else s.workWrite a (List.replicate (journalLen i) 0)
  | none => s

/-- Where this engine's own journal lies. -/
def State.ownJournal (s : State) : Nat := match s.image with | some i => i.journal | none => 0

/-- Write a re-shard journal record and mirror it (R270, R332). -/
def State.writeJournal (s : State) (r : JournalRec) : State := (s.putJournal s.ownJournal r).sendMirror (.journal r)

/-- The units of the journal at an address. -/
def State.journalUnits (s : State) (a : Nat) : List Nat :=
  (List.range ((match s.image with | some i => journalLen i | none => 0) / 64)).map fun u => a / 64 + u

/-- The journal at an address: its readable records, and whether every unit of it is readable (R341). -/
def State.journalAt (s : State) (a : Nat) : List JournalRec × Bool :=
  let us := (List.range ((match s.image with | some i => journalLen i | none => 0) / 64)).map fun u => s.readUnit (a + 64 * u)
  (us.filterMap fun x =>
    let w := fun (o : Nat) => bytesLE ((x.1.drop o).take 4)
    if x.2 || !(w 0 == 1 || w 0 == 2) then none else some ⟨w 4, w 8, w 0 == 2⟩, us.all fun x => !x.2)

/-! ## Slots and records (R324, R325, R327) -/

/-- Write a record into its slot: OPEN overwrites the others with +0 (R328); the slot registers and the mirror follow. -/
def State.writeRec (s : State) (slotB : Bool) (kind : RecKind) (step : Nat) : State :=
  match s.bushel with
  | none => s
  | some b =>
    let r : SlotRec := ⟨slotB, kind, step, s.fld cfgImgidImageId 0, b.n, dataCells b, b.pos, s.fld snpCfgCellUnits 0⟩
    let d := slotRecBytes r ++ (if kind = .opened then List.replicate 128 0 else [])
    let n := (if slotB then 3 else 0) + recUnit kind
    let s : State := { s with snp := { s.snp with lostRecs := s.snp.lostRecs.filter fun k => !(k == n || (kind == .opened && k / 3 == n / 3)) } }
    ((s.coderNarrow (s.slotBase slotB + 64 * recUnit kind) d).refreshSlots).sendMirror (.slotRecord r)

/-- The committed step of a slot. -/
def State.slotCommitted (s : State) (slotB : Bool) : Option Nat :=
  match s.slotState (s.slotRecs slotB) with
  | (some r, 3) => some r.step
  | _ => none

/-- The slot that the next snapshot goes into: slot B when true (R327). -/
def State.targetSlot (s : State) : Bool :=
  match s.slotCommitted false, s.slotCommitted true with
  | some a, some b => decide (b < a)
  | some _, none => true
  | none, _ => false

/-- The slot that is DONE or COMMITTED for a step. -/
def State.slotOf (s : State) (step : Nat) : Option Bool :=
  [false, true].find? fun b =>
    match s.slotState (s.slotRecs b) with
    | (some r, k) => decide (2 ≤ k) && r.step == step
    | (none, _) => false

/-- The two digests of a group position in a digest table at an engine address (Table 11.2), as numbers; none where a unit of them is not
good. -/
def State.digestAt (s : State) (a pos : Nat) : Option (Nat × Nat) :=
  let x := s.loadBytes 0 (a + 96 * pos) 96
  if x.2 then none else some (bytesBE (x.1.take 48), bytesBE (x.1.drop 48))

/-- The units of the digests of a group position. -/
def digestUnits (a pos : Nat) : List Nat :=
  (List.range ((a + 96 * pos + 95) / 64 + 1 - (a + 96 * pos) / 64)).map ((a + 96 * pos) / 64 + ·)

/-- Where a slot's digest table stands. -/
def State.slotTable (s : State) (slotB : Bool) : Nat := s.slotBase slotB + 0x1000

/-- The bytes of a group's digest table, all sixteen positions. -/
def tableBytes (t : DigestTable) : List Byte :=
  (List.range 16).flatMap fun p => let x := t.getD p (0, 0); toBytesBE 48 x.1 ++ toBytesBE 48 x.2

/-- Write a group's digest table into a slot (R328), and mirror it. -/
def State.writeTable (s : State) (slotB : Bool) (t : DigestTable) : State :=
  (s.coderNarrow (s.slotTable slotB) (tableBytes t)).sendMirror (.digests slotB t)

/-! ## The mirror area (R332) -/

/-- Where the mirror keeps the latest control block, the block of each slot as last committed, that of the snapshot in progress, the
records of both slots, the digest tables and the journal; their places are a choice (log entry 78). -/
def State.mirrorLatest (s : State) : Nat := match s.bushel with | some b => b.mirror | none => 0
def State.mirrorSlot (s : State) (slotB : Bool) : Nat := s.mirrorLatest + (if slotB then 0x800000 else 0x400000)
def State.mirrorOpen (s : State) : Nat := s.mirrorLatest + 0xC00000
def State.mirrorRecBase (s : State) (slotB : Bool) : Nat := s.mirrorLatest + 0x1000000 + (if slotB then 192 else 0)
def State.mirrorTable (s : State) (slotB : Bool) : Nat := s.mirrorLatest + 0x1001000 + (if slotB then 1536 else 0)
def State.mirrorJournal (s : State) : Nat := s.mirrorLatest + 0x1002000

/-- The records of both slots of the mirror source. -/
def State.mirrorRecs (s : State) : List SlotRec := [false, true].flatMap fun b => s.recsAt (s.mirrorRecBase b) b

/-- SHA-384 over the digests of the 1 MiB pieces of some bytes (R325). -/
def pieceDigest (d : List Byte) : Nat :=
  sha384Nat ((List.range ((d.length + 1048575) / 1048576)).flatMap fun i => sha384 ((d.drop (1048576 * i)).take 1048576))

/-- The shard digest and the parity digest of a slot. -/
def State.slotDigests (s : State) (b : Bushel) (slotB : Bool) : Nat × Nat :=
  (pieceDigest (s.loadBytes 0 (s.cellAddr slotB 0) (b.stateBytes + ctlSize)).1,
   pieceDigest (s.loadBytes 0 (s.cellAddr slotB (dataCells b)) (2 * s.cellLen)).1)

/-! ## Capture and encode (R328) -/

/-- Unit u of the shard as it is captured, and whether the state unit it copies is poisoned. -/
def State.shardUnit (s : State) (b : Bushel) (c : CtlBlock) (u : Nat) : List Byte × Bool :=
  let x := if 64 * u < b.stateBytes then s.readUnit (2 ^ 26 * s.fld cfgRegionBase 1 + 64 * u) else (List.replicate 64 0, false)
  ((List.range 64).map fun i =>
    let o := 64 * u + i
    if o < b.stateBytes then x.1.getD i 0 else if o < b.stateBytes + ctlSize then ctlByte c (o - b.stateBytes) else 0, x.2)

/-- Copy the shard into the data cells of the slot. -/
def State.capture (s : State) (b : Bushel) (slotB : Bool) (c : CtlBlock) : State :=
  let base := s.cellAddr slotB 0
  let n := dataCells b * s.cellLen / 64
  let src := (List.range ((b.stateBytes + 63) / 64)).map fun u => 2 ^ 20 * s.fld cfgRegionBase 1 + u
  let bad := (List.range n).any fun u => (s.shardUnit b c u).2
  let d := (List.range n).flatMap fun u => (s.shardUnit b c u).1
  let s := (s.coderReads (src.map fun u => (u, []))).coderWrite base d
  { s with snp := { s.snp with poisonSeen := s.snp.poisonSeen || bad } }

/-- A piece of a cell of this engine's slot as its bytes stand. -/
def State.rawPiece (s : State) (slotB : Bool) (cell off : Nat) : List Byte :=
  (List.range pieceUnits).flatMap fun u => (s.readUnit (s.cellAddr slotB cell + off + 64 * u)).1

/-- The running pair of a stripe goes on from data position i: to the next one, or to the holders of P and Q (R328). -/
def State.sendPair (s : State) (b : Bushel) (step j i off : Nat) (p q : List Byte) (bad : List (Nat × Nat)) : State :=
  if i + 1 < dataCells b then s.post (.bushel (groupRank b (stripeHolder b j (i + 1))) (.chain step j (i + 1) off p q bad))
  else
    (s.post (.bushel (groupRank b j) (.parity step j off false p bad))).post
      (.bushel (groupRank b ((j + 1) % b.n)) (.parity step j off true q bad))

/-- This engine adds its data to a piece of stripe j (R323, R328). -/
def State.encodePiece (s : State) (b : Bushel) (j off : Nat) (p q : List Byte) : State :=
  let i := stripeCell b j b.pos
  let d := s.rawPiece s.snp.slotB i off
  s.sendPair b s.snp.step j i off (xorBytes p d) (xorBytes q (gfScale (gfAlpha i) d)) []

/-- A parity piece is written once (R328). -/
def State.parityPiece (s : State) (b : Bushel) (off : Nat) (isQ : Bool) (d : List Byte) : State :=
  let cell := dataCells b + (if isQ then 1 else 0)
  let key := (if isQ then 1 else 0, off)
  if s.snp.pieces.contains key then s
  else
    ({ s with snp := { s.snp with pieces := key :: s.snp.pieces } } : State).coderWrite (s.cellAddr s.snp.slotB cell + off) d

/-- The offsets of the pieces of a cell. -/
def State.pieceOffsets (s : State) : List Nat := (List.range (s.fld snpCfgCellUnits 0)).map (· * pieceBytes)

/-- A Bushel transfer of the snapshot in progress. -/
def State.encodeMsg (s : State) (b : Bushel) (m : BushelMsg) : State :=
  match m with
  | .chain st j i off p q _ =>
    if st = s.snp.step ∧ stripeCell b j b.pos = i ∧ i < dataCells b then s.encodePiece b j off p q else s
  | .parity st _ off isQ d _ => if st = s.snp.step then s.parityPiece b off isQ d else s
  | _ => s

/-- The pieces that came before this engine's own boundary (R328). -/
def State.takeEarly (s : State) (f : State → BushelMsg → State) : State :=
  s.snp.early.foldl f { s with snp := { s.snp with early := [] } }

/-- Open a snapshot of step s: OPEN, capture, the first pieces of the chain that starts here, pieces that came early (R328). -/
def State.openSnapshot (s : State) (b : Bushel) (step : Nat) : State :=
  let slotB := s.targetSlot
  let c := s.controlBlock step
  let s : State := { s with
    snp := { s.snp with
      active := true, step := step, slotB := slotB, openTime := s.time, doneSent := false, poisonSeen := false, skipped := false
      sealing := none, pieces := [], dones := s.snp.dones.filter fun d => d.2.1 == step }
    pwr := { s.pwr with codGated := false } }
  let s := (s.writeRec slotB .opened step).capture b slotB c
  let j := (b.pos + b.n - 2) % b.n
  let zero := List.replicate pieceBytes (0 : Byte)
  let s := if dataCells b = 0 then s else s.pieceOffsets.foldl (fun s off => s.encodePiece b j off zero zero) s
  (s.setFld snpStatusPhase 0 2).takeEarly fun s m => s.encodeMsg b m

/-- A marked boundary at which no snapshot is taken (R327). -/
def State.skipSnapshot (s : State) (step : Nat) : State :=
  let s := (s.setOnce snpStatusSnapSkip 0 mgtIrqPendSnap).bump snpSchedSkips 0 1
  (s.logEv 0x0405 10 0 (step + (if s.snp.slotB then 2 ^ 32 else 0) + 2 ^ 33))

/-- The step of a piece of a stripe. -/
def pieceStep : BushelMsg → Option Nat
  | .chain st _ _ _ _ _ _ | .parity st _ _ _ _ _ | .syndrome st _ _ _ _ _ | .rebuilt st _ _ _ => some st
  | _ => none

/-- No snapshot opens at this boundary: pieces of other steps than a probe repeats are dropped. -/
def State.dropEarly (s : State) (step : Nat) (probe : Bool) : State :=
  { s with snp := { s.snp with early := if probe then s.snp.early.filter fun m => pieceStep m == some step else [] } }

/-- The fourth action of R31 on a boundary that opens a step (R326, R327). -/
def State.boundarySnapshot (s : State) (step : Nat) (probe : Bool) : State :=
  let iv := s.fld snpSchedInterval 0
  match s.bushel with
  | none => s
  | some b =>
    if iv = 0 ∨ step % iv ≠ 0 ∨ probe = true ∨ s.snp.mismatch = true then s.dropEarly step probe
    else if s.snp.active then ({ s with snp := { s.snp with skipped := true } } : State).skipSnapshot step
    else if s.snp.skipNext then ({ s with snp := { s.snp with skipNext := false, early := [] } } : State).skipSnapshot step
    else s.openSnapshot b step

/-- The snapshot in progress ends (R330, R344). -/
def State.endSnapshot (s : State) : State :=
  if s.snp.active then
    ({ s with snp := { s.snp with active := false, skipped := false, sealing := none, updHeld := [], early := [] } } : State).setFld snpStatusPhase 0 0
  else s

/-- What a halt or a restore does to the snapshot in progress (R257, R330): once SEAL has come it is still committed. -/
def State.dropSnapshot (s : State) : State := if s.snp.sealing.isSome then s else s.endSnapshot

/-- The COMMIT record, last, once every other unit of the slot is written (R328, R330). -/
def State.commitSlot (s : State) : State :=
  match s.snp.sealing with
  | some skip =>
    if s.snp.active && !s.coderBusy then
      let s := s.writeRec s.snp.slotB .committed s.snp.step
      let s := s.setFld snpSchedLastUs 0 (min ((s.time - s.snp.openTime) / 100) 4294967295)
      let s := (s.irq mgtIrqPendSnap).logEv 0x0405 10 0 (s.snp.step + (if s.snp.slotB then 2 ^ 32 else 0))
      ({ s with snp := { s.snp with skipNext := skip && !s.snp.skipped } } : State).endSnapshot
    else s
  | none => s

/-! ## The halt of R257 -/

/-- The effects of an ABORT (R308): the staged change is discarded, the result shows, COMMIT_ABORT is recorded. -/
def State.abortEffects (s : State) : State :=
  let s := match s.chain.prepared with | some e => s.setFld cfgMstatEntry 0 e | none => s
  let s : State := { s with chain := { s.chain with staged := none, committed := none, prepared := none } }
  let s := (s.setFld cfgMstatPending 0 0).setFld cfgMstatLastResult 0 2
  let s := (s.bump cfgMstatAborts 0 1).setFld cfgMstatCommitAbort 0 1
  (s.irq mgtIrqPendMode).logEv 0x0108 2 0 0

/-- HALTED with the effects of R257: no further work, no FX credit, a pending proposal and a snapshot in progress end. -/
def State.haltChain (s : State) : State :=
  let s := ((s.setFld cfgAdmitState 0 admHalted).setFld mapStatusHalted 0 1).irq mgtIrqPendHalt
  let s := (if s.chain.staged.isSome then s.abortEffects else s).dropSnapshot
  let s := (s.setFld mapHeadReported 0 0).setFld mapHeadProbeNext 0 0
  let s := if s.chain.reshard.isSome then (s.setFld mapReshardActive 0 0).setFld mapReshardPhase 0 0 else s
  { s with chain := { s.chain with pending := none, proposals := [], reports := [], reshard := none, journal := none, blocks := [], roundDones := [] } }

/-! ## SCAN (R334, R335) -/

/-- The slots that are COMMITTED (true) or DONE, with their steps. -/
def State.slotSteps (s : State) : List (Nat × Bool) :=
  [false, true].filterMap fun b =>
    match s.slotState (s.slotRecs b) with
    | (some r, k) => if 2 ≤ k then some (r.step, decide (k = 3)) else none
    | (none, _) => none

/-- The COMMITTED steps that the mirror holds for the mirror source. -/
def State.mirrorSteps (s : State) : List Nat := (s.mirrorRecs.filter fun r => r.kind == .committed).map fun r => r.step

/-- A restore that waits for its ports begins its SCAN once every used port is UP (R334), and a COMMIT that is still due has been written
(R330). The COMMIT records of the mirror are read for it. -/
def State.tryScan (s : State) : State :=
  if s.snp.restore.waiting && s.snp.sealing.isNone && s.usedPorts.all (fun n => s.linkState n == linkUp) then
    let s : State := { s with snp := { s.snp with
      restore := { s.snp.restore with waiting := false }
      fill := { serveNo := s.snp.fill.serveNo } } }
    let us := [false, true].map fun b => (s.mirrorRecBase b + 128) / 64
    let feeds := fun u => ((s.mirrorRecs.filter fun r => r.kind == .committed && (s.mirrorRecBase r.slotB + 128) / 64 == u).map fun r => r.step % 2 ^ 30)
    ((((s.setFld snpStatusPhase 0 4).touchHoles us).countNarrow 128).holdMsg (Who.narrow 3) (us.map fun u => (u, feeds u))
      (.scan s.rank s.slotSteps s.mirrorSteps))
  else s

/-- What waits for the ports of the image: the ready report and the scan. -/
def State.portsReady (s : State) : State := s.trySendReady.tryScan

end Sys2Proof.Machine
end

