-- ==== Sys2Proof/Machine/Modes.lean ====
section
/-!
DEFINITION. Sys2Proof/Machine/Modes.lean: mode proposals and the two-phase mode commit (10 section 10.7, R174, R440).
-/
namespace Sys2Proof.Machine

/-- An entry of the mode table. -/
def State.modeEntry (s : State) (e : Nat) : Option ModeKind :=
  s.image.bind fun i => (i.modes.find? fun m => m.1 == e).map fun m => m.2

/-- The active variant of a layer. -/
def State.variantOf (s : State) (layer : Nat) : Nat := ((s.chain.variants.find? fun v => v.1 == layer).map fun v => v.2).getD 0

/-! ## Proposals (R174, R306) -/

/-- A write of CFG.MPROP: forwarded to the chain head, discarded outside RUNNING (R306, Table 10.17). -/
def State.effMprop (s : State) (entry : Nat) : State :=
  if s.admState = admRunning then s.post (.proposal s.rank entry) else s

/-- The management controller may propose an entry: AUTO_WIDEN, and a flagged layer whose next wider variant it carries (R174). -/
def State.mayWiden (s : State) (entry : Nat) : Bool :=
  s.alive && !s.mcHalted && s.admState == admRunning && s.flag sclCfgAutoWiden 0 &&
    match s.modeEntry entry with
    | some (.variant ps) => s.trk.any fun e => e.used && e.flagged && ps.contains (e.stat.layer, s.variantOf e.stat.layer + 1)
    | _ => false

/-- MODE_PROPOSAL (R306): by a register write, or by the management controller. -/
def execModeProposal (entry : Nat) (fromMc : Bool) (src : Src) (s : State) : Out :=
  .next (
    if fromMc then (if s.mayWiden entry then s.post (.proposal s.rank entry) else s)
    else s.gate src .cfgMprop 0 fun s => s.effMprop (entry % 65536))

/-- The head runs the Chain. -/
def State.headRuns (s : State) : Bool := s.works && s.flag mapChainIsHead 0 && s.admState == admRunning

/-- The head starts the next proposal with PREPARE when none is pending (R307). -/
def State.startNext (s : State) : State :=
  match s.chain.pending, s.chain.proposals with
  | none, p :: rest =>
    let target := (s.epoch.toNat + 1) % 2 ^ 32
    ({ s with chain := { s.chain with proposals := rest, pending := some ⟨p.1, p.2, target, []⟩ } } : State).post (.prepare p.2 target)
  | _, _ => s

/-- Proposals in the head's hands (R306). -/
def State.proposalCount (s : State) : Nat := s.chain.proposals.length + (if s.chain.pending.isSome then 1 else 0)

/-- A refusal, as the proposer records it (R306). -/
def State.proposalRefused (s : State) (entry : Nat) : State :=
  (((s.setFld cfgMstatEntry 0 entry).setFld cfgMstatLastResult 0 3).irq mgtIrqPendMode).logEv 0x0207 1 0 entry

/-- PROPOSAL_ARRIVAL (R306): at the head, up to 16 in arrival order; the 17th is refused. A proposal that the head refused comes back to
its proposer, which records that. -/
def execProposalArrival (rank entry : Nat) (refused : Bool) (s : State) : Out :=
  .next (
    if refused then (if s.onChain && rank == s.rank then s.proposalRefused entry else s)
    else if !s.headRuns then s
    else if 16 ≤ s.proposalCount then
      if rank = s.rank then s.proposalRefused entry else s.post (.refusedProposal rank entry)
    else ({ s with chain := { s.chain with proposals := s.chain.proposals ++ [(rank, entry)] } } : State).startNext)

/-! ## PREPARE, ACK, NAK (R307, R308) -/

/-- A re-shard is staged on this engine. -/
def State.reshardStaged (s : State) : Bool :=
  match s.chain.staged.bind fun x => s.modeEntry x.1 with | some (.reshard _) => true | _ => false

/-- Stage a change and answer ACK, or answer NAK (R307). -/
def State.prepareMode (s : State) (entry target : Nat) : State :=
  let s : State := { s with chain := { s.chain with prepared := some entry } }
  if (s.modeEntry entry).isNone || s.reshardStaged then s.post (.nak s.rank entry target)
  else
    let s : State := { s with chain := { s.chain with staged := some (entry, target), committed := none } }
    ((s.setFld cfgMstatPending 0 1).setFld cfgMstatEntry 0 entry).post (.ack s.rank entry target)

/-- PREPARE (R307). -/
def execPrepare (entry target : Nat) (s : State) : Out :=
  .next (if s.works && s.admState == admRunning then s.prepareMode entry target else s)

/-- The pending proposal when a message names it. -/
def State.pendingIs (s : State) (entry target : Nat) : Option Proposal :=
  match s.chain.pending with
  | some p => if p.entry = entry ∧ p.target = target then some p else none
  | none => none

/-- MODE_ACK (R308): discarded when it answers no pending proposal. -/
def execModeAck (rank entry target : Nat) (s : State) : Out :=
  .next (
    if !s.headRuns then s
    else match s.pendingIs entry target with
    | some p =>
      { s with chain := { s.chain with pending := some { p with acks := rank :: p.acks.filter (· ≠ rank) } } }
    | none => s)

/-- The head aborts the pending proposal and takes the next one (R308). -/
def State.abortPending (s : State) (entry : Nat) : State :=
  ({ s.post (.abort entry) with chain := { (s.post (.abort entry)).chain with pending := none } } : State).startNext

/-- MODE_NAK (R308): the head sends ABORT at once. -/
def execModeNak (_rank entry target : Nat) (s : State) : Out :=
  .next (
    if !s.headRuns then s
    else match s.pendingIs entry target with
    | some _ => s.abortPending entry
    | none => s)

/-- COMMIT (R309): the staged change takes effect at the boundary of the epoch token that follows. -/
def execCommit (s : State) : Out :=
  .next (
    match s.chain.staged with
    | some (e, _) =>
      if s.works && s.admState == admRunning then { s with chain := { s.chain with committed := some e } } else s
    | none => s)

/-- ABORT (R308). -/
def execAbort (s : State) : Out := .next (if s.works && s.admState == admRunning then s.abortEffects else s)

/-! ## The change takes effect (R305, R174, R440) -/

/-- The tracker entries of a variant of a layer; variant 0 is the image's first. -/
def variantTracks (i : Image) (layer v : Nat) : List TrackRec :=
  if v = 0 then i.track.filter fun t => t.layer == layer
  else (i.variants.filter fun x => x.layer == layer && x.variant == v).flatMap fun x => x.track

/-- Variant v of a layer governs from the new step: entries that only another variant declares, and those that the tile tables no longer
name, are used no more until a tile names them again. -/
def State.setVariant (s : State) (i : Image) (layer v : Nat) : State :=
  let new := variantTracks i layer v
  let others := (i.variants.filter fun x => x.layer == layer).flatMap fun x => x.track.map fun t => t.tnum
  let gone := others.filter fun t => !(new.any fun r => r.tnum == t) && !(i.track.any fun r => r.tnum == t)
  let before := s.tileTensors
  let s : State := { s with
    chain := { s.chain with variants := (layer, v) :: s.chain.variants.filter fun x => x.1 != layer }
    trk := s.trk.map fun e =>
      if gone.contains e.stat.tnum then { e with used := false } else if e.stat.layer = layer then { e with variant := v } else e }
  let s := new.foldl (fun s r => s.variantTrack r v) s
  let after := s.tileTensors
  { s with trk := s.trk.map fun e =>
    if e.stat.layer ≠ layer then e
    else if after.contains e.stat.tnum then { e with used := true }
    else if before.contains e.stat.tnum then { e with used := false }
    else e }

/-- The parts of a change other than a re-shard (Table 10.8a). -/
def State.applyMode (s : State) (k : ModeKind) : State :=
  match k with
  | .variant ps => match s.image with | some i => ps.foldl (fun s p => s.setVariant i p.1 p.2) s | none => s
  | .seed x => { s with upd := { s.upd with seed := x } }
  | .clipMax v => { s with upd := { s.upd with clipMax := v } }
  | .reshard _ => s

/-- The third action of R31: the committed change, and the plan of a re-shard that it starts (R309). -/
def State.applyCommitted (s : State) : State × Option Nat :=
  match s.chain.committed with
  | none => (s, none)
  | some e =>
    let k := s.modeEntry e
    let s : State := { s with chain := { s.chain with staged := none, committed := none, prepared := none } }
    let s := ((s.setFld cfgMstatPending 0 0).setFld cfgMstatEntry 0 e).setFld cfgMstatLastResult 0 1
    let s := s.irq mgtIrqPendMode
    match k with
    | some (.reshard p) => (s, some p)
    | some k => (s.applyMode k, none)
    | none => (s, none)

end Sys2Proof.Machine
end

