-- ==== Sys2Proof/Machine/UpdOps.lean ====
section
/-!
DEFINITION. Sys2Proof/Machine/UpdOps.lean: the arithmetic of the update units (R224 to R236): learning rate, gradient, the four
families, BQn encoding, the clip factor.
-/
namespace Sys2Proof.Machine

/-- FAMILY codes (Table 8.15). -/
abbrev famAdapt : Nat := 0
abbrev famMom : Nat := 1
abbrev famSign : Nat := 2
abbrev famSgd : Nat := 3
/-- DECAY codes. -/
abbrev decayCoupled : Nat := 1
abbrev decayDecoupled : Nat := 2

/-! ## Learning rate and clip factor (R226, R231) -/

/-- lrt(s) and the breakpoint k in use (R226). -/
def lrtAt (t : List (Nat × F32)) (s : Nat) : F32 × Nat :=
  let at' := fun (k : Nat) => t.getD k (0, 0)
  if s ≤ (at' 0).1 then ((at' 0).2, 0)
  else if (at' (t.length - 1)).1 ≤ s then ((at' (t.length - 1)).2, t.length - 1)
  else
    let k := ((List.range (t.length - 1)).find? fun k => decide ((at' k).1 ≤ s) && decide (s < (at' (k + 1)).1)).getD 0
    let a := at' k
    let b := at' (k + 1)
    let f := toF32 (valDiv (valOfInt ((s : Int) - a.1)) (valOfInt ((b.1 : Int) - a.1)))
    (fAdd a.2 (fMul (fSub b.2 a.2) f), k)

/-- Whether a < b; a NaN compares false. -/
def fLess (a b : F32) : Bool :=
  match valAdd (ofF32 a) (valNegate (ofF32 b)) with
  | .fin n m _ => n && decide (m ≠ 0)
  | .inf n => n
  | .nan => false

/-- The clip factor of norm n, and the verdict NF (R231). -/
def clipFactor (n clipMax : F32) : F32 × Bool :=
  if !fFinite n then (f32One, true)
  else if fLess clipMax n then (fDiv clipMax n, false)
  else (f32One, false)

/-- The global norm of the final pair (R230). -/
def normOf (p : Pair) : F32 := toF32 (valSqrt (pairVal p))

/-! ## One element (R225, R228) -/

/-- The values of a layer that every element of a step shares. -/
structure Coef where
  c : F32
  lr : F32
  lrh : F32
  eps : F32
  bc1 : F32
  bc2 : F32
  rx : Int
deriving DecidableEq, Repr

/-- The shared values of layer r with products p1 and p2, range exponent rx, lrt(s) and the clip factor (R226 to R228). -/
def coefOf (r : LayerRec) (p1 p2 : F32) (rx : Int) (lrt c : F32) : Coef :=
  let lr := fMul r.lrm lrt
  ⟨c, lr, fScale (-rx) lr, fScale rx r.eps, fSub f32One (fMul p1 r.b1), fSub f32One (fMul p2 r.b2), rx⟩

/-- g of R225, before the clip factor. -/
def gradG (r : LayerRec) (graw : F32) : F32 := fMul r.gscale graw

/-- The scaled gradient of R225. -/
def gradHat (r : LayerRec) (k : Coef) (graw w : F32) : F32 :=
  let g := gradG r graw
  let g := if k.c = f32One then g else fMul k.c g
  let g := if r.decay = decayCoupled then fAdd g (fMul r.lam w) else g
  fScale k.rx g

/-- The sign step: +1, -1, +0 or NaN (R228). -/
def signOf (c : F32) : F32 :=
  match ofF32 c with
  | .nan => f32NaN
  | .inf n => if n then 0xBF800000 else f32One
  | .fin n m _ => if m = 0 then 0 else if n then 0xBF800000 else f32One

/-- One element: the new master and moments (R228). -/
def updateElem (r : LayerRec) (k : Coef) (gh w m v : F32) : F32 × F32 × F32 :=
  let dec := r.decay == decayDecoupled
  if r.family = famAdapt then
    let m := fAdd (fMul r.b1 m) (fMul r.omb1 gh)
    let v := fAdd (fMul r.b2 v) (fMul r.omb2 (fMul gh gh))
    let mh := if r.bias then fDiv m k.bc1 else m
    let vh := if r.bias then fDiv v k.bc2 else v
    let u := fDiv mh (fAdd (fSqrt vh) k.eps)
    let u := if dec then fAdd u (fMul r.lam w) else u
    (fSub w (fMul k.lr u), m, v)
  else if r.family = famMom then
    let m := fAdd (fMul r.mu m) gh
    let d := fMul k.lrh m
    let d := if dec then fAdd d (fMul k.lr (fMul r.lam w)) else d
    (fSub w d, m, v)
  else if r.family = famSign then
    let u := signOf (fAdd (fMul r.b1 m) (fMul r.omb1 gh))
    let m := fAdd (fMul r.b2 m) (fMul r.omb2 gh)
    let u := if dec then fAdd u (fMul r.lam w) else u
    (fSub w (fMul k.lr u), m, v)
  else
    let d := fMul k.lrh gh
    let d := if dec then fAdd d (fMul k.lr (fMul r.lam w)) else d
    (fSub w d, m, v)

/-! ## BQn encoding (R42 to R47, R56, R57) -/

/-- What encode_group gives: codes, exponent bytes, the side-list, counts. -/
structure BqGroup where
  codes : List Int
  exps : List Nat
  side : List (Nat × Nat)
  ovf : Nat
  unf : Nat
  spill : Nat
deriving DecidableEq, Repr

/-- Insert a candidate by decreasing magnitude, equal magnitudes by increasing position. -/
def insertCand (x : Nat × Val) : List (Nat × Val) → List (Nat × Val)
  | [] => [x]
  | y :: t => if absLt y.2 x.2 then x :: y :: t else y :: insertCand x t

/-- The candidates of a group in the order of R56. -/
def candidates (xs : List Val) (ot : Int) : List (Nat × Val) :=
  ((List.range xs.length).zip xs).foldl (fun l x =>
    if valIsFinite x.2 && !valIsZero x.2 && !absLt x.2 (.fin false 1 ot) then insertCand x l else l) []

/-- rne(x / 2^k). -/
def rneUnits (v : Val) (k : Int) : Int :=
  match v with
  | .fin n m e =>
    let q := if k ≤ e then m * 2 ^ (e - k).toNat else rneShift m (k - e).toNat
    if n then -(q : Int) else q
  | _ => 0

/-- Block b of a group: exponent byte, codes, and the counts of overflows and underflows (R57). A block of a NaN counts an underflow for
each non-zero finite element outside the side-list, for it encodes to code 0. For n = 1, where R40's codes are 0 for +1 and 1 for -1, a
clipped element takes the code of its sign and no code 0 is an underflow (log entry 100). -/
def encodeBlock (xs : List Val) (n : Nat) (ot : Int) (keep clip : List Nat) (b : Nat) : Nat × List Int × Nat × Nat :=
  let js := (List.range 32).map (32 * b + ·)
  let blk := js.filter (· < xs.length)
  let x := fun (j : Nat) => xs.getD j valZero
  if blk.isEmpty then (0, List.replicate 32 0, 0, 0)
  else if blk.any fun j => !valIsFinite (x j) then
    (255, List.replicate 32 0, 0,
      if n = 1 then 0 else (blk.filter fun j => valIsFinite (x j) && !valIsZero (x j) && !keep.contains j).length)
  else
    let rest := (blk.filter fun j => !keep.contains j && !clip.contains j).map fun j => valAbs (x j)
    let sum := rest.foldl valAdd valZero
    let top := rest.foldl (fun m v => if absLt m v then v else m) valZero
    let m := if n = 1 then sum else if valIsZero top && blk.any clip.contains then .fin false 1 ot else top
    let k0 : Int := if valIsZero m then -127 else floorLog2 m - (if n = 1 then 5 else (n : Int) - 2)
    let k := clampInt (-127) 127 k0
    let qmax : Int := if n = 1 then 1 else 2 ^ (n - 1) - 1
    let out := js.map fun j =>
      if xs.length ≤ j ∨ keep.contains j = true then ((0 : Int), false, false)
      else if clip.contains j then
        let q := if valNeg (x j) then -qmax else qmax
        ((if n = 1 then (if q < 0 then 1 else 0) else q), false, false)
      else if n = 1 then ((if valNeg (x j) && !valIsZero (x j) then 1 else 0), false, false)
      else
        let q := rneUnits (x j) k
        (clampInt (-qmax) qmax q, decide (127 < k0) && decide (qmax < q.natAbs), decide (q = 0) && !valIsZero (x j))
    ((k + 127).toNat, out.map (·.1), (out.filter (·.2.1)).length, (out.filter (·.2.2)).length)

/-- encode_group of R57; a group shorter than 256 elements is padded (R45). -/
def encodeGroup (xs : List Val) (n : Nat) (ot : Int) : BqGroup :=
  let cs := candidates xs ot
  let keep := cs.take 4
  let clip := (cs.drop 4).map (·.1)
  let bs := (List.range 8).map fun b => encodeBlock xs n ot (keep.map (·.1)) clip b
  let side := keep.map fun x => (x.1, encodeFloat fmtG16 x.2)
  { codes := bs.flatMap fun b => b.2.1
    exps := bs.map (·.1)
    side := side.map fun x => (x.1, x.2.bits)
    ovf := (bs.foldl (fun s b => s + b.2.2.1) 0) + (side.filter fun x => x.2.ovf).length
    unf := (bs.foldl (fun s b => s + b.2.2.2) 0) + (side.filter fun x => x.2.unf).length
    spill := clip.length }

/-- The code stream of a group: bit planes for n below 8 (R44). -/
def codeStream (n : Nat) (codes : List Int) : List Byte :=
  if n = 8 then codes.map fun c => BitVec.ofNat 8 (twos 8 c)
  else
    (List.range n).flatMap fun p => (List.range 32).map fun b =>
      BitVec.ofNat 8 ((List.range 8).foldl (fun x i =>
        x + (if (twos 8 (codes.getD (8 * b + i) 0)).testBit p then 2 ^ i else 0)) 0)

/-- A side-list record (Table 2.5). -/
def sideRecord (side : List (Nat × Nat)) : List Byte :=
  ((List.range 4).flatMap fun i =>
    match side[i]? with
    | some x => BitVec.ofNat 8 x.1 :: toBytesLE 2 x.2
    | none => [0, 0, 0]) ++ [BitVec.ofNat 8 side.length, 0, 0, 0]

/-- The bytes of an encoded group in the order of its places: codes, exponents, side-list. Where the descriptor has no side-list the
candidates of R56 are taken out all the same, and their record is written nowhere (log entry 121). -/
def groupBytes (n : Nat) (sidelist : Bool) (g : BqGroup) : List Byte :=
  codeStream n g.codes ++ g.exps.map (BitVec.ofNat 8) ++ (if sidelist then sideRecord g.side else [])

end Sys2Proof.Machine
end

