-- ==== Sys2Proof/Machine/Update.lean ====
section
/-!
DEFINITION. Sys2Proof/Machine/Update.lean: the update units (08): layers and blocks, masters and moments, partial norms, the clip
token, narrow weights, and what the epoch boundary does to them.
-/
namespace Sys2Proof.Machine

/-! ## Layers, slices, clip modes (R220 to R223, R231, R232, R234) -/

/-- Clip modes (Table 8.6). -/
abbrev clipExact : Nat := 1
abbrev clipPrev : Nat := 2

/-- Updates wait for the clip token: EXACT mode, or policy SKIP in any mode (R232, R234). A probe step has no clip token. -/
def State.holdMode (s : State) : Bool := (s.fld updCfgClipMode 0 == clipExact || s.flag updCfgNfPolicy 0) && !s.probe

/-- The layer's record and its dynamic state. -/
def State.layerAt (s : State) (l : Nat) : Option (LayerRec × LayerSt) :=
  match s.layerRecs[l]?, s.upd.layers[l]? with
  | some r, some x => some (r, x)
  | _, _ => none

/-- Change the dynamic state of layer l. -/
def State.modLayer (s : State) (l : Nat) (f : LayerSt → LayerSt) : State :=
  { s with upd := { s.upd with layers := s.upd.layers.modify l f } }

/-- Change unit u. -/
def State.modUnit (s : State) (u : Nat) (f : UnitSt → UnitSt) : State :=
  { s with upd := { s.upd with units := s.upd.units.modify u f } }

/-- The lowest element index of a layer's shard (R221). -/
def firstMin (r : LayerRec) : Nat :=
  match r.slices with
  | [] => 0
  | x :: t => t.foldl (fun m y => min m y.first) x.first

/-- The slices that unit u holds, by their place in the record. -/
def unitSlices (r : LayerRec) (u : Nat) : List Nat :=
  (List.range r.slices.length).filter fun k => ((r.slices[k]?).map (·.unit)) == some u

/-- Whether every slice of a layer is in a list. -/
def allSlices (r : LayerRec) (l : List Nat) : Bool := (List.range r.slices.length).all l.contains

/-- A probe step measures the masters of a layer whose WEIGHT tensor has an empty Peck (R181). -/
def State.probeReads (s : State) (r : LayerRec) : Bool :=
  match s.track r.wt with | some e => e.valid == 0 | none => false

/-- The next slice that unit u works on for a layer: partial norms while the clip token is awaited, else the update (R232). -/
def State.nextSlice (s : State) (u : Nat) (r : LayerRec) (x : LayerSt) : Option (Nat × Bool) :=
  if s.holdMode && !s.upd.released then
    if r.clip then ((unitSlices r u).find? fun k => !x.normed.contains k).map fun k => (k, true) else none
  else ((unitSlices r u).find? fun k => !x.written.contains k).map fun k => (k, false)

/-- A context whose layers the units may take (R238, R239). -/
def State.updCtxOpen (s : State) (c : Nat) : Bool :=
  s.ctxState c != ctxPreempting && s.ctxState c != ctxPreempted && (s.ctx c).halted.isNone

/-- What unit u does for layer l next: slice, first block, norm pass; a layer left at a block goes on there (R239). -/
def State.unitWork (s : State) (u : Nat) (st : UnitSt) (l : Nat) : Option (Nat × Nat × Bool) :=
  match s.layerAt l with
  | none => none
  | some (r, x) =>
    if !s.updCtxOpen r.ctx then none
    else match st.paused.find? fun p => p.1 == l with
    | some p => some p.2
    | none => (s.nextSlice u r x).map fun k => (k.1, 0, k.2)

/-- The queue number that marks a stack-port request of an update unit; its index is the layer. -/
abbrev updQueue : Nat := 512

/-- Stack-port requests of a layer's update that are still open. -/
def State.layerBusy (s : State) (l : Nat) : Bool :=
  match s.layerRecs[l]? with
  | some r => s.outstanding r.ctx updQueue l
  | none => false

/-! ## Partial norms (R230, R232) -/

/-- Insert a slice by unit. -/
def insertSlice (x : Nat × Pair) : List (Nat × Pair) → List (Nat × Pair)
  | [] => [x]
  | y :: t => if x.1 < y.1 then x :: y :: t else y :: insertSlice x t

/-- A layer's pairs in order of unit. -/
def layerPairs (r : LayerRec) (x : LayerSt) : List Pair :=
  ((List.range r.slices.length).foldl (fun l k =>
    match r.slices[k]?, x.norms.find? fun n => n.1 == k with
    | some sl, some n => insertSlice (sl.unit, n.2) l
    | _, _ => l) []).map (·.2)

/-- The engine's pair: T over the slices ordered by (layer, unit), of the layers with CLIP (R230). -/
def State.localPair (s : State) : Pair :=
  treeT ((s.layerRecs.zip s.upd.layers).flatMap fun p => if p.1.clip then layerPairs p.1 p.2 else [])

/-- Every CLIP layer's partial is complete. -/
def State.normsComplete (s : State) : Bool :=
  (List.range s.layerRecs.length).all fun l =>
    match s.layerAt l with
    | some (r, x) => !r.clip || (allSlices r x.normed && !s.layerBusy l)
    | none => true

/-- Send this engine's pair to the chain head once it is complete (R232). -/
def State.trySendPartial (s : State) : State :=
  if s.holdMode && !s.upd.localSent && decide (s.admState = admRunning) && s.normsComplete then
    ({ s with upd := { s.upd with localSent := true } } : State).post (.partialNorm s.rank s.localPair)
  else s

/-- A block's pair joins the chain of its slice (R230). -/
def LayerSt.addNorm (x : LayerSt) (k : Nat) (p : Pair) : LayerSt :=
  match x.norms.find? fun n => n.1 == k with
  | some n => { x with norms := x.norms.map fun y => if y.1 = k then (k, node n.2 p) else y }
  | _ => { x with norms := x.norms ++ [(k, p)] }

/-! ## The end of a layer -/

/-- The layer is written here, or in a probe step measured: its measurement goes to the data cut (R170, R181, R235), and the
update-written tokens are raised (R293). -/
def State.layerWritten (s : State) (l : Nat) : State :=
  match s.layerAt l with
  | none => s
  | some (r, x) =>
    if allSlices r x.written then
      let s := if s.probe && !s.probeReads r then s else s.post (.layerMeas l x.amax x.nf)
      s.raiseSource fun t => match t with | .unitUpdateWritten k => k == l | _ => false
    else s

/-- Unit u has finished slice k of layer l in a pass: what it does next. -/
def State.sliceDone (s : State) (u l k : Nat) (normPass : Bool) (r : LayerRec) : State :=
  let s := s.modLayer l fun x =>
    if normPass then { x with normed := k :: x.normed } else { x with written := k :: x.written }
  let x := ((s.upd.layers)[l]?).getD {}
  let s := s.modUnit u fun t =>
    match s.nextSlice u r x with
    | some (k', n) => { t with slice := k', block := 0, normPass := n }
    | none => { t with cur := none, queue := if normPass then t.queue else t.queue.filter (· ≠ l) }
  if normPass then s.trySendPartial else s.layerWritten l

/-! ## UPDATE_LAYER_START (R223, R232, R239) -/

/-- Unit u leaves a layer whose context has stopped. -/
def State.yieldUnit (s : State) (u : Nat) : State :=
  match (s.upd.units[u]?).bind UnitSt.cur with
  | some l =>
    match s.layerRecs[l]? with
    | some r => if s.updCtxOpen r.ctx then s else s.modUnit u UnitSt.pause
    | none => s
  | none => s

/-- The first layer in the order of its tokens that unit u may work on. -/
def State.pickLayer (s : State) (u : Nat) (t : UnitSt) : Option (Nat × Nat × Nat × Bool) :=
  t.queue.findSome? fun l => (s.unitWork u t l).map fun w => (l, w)

/-- The UPD clock starts (R350). -/
def State.wakeUpd (s : State) : State := if s.pwr.updGated then s.startUpd else s

/-- The descriptors that the update of a layer uses (R220). -/
def layerDescs (r : LayerRec) : List Nat :=
  [r.dg, r.dw, r.dn] ++ (if r.family != famSgd then [r.dm] else []) ++ if r.family == famAdapt then [r.dv] else []

/-- Unit u takes its next layer; a page of its descriptors that disagrees halts the layer's context (R283); in a probe step a layer that needs
no measurement is done at once. -/
def State.unitStart (s : State) (u : Nat) : State :=
  match s.upd.units[u]? with
  | none => s
  | some t =>
    if s.upd.skipped then s.modUnit u fun t => { t with queue := [], cur := none, paused := [] }
    else match s.pickLayer u t with
    | none => s
    | some (l, k, b, n) =>
      let pageBad := match s.layerRecs[l]? with | some r => s.descsDiffer (layerDescs r) | none => false
      if pageBad then (match s.layerRecs[l]? with | some r => s.pageHalt r.ctx 0 l | none => s) else
      let s := s.wakeUpd.modUnit u fun t => { t with
        cur := some l, slice := k, block := b, normPass := n, paused := t.paused.filter fun p => p.1 != l }
      match s.layerRecs[l]? with
      | some r =>
        if s.probe && !s.probeReads r then (unitSlices r u).foldl (fun s k => s.sliceDone u l k false r) s else s
      | none => s

/-- UPDATE_LAYER_START (R223): an idle unit takes the first layer it holds a token for. -/
def execUpdateLayerStart (unit : Nat) (s : State) : Out :=
  .next (
    if s.works && s.admState == admRunning && decide (unit < Config.units s.conf) then
      let s := s.yieldUnit unit
      if ((s.upd.units[unit]?).bind UnitSt.cur).isSome then s else s.unitStart unit
    else s)

/-! ## UPDATE_BLOCK_DONE (R222, R225 to R230, R238, R239) -/

/-- The bytes of element j of a shard, counted row-major (R221). -/
def State.shardLocs (s : State) (d : Desc) (j : Nat) : List (Option Loc) := s.elemLocs d d.elem (unrank rowMajor d.ext j)

/-- Element j of a shard as a binary32 value, its poison, the units read. -/
def State.shardRead (s : State) (d : Desc) (se : Int) (j : Nat) : F32 × Bool × List Nat :=
  let l := s.shardLocs d j
  let (b, bad) := s.readLocs l
  (toF32 (valueOf d.format se b), bad, locCodes l)

/-- What a unit finds and makes of one element. -/
structure ElemOut where
  i : Nat
  w : F32
  m : F32
  v : F32
  sq : Pair
  nf : Bool
  bad : Bool
  reads : List Nat
  writes : List ByteWrite
  counts : List (Nat × Conv)
deriving DecidableEq, Repr

/-- Multiplication by 2^k of a moment as it is read, and what it loses (R176). -/
def rescale (k : Int) (a : F32) : F32 × Conv :=
  let r := fScale k a
  (r, ⟨0, fFinite a && !fFinite r, !valIsZero (ofF32 a) && valIsZero (ofF32 r)⟩)

/-- The bytes of a master or moment (R229): binary32, or G16 by stochastic rounding. -/
def State.stateBytes (s : State) (t i : Nat) (x : F32) : Conv × List Byte :=
  if s.flag sclCfgPolicy 0 then
    let c := srG16 (ofF32 x) (srDraw s.upd.seed s.epoch.toNat t i)
    (c, toBytesLE 2 c.bits)
  else (⟨x.toNat, false, false⟩, toBytesLE 4 x.toNat)

/-- The gradient alone, for a partial norm (R232). -/
def State.normElem (s : State) (r : LayerRec) (i : Nat) : ElemOut :=
  let d := s.desc r.dg
  let (g, bad, cs) := s.shardRead d (s.descSe d) (i - firstMin r)
  ⟨i, 0, 0, 0, squarePair (gradG r g), !fFinite g, bad, cs, [], []⟩

/-- The master alone, for a probe step (R181). -/
def State.probeElem (s : State) (r : LayerRec) (i : Nat) : ElemOut :=
  let (w, bad, cs) := s.shardRead (s.desc r.dw) 0 (i - firstMin r)
  ⟨i, w, 0, 0, Pair.zero, false, bad, cs, [], []⟩

/-- The update of one element (R225 to R229); `lost`: elements that an uncorrectable word of the buffer feeds (R238). -/
def State.updElem (s : State) (r : LayerRec) (k : Coef) (dl : Int) (lost : List Nat) (i : Nat) : ElemOut :=
  let j := i - firstMin r
  let dg := s.desc r.dg
  let dw := s.desc r.dw
  let useM := r.family != famSgd
  let useV := r.family == famAdapt
  let (g, b1, c1) := s.shardRead dg (s.descSe dg) j
  let (w, b2, c2) := s.shardRead dw 0 j
  let (m, b3, c3) := if useM then s.shardRead (s.desc r.dm) 0 j else (0, false, [])
  let (v, b4, c4) := if useV then s.shardRead (s.desc r.dv) 0 j else (0, false, [])
  let (m, cm) := rescale dl m
  let (v, cv) := rescale (2 * dl) v
  let (w', m', v') := updateElem r k (gradHat r k g w) w m v
  let bad := b1 || b2 || b3 || b4 || lost.contains i
  let ow := s.stateBytes r.tw i w'
  let om := s.stateBytes r.tm i m'
  let ov := s.stateBytes r.tv i v'
  let ws := writesAt (s.shardLocs dw j) ow.2 bad ++
    (if useM then writesAt (s.shardLocs (s.desc r.dm) j) om.2 bad else []) ++
    (if useV then writesAt (s.shardLocs (s.desc r.dv) j) ov.2 bad else [])
  ⟨i, w', m', v', squarePair (gradG r g), !fFinite g, bad, (c1 ++ c2 ++ c3 ++ c4).eraseDups, ws,
    (r.tw, ow.1) :: ((if useM then [(r.tm, cm), (r.tm, om.1)] else []) ++ (if useV then [(r.tv, cv), (r.tv, ov.1)] else []))⟩

/-- Count conversions into tensor t (R172). -/
def State.countTensor (s : State) (t : Nat) (cs : List Conv) : State :=
  let o := (cs.filter (·.ovf)).length
  let u := (cs.filter (·.unf)).length
  if o = 0 ∧ u = 0 then s else s.modTrack t fun e => { e with ovf := sat32 (e.ovf + o), unf := sat32 (e.unf + u) }

/-- A block's reads, through the descriptors `ds`, with the units each feeds, and its writes (R212, R222, R238); Keg bytes read leave
their landing ring (R204). -/
def State.blockTraffic (s : State) (w : Who) (r : LayerRec) (ds : List Nat) (es : List ElemOut) : State :=
  let codes := (es.flatMap (·.reads)).eraseDups
  let s := (s.touchHoles codes).kegErrors codes
  let s := s.issueReads w false (codes.map fun c =>
    (c, ((es.filter fun e => e.reads.contains c).flatMap fun e => writeCodes e.writes).eraseDups))
  (s.storeBatch w false (es.flatMap (·.writes))).freeRing
    (kegKeys (ds.flatMap fun n => es.flatMap fun e => s.shardLocs (s.desc n) (e.i - firstMin r)))

/-- The buffer words that a block found in error (Table 8.12). -/
def State.bufferErrors (s : State) (u corrected uncorrectable : Nat) : State :=
  let s := if corrected = 0 then s else ((s.corr updErrCorrCnt 0 corrected).setFld updErrLastUnit 0 u).setFld updErrLastUncorr 0 0
  if uncorrectable = 0 then s
  else ((s.uncorr updErrUncorrCnt 0 uncorrectable).setFld updErrLastUnit 0 u).setFld updErrLastUncorr 0 1

/-- What a corrupt block reports (R238): POISON_W, in a pass that forms a norm or measures too, but not the emission, which is no block of
state; origin 4 for the buffer, 2 for a read that no response will report. -/
def State.blockFault (s : State) (r : LayerRec) (l : Nat) (block bad buffer : Bool) (codes : List Nat) : State :=
  let s := if (bad || buffer) && block then s.setFld updStatusPoisonW 0 1 else s
  if buffer then s.uncorrFault r.ctx 0 l 4
  else if bad && s.reportsNow codes then s.uncorrFault r.ctx 0 l 2
  else s

/-- The pair of a block; NaN when an input of it is corrupt (R230, R238). -/
def blockPair (es : List ElemOut) (bad : Bool) : Pair := if bad then ⟨f32NaN, 0⟩ else treeT (es.map (·.sq))

/-- The values of the layer in this step. -/
def State.layerCoef (s : State) (r : LayerRec) (x : LayerSt) : Coef :=
  let rx := match s.track r.wt with | some e => e.rx | none => 0
  coefOf r x.p1 x.p2 rx (BitVec.ofNat 32 (s.fld updLrLrt 0)) (BitVec.ofNat 32 (s.fld updClipFactor 0))

/-- The change of RX since the moments were written (R176). -/
def State.rxDelta (s : State) (r : LayerRec) : Int :=
  match s.track r.wt with | some e => e.rx - e.rxPrev | none => 0

/-- The WT entry's format is BQn. -/
def State.wtBq (s : State) (r : LayerRec) : Bool :=
  match s.track r.wt with | some e => e.stat.format == fmtBQn | none => false

/-- The pieces of a holder entry's tensor that the elements `is` of a layer lie in (R150, R265): (holder entry, piece). -/
def State.piecesOf (s : State) (t : Nat) (is : List Nat) : List (Nat × Nat) :=
  match s.image with
  | none => []
  | some i => (((i.descs.map descOf).filter fun d => d.dist && d.tnum == t).flatMap fun d =>
      is.map fun k => (d.holder, s.pieceOf d.holder (unrank rowMajor d.ext k))).eraseDups

/-- The update of step s has written elements of tensors: their pieces carry its number (R265). -/
def State.tagPieces (s : State) (ts : List Nat) (is : List Nat) : State :=
  let ps := (ts.flatMap fun t => s.piecesOf t is).eraseDups
  let new := (ps.map fun p => (p.1, p.2, s.epoch.toNat)) ++ s.chain.pieces.filter fun x => !ps.contains (x.1, x.2.1)
  { s with chain := { s.chain with pieces := new } }

/-- The update pass over a block. -/
def State.updBlock (s : State) (l : Nat) (r : LayerRec) (x : LayerSt) (k : Nat) (is : List Nat) (buffer : Bool) (lost : List Nat) : State :=
  let co := s.layerCoef r x
  let es := is.map (s.updElem r co (s.rxDelta r) lost)
  let bad := es.any (·.bad)
  let keep := s.wtBq r || s.flag sclCfgPolicy 0
  let am := es.foldl (fun m e => m.takeF e.w) ({} : Amax)
  let ds := [r.dg, r.dw] ++ (if r.family != famSgd then [r.dm] else []) ++ (if r.family == famAdapt then [r.dv] else [])
  let s := (s.blockTraffic ⟨some r.ctx, updQueue, l, clsUpd⟩ r ds es).tagPieces (stateTensors r) is
  let s := s.measure r.tw am none
  let s := [r.tw, r.tm, r.tv].eraseDups.foldl (fun s t =>
    s.countTensor t ((es.flatMap (·.counts)).filterMap fun c => if c.1 = t then some c.2 else none)) s
  let s := if r.family != famSgd then s.measure r.tm (es.foldl (fun m e => m.takeF e.m) {}) none else s
  let s := if r.family == famAdapt then s.measure r.tv (es.foldl (fun m e => m.takeF e.v) {}) none else s
  let s := s.modLayer l fun x => { x with
    amax := max x.amax am.amax
    nf := x.nf || am.nf
    none := false
    masters := if keep then x.masters ++ es.map (fun e => (e.i, e.w)) else x.masters }
  let s := if r.clip && !s.holdMode then s.modLayer l fun x => x.addNorm k (blockPair es (bad || buffer)) else s
  let s := if es.any (·.nf) then s.setFld updStatusNfSeen 0 1 else s
  let s := s.setFld updPerfElements 0 ((s.fld updPerfElements 0 + es.length) % 2 ^ 48)
  s.blockFault r l true bad buffer ((es.flatMap (·.reads)).eraseDups)

/-- The pass over a block that forms the partial norm alone (R232). -/
def State.normBlock (s : State) (l : Nat) (r : LayerRec) (k : Nat) (is : List Nat) (buffer : Bool) : State :=
  let es := is.map (s.normElem r)
  let bad := buffer || es.any (·.bad)
  let s := s.blockTraffic ⟨some r.ctx, updQueue, l, clsUpd⟩ r [r.dg] es
  let s := s.modLayer l fun x => x.addNorm k (blockPair es bad)
  let s := if es.any (·.nf) then s.setFld updStatusNfSeen 0 1 else s
  s.blockFault r l true bad buffer ((es.flatMap (·.reads)).eraseDups)

/-- The pass over a block in a probe step: masters measured, nothing written (R181). -/
def State.probeBlock (s : State) (l : Nat) (r : LayerRec) (is : List Nat) (buffer : Bool) : State :=
  let es := is.map (s.probeElem r)
  let am := es.foldl (fun m e => m.takeF e.w) ({} : Amax)
  let s := (s.blockTraffic ⟨some r.ctx, updQueue, l, clsUpd⟩ r [r.dw] es).modLayer l fun x => { x with
    amax := max x.amax am.amax
    nf := x.nf || am.nf
    none := false }
  s.blockFault r l true (es.any (·.bad)) buffer ((es.flatMap (·.reads)).eraseDups)

/-- Encode the groups of slice k of a BQn layer from its binary32 masters and write them (R57, R235), with the NBITS of DN where that of the
WT entry differs (DESIGN CHOICE, log entry 146). -/
def State.encodeSlice (s : State) (l : Nat) (r : LayerRec) (x : LayerSt) (k : Nat) : State :=
  match r.slices[k]?, s.track r.wt with
  | some sl, some e =>
    let d := s.desc r.dn
    let ext0 := d.ext.getD 0 0
    let mine := x.masters.filter fun m => decide (sl.first ≤ m.1) && decide (m.1 < sl.first + sl.count)
    let heads := mine.filter fun m => decide ((m.1 - firstMin r) % max 1 ext0 % 256 = 0)
    heads.foldl (fun s h =>
      let j := h.1 - firstMin r
      let pos := unrank rowMajor d.ext j
      let n := min 256 (ext0 - pos.getD 0 0)
      let xs := (List.range n).map fun a =>
        match mine.find? fun m => m.1 == h.1 + a with | some m => ofF32 m.2 | none => valZero
      let g := encodeGroup xs d.nbits e.stat.ot
      let gpos := pos.set 0 (pos.getD 0 0 / 256)
      let s := s.storeBatch ⟨some r.ctx, updQueue, l, clsUpd⟩ false
        (writesAt (s.elemLocs d d.elem gpos) (groupBytes d.nbits d.sidelist g) false)
      if g.ovf + g.unf + g.spill = 0 then s
      else s.modTrack r.wt fun t =>
        { t with ovf := sat32 (t.ovf + g.ovf), unf := sat32 (t.unf + g.unf), spill := sat32 (t.spill + g.spill) }) s
  | _, _ => s

/-- The block that unit u has in work: its element indices, and whether it is the last of its slice. -/
def blockOf (sl : Slice) (b : Nat) : List Nat × Bool :=
  let from' := 16384 * b
  let n := min 16384 (sl.count - from')
  ((List.range n).map fun a => sl.first + from' + a, decide (sl.count ≤ from' + 16384))

/-- Unit u finishes the block in work of layer l; `fed`: the places in the block of the elements that uncorrectable words of its buffer
feed. -/
def State.blockDone (s : State) (u l : Nat) (t : UnitSt) (r : LayerRec) (x : LayerSt) (sl : Slice) (corrected uncorrectable : Nat)
    (fed : List Nat) : State :=
  let (is, last) := blockOf sl t.block
  let buffer := decide (0 < uncorrectable)
  let lost := if buffer then fed.filterMap fun a => is[a]? else []
  let s := s.bufferErrors u corrected uncorrectable
  let s := if t.normPass then s.normBlock l r t.slice is buffer
    else if s.probe then s.probeBlock l r is buffer
    else s.updBlock l r x t.slice is buffer lost
  let s := s.modUnit u fun t => { t with block := t.block + 1 }
  let s := if last then
      let x := (s.upd.layers[l]?).getD {}
      let s := if !t.normPass && !s.probe && s.wtBq r then s.encodeSlice l r x t.slice else s
      s.sliceDone u l t.slice t.normPass r
    else s
  s.yieldUnit u

/-- The units that the coder still has to read, as codes: what a capture has not copied yet (R329). -/
def State.coderUnread (s : State) : List Nat :=
  (indexed s.sp).flatMap fun p => (p.1.rd ++ p.1.rdWait).flatMap fun r =>
    if r.cls = clsCod ∧ r.covers.isEmpty = true then r.units.map fun u => s.unmapAddr p.2 (64 * u) / 64 else []

/-- The state units that a block of a layer writes, as codes. -/
def State.blockUnits (s : State) (r : LayerRec) (is : List Nat) : List Nat :=
  (([r.dw] ++ (if r.family != famSgd then [r.dm] else []) ++ if r.family == famAdapt then [r.dv] else []).flatMap fun n => is.flatMap fun i => locCodes (s.shardLocs (s.desc n) (i - firstMin r))).eraseDups

/-- A unit's block waits for the snapshot's capture: it is about to write a state unit that is not copied yet (R329). -/
def State.blockWaits (s : State) (t : UnitSt) (r : LayerRec) (sl : Slice) : Bool :=
  let left := s.coderUnread
  s.snp.active && !left.isEmpty && !t.normPass && !s.probe && (s.blockUnits r (blockOf sl t.block).1).any left.contains

/-- UPDATE_BLOCK_DONE (R222, R329): not while the block waits for a capture, and not while the context of the layer has halted or rests preempted. -/
def execUpdateBlockDone (unit : Nat) (corrected uncorrectable : Nat) (fed : List Nat) (s : State) : Out :=
  .next (
    if !(s.works && s.admState == admRunning) then s
    else match s.upd.units[unit]? with
    | none => s
    | some t =>
      match t.cur with
      | none => s
      | some l =>
        match s.layerAt l with
        | none => s
        | some (r, x) =>
          match r.slices[t.slice]? with
          | none => s
          | some sl =>
            if (s.ctx r.ctx).halted.isSome || s.ctxState r.ctx == ctxPreempted then s
            else if s.blockWaits t r sl then
              { s with snp := { s.snp with updHeld := (s.snp.updHeld ++ s.blockUnits r (blockOf sl t.block).1).eraseDups } }
            else s.blockDone unit l t r x sl corrected uncorrectable fed)

/-! ## Clipping (R230 to R234) -/

/-- The head holds every engine's pair: norm, factor and verdict go out (R230, R231), but not while its controller is halted (R386). -/
def State.headNorm (s : State) : State :=
  let ps := (List.range s.chainSize).map fun k => s.chain.partials.find? fun p => p.1 == k
  if ps.all Option.isSome && !s.mcHalted then
    let n := normOf (treeT (ps.map fun p => (p.map (·.2)).getD Pair.zero))
    let (c, nf) := clipFactor n s.upd.clipMax
    let s : State := { s with upd := { s.upd with norm := some n }, chain := { s.chain with partials := [] } }
    s.post (.clip c nf)
  else s

/-- PARTIAL_NORM (R230): at the chain head. -/
def execPartialNorm (rank : Nat) (p : Pair) (s : State) : Out :=
  .next (
    if s.works && s.admState == admRunning && s.flag mapChainIsHead 0 && decide (rank < s.chainSize) then
      let s : State := { s with chain := { s.chain with partials := (rank, p) :: s.chain.partials.filter fun x => x.1 != rank } }
      s.headNorm
    else s)

/-- The step is skipped (R234): nothing is written, and weights-ready of the next step goes out for every layer. -/
def State.skipStep (s : State) : State :=
  let n := s.layerRecs.length
  let s := (s.setFld updStatusSkipped 0 1).bump updPerfSkips 0 1
  let s : State := { s with upd := { s.upd with
    skipped := true
    units := s.upd.units.map fun _ => {}
    layers := s.upd.layers.map fun x => { x with sent := true } } }
  let s := s.fxSend ((List.range n).map fun l => FxOut.weightsReady ((s.epoch.toNat + 1) % 2 ^ 32) l)
  s.raiseSource fun t => match t with | .unitUpdateWritten _ => true | _ => false

/-- CLIP_TOKEN (R231, R234): held updates go on, or the step is skipped. -/
def execClipToken (c : F32) (nf : Bool) (s : State) : Out :=
  .next (
    if s.works && s.admState == admRunning && s.holdMode && !s.upd.released then
      let s := s.setFlag updClipVerdictNf 0 nf
      let s := if s.fld updCfgClipMode 0 = clipExact then
          ((s.setFld updClipFactor 0 c.toNat).setFld updClipSource 0 1).setFld updClipValid 0 1
        else s
      let s : State := { s with upd := { s.upd with released := true } }
      let s := s.raiseSource fun t => match t with | .clipToken => true | _ => false
      if nf && s.flag updCfgNfPolicy 0 then s.skipStep else s
    else s)

/-! ## Narrow weights (R170, R235, R236) -/

/-- The measurement of a layer's masters over the data cut, from what its other engines sent: rank, measurement (R235). -/
def combineMeas (x : LayerSt) (peers : List (Nat × Meas)) : Amax :=
  peers.foldl (fun m p => if p.2.none then m else ⟨max m.amax p.2.amax, m.nf || p.2.nf⟩) ⟨x.amax, x.nf⟩

/-- Extents of the data, sequence and model cuts (R242). -/
def State.cutD (s : State) : Nat := s.fld mapChainNdM1 0 + 1
def State.cutS (s : State) : Nat := s.fld mapChainNsM1 0 + 1
def State.cutM (s : State) : Nat := s.fld mapChainNmM1 0 + 1

/-- This engine's coordinates in the data, sequence and model cuts (R242). -/
def State.coordD (s : State) : Nat := s.rank / (s.cutS * s.cutM)
def State.coordS (s : State) : Nat := s.rank / s.cutM % s.cutS
def State.coordM (s : State) : Nat := s.rank % s.cutM

/-- The rank of the engine (d, q) that shares this engine's model index (R242). -/
def State.rankAt (s : State) (d q : Nat) : Nat := (d * s.cutS + q) * s.cutM + s.coordM

/-- The other engines of the data cut, and of the sequence cut. -/
def State.dataPeers (s : State) : List Nat :=
  ((List.range s.cutD).filter (· ≠ s.coordD)).map fun d => s.rankAt d s.coordS
def State.seqPeers (s : State) : List Nat :=
  ((List.range s.cutS).filter (· ≠ s.coordS)).map fun q => s.rankAt s.coordD q

/-- The piece of a layer that engine (d, q) holds (R263). -/
def State.pieceAt (s : State) (d q : Nat) : Nat := d * s.cutS + q

/-- The pieces that the all-gather over the data cut brings together, and all pieces of a layer (R263). -/
def State.dataPieces (s : State) : List Nat := (List.range s.cutD).map fun d => s.pieceAt d s.coordS
def State.allPieces (s : State) : List Nat := List.range (s.cutD * s.cutS)

/-- SE of a layer's narrow weights (R168, R170): 0 leaves it. -/
def weightSe (e : Track) (h : Nat) : Int × Bool :=
  match efOf e.stat.format with
  | none => (e.se, e.clamp)
  | some ef => if h = 0 then (e.se, e.clamp) else seFor h ef e.stat.margin

/-- The narrow code of a master (Table 2.6). -/
def narrowConv (format : Nat) (se : Int) (w : F32) : Conv :=
  encodeFloat (if format = fmtF8AC then fmtF8A else fmtF8B) (valScale (-se) (ofF32 w))

/-- Element indices of a layer's shard, in increasing order. -/
def shardIndices (r : LayerRec) : List Nat :=
  let a := firstMin r
  let b := r.slices.foldl (fun m s => max m (s.first + s.count)) a
  (List.range (b - a)).map (a + ·)

/-- The master that the emission reads: the stored one, or under the lean policy the unrounded one (R235, R236). -/
def State.emitMaster (s : State) (r : LayerRec) (x : LayerSt) (i : Nat) : F32 × Bool × List Nat :=
  if s.flag sclCfgPolicy 0 then (((x.masters.find? fun m => m.1 == i).map (·.2)).getD 0, false, [])
  else s.shardRead (s.desc r.dw) 0 (i - firstMin r)

/-- Write the F8 weights of a layer to DN (R235). -/
def State.emitF8 (s : State) (l : Nat) (r : LayerRec) (x : LayerSt) (e : Track) (se : Int) : State :=
  let d := s.desc r.dn
  let es := (shardIndices r).map fun i =>
    let (w, bad, cs) := s.emitMaster r x i
    let c := narrowConv e.stat.format se w
    (⟨i, w, 0, 0, Pair.zero, false, bad, cs, writesAt (s.shardLocs d (i - firstMin r)) (toBytesLE 1 c.bits) bad, [(r.wt, c)]⟩ : ElemOut)
  let s := (s.blockTraffic ⟨some r.ctx, updQueue, l, clsUpd⟩ r (if s.flag sclCfgPolicy 0 then [] else [r.dw]) es).countTensor r.wt ((es.flatMap (·.counts)).map (·.2))
  let bad := es.any (·.bad)
  s.blockFault r l false bad false ((es.flatMap (·.reads)).eraseDups)

/-- The bytes of this engine's narrow shard, in element order. -/
def State.narrowBytes (s : State) (r : LayerRec) : List Byte :=
  let d := s.desc r.dn
  if d.elem.groups then
    ((shardIndices r).filter fun i => decide ((i - firstMin r) % max 1 (d.ext.getD 0 0) % 256 = 0)).flatMap fun i =>
      let p := unrank rowMajor d.ext (i - firstMin r)
      (s.readLocs (s.elemLocs d d.elem (p.set 0 (p.getD 0 0 / 256)))).1
  else (shardIndices r).flatMap fun i => (s.readLocs (s.shardLocs d (i - firstMin r))).1

/-- The image's record of a layer's all-gather. -/
def State.gatherOf (s : State) (l : Nat) : Option GatherRec := s.image.bind fun i => i.links.gathers.find? fun g => g.layer == l

/-- A range of the elements of a piece (R244): in a BQn shard the groups whose first element it names. -/
def rangeBytes (e : Elem) (r : ChanRange) (b : List Byte) : List Byte :=
  let at' := fun x => (if e.groups then (x + 255) / 256 else x) * e.bytes
  (b.drop (at' r.first)).take (at' (r.first + r.count) - at' r.first)

/-- Send pieces of a layer to the other engines of a cut, where there are any (R263): the ranges of the image each on its channel, all of
them on the route where the image gives no range (R244, log entry 144). -/
def State.sendPieces (s : State) (cut : Cut) (ranks : List Nat) (l : Nat) (ps : List (Nat × List Byte)) : State :=
  let e := (s.desc (match s.layerAt l with | some x => x.1.dn | none => 0)).elem
  let rs : List ChanRange := match s.gatherOf l with | some g => if cut = .data then g.data else g.seq | none => []
  if ranks.isEmpty then s
  else if rs.isEmpty then s.post (.weights ranks l none ps)
  else rs.foldl (fun s r => s.post (.weights ranks l (some (cut, r.channel)) (ps.map fun p => (p.1, rangeBytes e r p.2)))) s

/-- Emit layer l with the measurements of the other engines of the data cut; its shard goes to them, the first stage of
the all-gather; on a data cut of one engine the second stage follows at once (R263). -/
def State.emitLayer (s : State) (l : Nat) (r : LayerRec) (x : LayerSt) (peers : List (Nat × Meas)) : State :=
  let e := (s.track r.wt).getD (trackZero r.wt)
  let m := combineMeas x peers
  let (se, clamp) := weightSe e m.amax
  let s := s.measure r.wt m none
  let s := if s.wtBq r then s
    else ({ s with trk := s.trk.map fun t => if t.stat.tnum = r.wt then { t with clamp := clamp } else t } : State).emitF8 l r x e se
  let s := if ((e.choice m.amax).map (·.2)).getD false && !s.wtBq r then s.setFld sclStatusClampAny 0 1 else s
  let s := s.tagPieces [r.wt] (shardIndices r)
  let own := [(s.pieceAt s.coordD s.coordS, s.narrowBytes r)]
  let s := s.modLayer l fun x => { x with emitted := true, seSent := se, masters := [], gathered := own }
  let s := s.sendPieces .data s.dataPeers l own
  if s.cutD = 1 then s.sendPieces .sequence s.seqPeers l own else s

/-- NARROW_WEIGHT_EMISSION (R235): every slice is written here, and every other engine of the data cut has sent its measurement of the
masters. In a probe step a layer whose masters were measured takes the cut's measurement and emits nothing (R181). -/
def execNarrowWeightEmission (layer : Nat) (peers : List (Nat × Meas)) (s : State) : Out :=
  .next (
    match s.layerAt layer with
    | none => s
    | some (r, x) =>
      if s.works && s.admState == admRunning && !s.upd.skipped && allSlices r x.written && !x.emitted &&
          !s.layerBusy layer && x.token && s.updCtxOpen r.ctx && s.dataPeers.all (fun k => peers.any fun p => p.1 == k) then
        if !s.probe then s.emitLayer layer r x peers
        else if s.probeReads r then (s.measure r.wt (combineMeas x peers) none).modLayer layer fun x => { x with emitted := true }
        else s
      else s)

/-- Beats of 256 bytes of a layer's weights (R400). -/
def weightBeats (layer : Nat) (data : List Byte) : List FxOut :=
  let n := (data.length + 255) / 256
  (List.range n).map fun b => .weightBeat layer b (decide (b + 1 = n)) ((data.drop (256 * b)).take 256)

/-- Whether a list of pieces holds each of some. -/
def holdsPieces (l : List (Nat × List Byte)) (ps : List Nat) : Bool := ps.all fun p => l.any fun x => x.1 == p

/-- The bytes of the pieces of a layer, in order of piece. -/
def layerBytes (l : List (Nat × List Byte)) (ps : List Nat) : List Byte :=
  ps.flatMap fun p => ((l.find? fun x => x.1 == p).map (·.2)).getD []

/-- Pieces of layer l have come. The second stage of the all-gather sends what the data cut brought together over the sequence cut, once
(R263). -/
def State.takePieces (s : State) (l : Nat) (x : LayerSt) (ps : List (Nat × List Byte)) : State × List (Nat × List Byte) :=
  let all := x.gathered ++ ps.filter fun p => !x.gathered.any fun y => y.1 == p.1
  let s := s.modLayer l fun y => { y with gathered := all }
  (if holdsPieces all s.dataPieces && !holdsPieces x.gathered s.dataPieces then
    s.sendPieces .sequence s.seqPeers l (all.filter fun p => s.dataPieces.contains p.1)
  else s, all)

/-- The whole layer goes to where the image keeps it through the step (R264); without a record it is dropped. -/
def State.keepLayer (s : State) (l ctx : Nat) (d : List Byte) : State :=
  match (s.gatherOf l).bind (·.keep) with
  | none => s
  | some base => s.storeBatch ⟨some ctx, updQueue, l, clsUpd⟩ false (bytesAt 0 base d false)

/-- WEIGHTS_SEND (R30, R235, R236, R263, R264): pieces of the layer come whole from the other engines, all their ranges; once the layer is
whole it goes to where the image keeps it and out on FX, with the scale record of an F8 tensor and weights-ready of the next step. -/
def execWeightsSend (layer : Nat) (pieces : List (Nat × List Byte)) (s : State) : Out :=
  .next (
    match s.layerAt layer with
    | none => s
    | some (r, x) =>
      if s.works && s.admState == admRunning && x.emitted && !x.sent && !s.probe then
        let (s, all) := s.takePieces layer x pieces
        if holdsPieces all s.allPieces then
          let rec' := if s.wtBq r then [] else [FxOut.scale r.wt x.seSent]
          ((s.keepLayer layer r.ctx (layerBytes all s.allPieces)).modLayer layer fun x => { x with sent := true, gathered := [] }).fxSend
            (weightBeats layer (layerBytes all s.allPieces) ++ rec' ++ [.weightsReady ((s.epoch.toNat + 1) % 2 ^ 32) layer])
        else s
      else s)

/-! ## The epoch boundary (R227, R233, R265) -/

/-- An applied step closes: P1 and P2 of ADAPT layers advance, applied steps count, and this engine expects the step's tags of the tensors
that the update units write (R227, R265). -/
def State.closeUpdate (s : State) (applied : Bool) : State :=
  if !applied then s
  else
    let ls := (s.layerRecs.zip s.upd.layers).map fun p =>
      let x : LayerSt := { p.2 with applied := (p.2.applied + 1) % 2 ^ 32, last := s.epoch.toNat }
      if p.1.family = famAdapt then { x with p1 := fMul x.p1 p.1.b1, p2 := fMul x.p2 p.1.b2 } else x
    { s with
      upd := { s.upd with layers := ls }
      chain := { s.chain with expects := s.chain.expects.map fun t => (t.1, s.epoch.toNat) } }

/-- UPD.CLIP for a new step: the factor of the previous norm under PREV, 1.0 where it is lost or absent (R233). -/
def State.openClip (s : State) (norm : Option F32) : State :=
  let s := s.setWord .updClip 0 (resetWord .updClip 0)
  if s.fld updCfgClipMode 0 = clipPrev then
    match norm with
    | some n => ((s.setFld updClipFactor 0 (clipFactor n s.upd.clipMax).1.toNat).setFld updClipValid 0 1).setFld updClipSource 0 2
    | none => s
  else s

/-- UPD.LR for a new step (R226). -/
def State.openLr (s : State) : State :=
  match s.image.bind (·.optim) with
  | none => s
  | some o =>
    if o.lr.isEmpty then s
    else
      let (v, k) := lrtAt o.lr s.epoch.toNat
      (s.setFld updLrLrt 0 v.toNat).setFld updLrSeg 0 k

/-- A unit still works on a layer of the step before (R237). -/
def State.unitHolds (s : State) (l : Nat) : Bool := s.upd.units.any fun u => u.queue.contains l || u.cur == some l

/-- The update units at the opening of a step: layers that no unit holds any more start anew. -/
def State.openUpdate (s : State) (norm : Option F32) : State :=
  let s : State := { s with upd := { s.upd with
    layers := (indexed s.upd.layers).map fun x => if s.unitHolds x.2 then x.1 else
      { p1 := x.1.p1, p2 := x.1.p2, applied := x.1.applied, last := x.1.last }
    localSent := false, released := false, skipped := false } }
  let s := match norm with | some n => s.setFld updNormNormLast 0 n.toNat | none => s
  (s.openClip norm).openLr.trySendPartial

end Sys2Proof.Machine
end

