-- ==== Sys2Proof/Machine/Reshard.lean ====
section
/-!
DEFINITION. Sys2Proof/Machine/Reshard.lean: the end of an epoch boundary, re-shards and their journal (R31, R268 to R271, R297, R341).
-/
namespace Sys2Proof.Machine

/-! ## The end of a boundary (R31, R294, R297, R320, R326) -/

/-- Micro-batch-opens that came before their epoch (R297). -/
def State.takeOpens (s : State) : State :=
  let l := s.fx.earlyOpens
  l.foldl (fun (s : State) o =>
    if o.1 = s.epoch.toNat then (s.openMb o.1 o.2.1 o.2.2).returnFor 3 o.1 o.2.1
    else { s with fx := { s.fx with earlyOpens := s.fx.earlyOpens ++ [o] } }) { s with fx := { s.fx with earlyOpens := [] } }

/-- The boundary's fourth action and what follows it: mirror, snapshot, STEP tokens, the tokens of the epoch, the micro-batches of
the new step. -/
def State.endBoundary (s : State) : State :=
  let step := s.epoch.toNat
  let s := (s.sendMirror (.control (s.controlBlock step))).boundarySnapshot step s.probe
  let s := (s.clearToks fun d => d.scope == .step).raiseSource fun x => match x with | .epochToken => true | _ => false
  (s.irq mgtIrqPendEpoch).takeOpens

/-- FX credits that were held back while a re-shard ran (R268). -/
def State.regrant (s : State) : State :=
  let c := s.fx.credits
  let owed := fun k => (s.fx.owed.filter fun o => o.1 == k).length
  let s : State := { s with fx := { s.fx with
    credits := (c.set 0 (128 - (s.fx.wait0.filter fun b => !b.paid).length - owed 0)).set 3 (64 - s.fx.earlyOpens.length - owed 3) } }
  s.grantSeeds.grantRings

/-! ## Re-shards (R268 to R271, R341) -/

/-- The plan of the loaded image with an identifier. -/
def State.planOf (s : State) (ident : Nat) : Option Plan :=
  match s.image with
  | some i => i.reshard.find? fun p => p.ident == ident
  | none => none

/-- Read a block slot: its bytes, and the units of it that are poisoned. -/
def State.readSlot (s : State) (p : Plan) (slot : Nat) : List Byte × List Nat :=
  let a := p.slots.getD slot 0
  let us := (List.range (p.block / 64)).map fun u => s.readUnit (a + 64 * u)
  (us.flatMap fun u => u.1, (List.range us.length).filter fun u => match us[u]? with | some x => x.2 | none => false)

/-- Write a block slot; poisoned units stay poisoned. -/
def State.writeSlot (s : State) (p : Plan) (slot : Nat) (d : List Byte) (bad : List Nat) : State :=
  let a := p.slots.getD slot 0
  let us := List.range (p.block / 64)
  let old := s.mem
  let s := us.foldl (fun s u => s.writeUnit (a + 64 * u) ((d.drop (64 * u)).take 64) (bad.contains u)) s
  s.issueWrites old Who.furlong (us.map fun u => a / 64 + u)

/-- The round of the plan. -/
def roundOf (p : Plan) (r : Nat) : Round := p.rounds.getD r ⟨[], [], []⟩

/-- The plan that a re-shard in progress follows. -/
def State.runningPlan (s : State) : Option (ReshardSt × Plan) := s.chain.reshard.bind fun x => (x.plan.bind s.planOf).map fun p => (x, p)

/-- The piece of this engine that an address of attached memory lies in: of those that begin at or below it, the last (R150). -/
def State.pieceAtAddr (s : State) (a : Nat) : Option (Nat × Nat) :=
  let descs := match s.image with | some i => i.descs.map descOf | none => []
  let places := (indexed s.chain.holders).flatMap fun x =>
    let h := holderOf x.1
    let count := (descs.filter fun d => d.dist && d.holder == x.2).foldl (fun n d =>
      max n (if 5 ≤ h.dim ∨ h.pieceExt = 0 then 1 else (d.ext.getD h.dim 0 + h.pieceExt - 1) / h.pieceExt)) 0
    (List.range count).filterMap fun p =>
      if h.space = 0 ∧ (h.first + p % h.nhold * h.step) % s.chainSize = s.rank then
        some (mod42 ((h.base : Int) + (p / h.nhold : Nat) * h.stride), x.2, p)
      else none
  ((places.filter fun x => decide (x.1 ≤ a)).foldl (fun (m : Option (Nat × Nat × Nat)) x => match m with
    | some y => if y.1 < x.1 then some x else m
    | none => some x) none).map (·.2)

/-- The tag of the piece that a block slot lies in, which a block takes along (R265). -/
def State.slotTag (s : State) (p : Plan) (slot : Nat) : Nat :=
  match s.pieceAtAddr (p.slots.getD slot 0) with | some x => s.pieceTag x.1 x.2 | none => 0

/-- The pieces that a re-shard brought keep the tags that came with their blocks (R265). -/
def State.keepTags (s : State) (l : List (Nat × Nat)) : State :=
  l.foldl (fun s x => match s.pieceAtAddr x.1 with
    | some p => { s with chain := { s.chain with
        pieces := (p.1, p.2, x.2) :: s.chain.pieces.filter fun y => !(y.1 == p.1 && y.2.1 == p.2) } }
    | none => s) s

/-- DONE to the head once every block of the round has been written (R270). -/
def State.tryRoundDone (s : State) : State :=
  match s.runningPlan with
  | none => s
  | some (x, p) =>
    if !x.doneSent && (roundOf p x.round).recvs.all fun v => x.received.contains v.2 then
      let s : State := { s with chain := { s.chain with reshard := some { x with doneSent := true } } }
      (s.setFld mapReshardPhase 0 2).post (.round (.done s.rank x.round))
    else s

/-- Write a block that this round receives (R270). -/
def State.takeBlock (s : State) (p : Plan) (x : ReshardSt) (b : Block) : State :=
  if (roundOf p x.round).recvs.any fun v => v.1 == b.rank && v.2 == b.slot then
    let s := s.writeSlot p b.slot b.data b.bad
    { s with chain := { s.chain with reshard := s.chain.reshard.map fun y =>
        { y with received := b.slot :: y.received, tags := (p.slots.getD b.slot 0, b.tag) :: y.tags } } }
  else s

/-- A round begins: INTENT, the blocks sent, the copies, the blocks that came early (R270). -/
def State.startRound (s : State) (p : Plan) (r : Nat) : State :=
  let x : ReshardSt := ⟨some p.ident, r, [], false, (s.chain.reshard.map (·.tags)).getD []⟩
  let s : State := { s with chain := { s.chain with reshard := some x } }
  let s := (s.writeJournal ⟨p.ident, r, false⟩).setFld mapReshardRound 0 r
  let s := s.setFld mapReshardPhase 0 1
  let v := roundOf p r
  let units := fun k => (List.range (p.block / 64)).map fun u => p.slots.getD k 0 / 64 + u
  let s := v.sends.foldl (fun s e =>
    let d := s.readSlot p e.1
    s.holdMsg Who.furlong ((indexed (units e.1)).map fun u => (u.1, [u.2])) (.block e.2.1 e.2.2 r d.1 d.2 (s.slotTag p e.1))) s
  let got := v.copies.map fun e => (e.2, s.readSlot p e.1, (p.slots.getD e.2 0, s.slotTag p e.1))
  let s := s.issueReads Who.furlong false (v.copies.flatMap fun e => ((units e.1).zip (units e.2)).map fun u => (u.1, [u.2]))
  let s := got.foldl (fun s g => s.writeSlot p g.1 g.2.1.1 g.2.1.2) s
  let s : State := { s with chain := { s.chain with reshard := s.chain.reshard.map fun y => { y with tags := got.map (·.2.2) ++ y.tags } } }
  let early := s.chain.blocks.filter fun b => b.round == r
  let s : State := { s with chain := { s.chain with blocks := s.chain.blocks.filter fun b => b.round != r } }
  (early.foldl (fun s b => s.takeBlock p x b) s).tryRoundDone

/-- The re-shard is over: its holder table replaces the old one, credits are granted again, the boundary goes on (R268, R271). -/
def State.endReshard (s : State) (p : Plan) : State :=
  let tags := (s.chain.reshard.map (·.tags)).getD []
  let k := match s.image with | some i => (i.reshard.findIdx? fun q => q.ident == p.ident).getD 0 | none => 0
  let s : State := { s with chain := { s.chain with holders := p.holders, holderVar := k + 1, reshard := none, blocks := [], roundDones := [] } }
  let s := s.keepTags tags
  let s := (s.setFld layCfgHolders 0 p.holders.length).setFld mapReshardPhase 0 0
  ((s.setFld mapReshardActive 0 0).regrant).endBoundary

/-- Go on with round r of a plan, or end. -/
def State.goReshard (s : State) (p : Plan) (r : Nat) : State :=
  if r < p.rounds.length then s.startRound p r else s.endReshard p

/-- A re-shard starts at round r (0, or where the journal left it). -/
def State.startReshard (s : State) (p : Plan) (r : Nat) : State :=
  let s := if r = 0 then s.clearJournal s.ownJournal else s
  let s := ((s.setFld mapReshardId 0 p.ident).setFld mapReshardRounds 0 p.rounds.length).setFld mapReshardActive 0 1
  s.goReshard p r

/-- The round at which the journal left a plan: the first without its COMMIT record (R341). -/
def State.journalLeft (s : State) : Option (Plan × Nat) :=
  let js := (s.journalAt s.ownJournal).1
  match js.head?.bind fun j => s.planOf j.plan with
  | none => none
  | some p =>
    ((List.range p.rounds.length).find? fun r => !js.any fun x => x.plan == p.ident && x.round == r && x.commit).map fun r => (p, r)

/-- The boundary of the first step goes on: with the re-shard that the journal left, or without one (R341). -/
def State.resumeBoundary (s : State) : State :=
  match s.journalLeft with
  | some (p, r) => s.startReshard p r
  | none => s.endBoundary

/-- This engine's journal has been read: the boundary of the first step goes on, or where the journal cannot be read the partner is asked for
the mirror of it (R341). -/
def State.tryJournal (s : State) : State :=
  match s.chain.journal with
  | none => s
  | some lost =>
    if s.readsOpen (· == markJournal) then s
    else
      let s : State := { s with chain := { s.chain with journal := none } }
      match s.bushel with
      | some b =>
        if !lost && (s.journalAt s.ownJournal).2 then ({ s with chain := { s.chain with reshard := none } } : State).resumeBoundary
        else s.post (.bushel b.partner .askJournal)
      | none => ({ s with chain := { s.chain with reshard := none } } : State).resumeBoundary

/-- The boundary of the first step waits for this engine's journal (R341). -/
def State.firstBoundary (s : State) : State :=
  let us := s.journalUnits s.ownJournal
  let s : State := { s with chain := { s.chain with journal := some false, reshard := some ⟨none, 0, [], false, []⟩ } }
  ((s.touchHoles us).issueReads Who.furlong false (us.map fun u => (u, [markJournal]))).tryJournal

/-- The partner's mirror of the journal has come (R341). -/
def State.takeJournal (s : State) (l : List JournalRec) : State :=
  match s.chain.reshard with
  | some ⟨none, _, _, _, _⟩ =>
    let s : State := { s with chain := { s.chain with reshard := none } }
    (l.foldl (fun s r => s.putJournal s.ownJournal r) (s.clearJournal s.ownJournal)).resumeBoundary
  | _ => s

/-- RESHARD_TRANSFER (R270): a block of this round is written into its slot; one of the next round waits, and one of any other is dropped
(DESIGN CHOICE, log entry 141). -/
def execReshardTransfer (rank slot round : Nat) (data : List Byte) (bad : List Nat) (tag : Nat) (s : State) : Out :=
  let b : Block := ⟨rank, slot, round, data, bad, tag⟩
  let keep : State := { s with chain := { s.chain with blocks := s.chain.blocks ++ [b] } }
  .next (
    if !s.onChain || (s.admState != admRunning && s.admState != admDispatching) then s
    else match s.chain.reshard with
    | some x =>
      match x.plan.bind s.planOf with
      | some p => if round = x.round then (s.takeBlock p x b).tryRoundDone else if round = x.round + 1 then keep else s
      | none => keep
    | none => if s.admState == admDispatching || (s.reshardStaged && round == 0) then keep else s)

/-- The head holds a round's DONE from every engine: round-commit (R270). -/
def State.roundDone (s : State) (rank round : Nat) : State :=
  let l := (rank, round) :: s.chain.roundDones.filter (· ≠ (rank, round))
  if (List.range s.chainSize).all fun k => l.contains (k, round) then
    ({ s with chain := { s.chain with roundDones := l.filter fun x => x.2 != round } } : State).post (.round (.commit round))
  else { s with chain := { s.chain with roundDones := l } }

/-- RESHARD_ROUND_MESSAGE (R270). -/
def execReshardRoundMessage (m : RoundMsg) (s : State) : Out :=
  .next (
    if !s.onChain || (s.admState != admRunning && s.admState != admDispatching) then s
    else match m with
    | .done rank round => if s.flag mapChainIsHead 0 && decide (rank < s.chainSize) then s.roundDone rank round else s
    | .commit round =>
      match s.runningPlan with
      | none => s
      | some (x, p) =>
        if x.round = round ∧ x.doneSent = true then
          ((s.writeJournal ⟨p.ident, round, true⟩).setFld mapReshardPhase 0 3).goReshard p (round + 1)
        else s)

end Sys2Proof.Machine
end

