-- ==== Sys2Proof/Machine/Snapshot.lean ====
section
/-!
DEFINITION. Sys2Proof/Machine/Snapshot.lean: what ends a snapshot, the mirror, partners, halts, and the restore (11 sections 11.3 to
11.6).
-/
namespace Sys2Proof.Machine

/-- HALTED or LOADED (R334). -/
def State.mayRestore (s : State) : Bool := s.admState == admHalted || s.admState == admLoaded

/-! ## Halts (R257, R302, R333) -/

/-- HALT (R257): from the chain head, in RUNNING or DISPATCHING. -/
def execHalt (_step _fault : Nat) (s : State) : Out :=
  .next (if s.onChain && (s.admState == admRunning || s.admState == admDispatching) then s.haltChain else s)

/-- A write of SNP.CTRL.LOCAL_HALT (R302, Table 11.13). -/
def State.effLocalHalt (s : State) : State :=
  if s.admState = admRunning ∨ s.admState = admDispatching then s.haltChain.setFld snpStatusLocalHalt 0 1 else s

/-- LOCAL_HALT (R302). -/
def execLocalHalt (src : Src) (s : State) : Out := .next (s.gate src .snpCtrl 0 State.effLocalHalt)

/-! ## Mirror and partners (R331 to R333) -/

/-- Copy a control block from one place of the mirror to another. -/
def State.copyBlock (s : State) (src dst : Nat) : State :=
  let us := (List.range (ctlSize / 64)).map fun u => (src / 64 + u, [dst / 64 + u])
  ((s.touchHoles (us.map (·.1))).issueReads Who.furlong false us).workWrite dst (s.loadBytes 0 src ctlSize).1

/-- Keep a record of the mirror source: OPEN overwrites the others of its slot, and of another step the slot's digest table, and takes the
latest block for its own; COMMIT makes that the slot's. -/
def State.mirrorRec (s : State) (r : SlotRec) : State :=
  let kept := r.kind != .opened || (s.recsAt (s.mirrorRecBase r.slotB) r.slotB).any fun x => x.step == r.step
  let s := if kept then s else s.workWrite (s.mirrorTable r.slotB) (List.replicate 1536 0)
  let d := slotRecBytes r ++ (if r.kind = .opened then List.replicate 128 0 else [])
  let s := s.workWrite (s.mirrorRecBase r.slotB + 64 * recUnit r.kind) d
  match r.kind with
  | .opened => s.copyBlock s.mirrorLatest s.mirrorOpen
  | .done => s
  | .committed => s.copyBlock s.mirrorOpen (s.mirrorSlot r.slotB)

/-- Keep what the mirror source sends in the MIRROR area of the working region (R332). The first record of a re-shard clears the
journal. -/
def State.keepMirror (s : State) (m : MirrorMsg) : State :=
  match m with
  | .control b => (s.workWrite s.mirrorLatest (ctlBytes b)).setFld snpPartnerMirrorStep 0 b.step
  | .slotRecord r => s.mirrorRec r
  | .journal r => (if r.round = 0 ∧ r.commit = false then s.clearJournal s.mirrorJournal else s).putJournal s.mirrorJournal r
  | .digests b t => s.workWrite (s.mirrorTable b) (tableBytes t)
  | .heartbeat => s

/-- PARTNER_MIRROR (R331, R332). -/
def execPartnerMirror (rank : Nat) (m : MirrorMsg) (s : State) : Out :=
  .next (
    match s.bushel with
    | none => s
    | some b =>
      if !(if m = .heartbeat then s.inChain else s.onChain) then s
      else if rank ≠ b.source then s.logEv 0x0308 10 0 rank
      else ({ s with snp := { s.snp with lastMsg := s.time, lost := false } } : State).keepMirror m)

/-- HEARTBEAT (R332). -/
def execHeartbeat (s : State) : Out := .next (if s.inChain then s.sendMirror .heartbeat else s)

/-- 20 ms of AON time, in cycles of 100 MHz. -/
abbrev partnerLimit : Nat := 2000000

/-- Report the step failed with PARTNER_LOST, or, when the head itself is silent, halt (R333). -/
def State.partnerFails (s : State) (source : Nat) : State :=
  if source = 0 then s.haltChain.setFld snpStatusLocalHalt 0 1
  else
    let s := s.setFld mapStatusStepFailed 0 1
    ({ s with chain := { s.chain with reported := true } } : State).post (.report ⟨s.rank, s.epoch.toNat, false, some 9, [], none, false⟩)

/-- PARTNER_LOST (R333): once for each silence of the mirror source. -/
def execPartnerLost (s : State) : Out :=
  .next (
    match s.bushel with
    | none => s
    | some b =>
      if !s.inChain || s.snp.lost || decide (s.time < s.snp.lastMsg + partnerLimit) then s
      else
        let s : State := { s with snp := { s.snp with lost := true } }
        let s := (s.setOnce snpStatusPartnerLost 0 mgtIrqPendPartner).logEv 0x0109 10 0 (2 ^ 36 * b.source)
        if s.admState = admRunning then s.partnerFails b.source
        else if s.restoring then s.post (.bushel 0 (.lost b.source))
        else s)

/-! ## The end of a snapshot (R328, R344) -/

/-- Every parity piece of this engine has been written. -/
def State.parityComplete (s : State) : Bool := decide (s.snp.pieces.length = 2 * s.fld snpCfgCellUnits 0)

/-- The snapshot word of an event 0x0405. -/
def State.snapArg (s : State) : Nat := s.snp.step + (if s.snp.slotB then 2 ^ 32 else 0)

/-- SNAPSHOT_DONE (R328, R344). -/
def execSnapshotDone (s : State) : Out :=
  .next (
    match s.bushel with
    | none => s
    | some b =>
      if !s.works || !s.snp.active || s.snp.doneSent then s
      else if s.snp.poisonSeen then
        let s := (s.setOnce snpStatusSnapPoison 0 mgtIrqPendSnap).logEv 0x0405 10 0 (s.snapArg + 2 ^ 34)
        let s : State := { s.setFld snpStatusPhase 0 3 with snp := { s.snp with doneSent := true } }
        s.post (.snapDone s.rank s.snp.step true 0 0)
      else if s.parityComplete && !s.coderBusy then
        let s := s.writeRec s.snp.slotB .done s.snp.step
        let d := s.slotDigests b s.snp.slotB
        let s : State := { s.setFld snpStatusPhase 0 3 with snp := { s.snp with doneSent := true } }
        s.post (.snapDone s.rank s.snp.step false d.1 d.2)
      else s)

/-- SNAPSHOT_DONE_REPORT (R328, R344): the head seals when it holds every DONE, and abandons at the first failed one. -/
def execSnapshotDoneReport (rank step : Nat) (failed : Bool) (shard parity : Nat) (s : State) : Out :=
  .next (
    if !s.onChain || !s.flag mapChainIsHead 0 || s.admState != admRunning || decide (s.chainSize ≤ rank) then s
    else if failed then
      ({ s with snp := { s.snp with dones := s.snp.dones.filter fun d => d.2.1 != step } } : State).post (.abandon step)
    else
      let ds := (rank, step, shard, parity) :: s.snp.dones.filter fun d => !(d.1 == rank && d.2.1 == step)
      let got := (List.range s.chainSize).map fun r => ds.find? fun d => d.1 == r && d.2.1 == step
      if got.all Option.isSome then
        let t := got.map fun d => match d with | some x => x.2.2 | none => (0, 0)
        ({ s with snp := { s.snp with dones := ds.filter fun d => d.2.1 != step } } : State).post (.seal step t s.snp.skipped)
      else { s with snp := { s.snp with dones := ds } })

/-- SNAPSHOT_SEAL (R327, R328): the group's digest table is written, then the COMMIT record, last. -/
def execSnapshotSeal (step : Nat) (t : DigestTable) (skip : Bool) (s : State) : Out :=
  .next (
    match s.bushel with
    | none => s
    | some b =>
      if !s.onChain || !s.snp.active || s.snp.step != step || !s.snp.doneSent || s.snp.sealing.isSome then s
      else
        let table := (List.range b.n).map fun p => t.getD (groupRank b p) (0, 0)
        let s := s.writeTable s.snp.slotB table
        ({ s with snp := { s.snp with sealing := some skip } } : State).commitSlot)

/-- ABANDON (R344). -/
def execAbandon (step : Nat) (s : State) : Out :=
  .next (if s.onChain && s.snp.active && s.snp.step == step then s.endSnapshot else s)

/-! ## FILL (R336) -/

/-- This engine is erased for the chosen step. -/
def State.erasedHere (s : State) : Bool := s.snp.fill.erased.contains s.rank

/-- The slot units that a restore reads and finds corrected or uncorrectable (Table 11.14). -/
def State.slotErrors (s : State) (us : List Nat) : State :=
  us.foldl (fun s u =>
    match s.mapAddr (64 * u) with
    | none => s
    | some (port, p) =>
      if s.portFailed port then s.uncorr snpErrUncorrCnt 0 1
      else match sc8Check (s.unitWord port p) with
      | .corrected _ _ => s.corr snpErrCorrCnt 0 1
      | .uncorrectable => s.uncorr snpErrUncorrCnt 0 1
      | .good | .poisoned => s) s

/-- Change the state of the fill. -/
def State.modFill (s : State) (f : FillSt → FillSt) : State := { s with snp := { s.snp with fill := f s.snp.fill } }

/-- The units of a piece of a cell of this engine's slot as they were delivered: +0 where a unit is not good, and those units. An erased
engine has none. -/
def State.servePiece (s : State) (cell off : Nat) (lost : List Nat) : State × List Byte × List Nat :=
  let a := s.cellAddr s.snp.fill.slotB cell + off
  let us := (List.range pieceUnits).map fun u =>
    let x := s.readUnit (a + 64 * u)
    if s.erasedHere || x.2 || lost.contains u then (List.replicate 64 0, true) else x
  let bad := (List.range pieceUnits).filter fun u => match us[u]? with | some x => x.2 | none => false
  let d := us.flatMap (·.1)
  (s.modFill fun f => { f with
    served := (cell, off) :: f.served.filter (· ≠ (cell, off))
    need := f.need ++ bad.map fun u => (cell, off / 64 + u)
    hurt := if bad.isEmpty || f.hurt.contains cell then f.hurt else cell :: f.hurt }, d, bad)

/-- SNP.FILL.CELLS_DONE: cells of this engine's slot of which every unit that had to be rebuilt is. -/
def State.showCells (s : State) : State :=
  let f := s.snp.fill
  let done := f.hurt.filter fun c =>
    !(f.need.any fun x => x.1 == c) && (f.served.filter fun x => x.1 == c).length == s.fld snpCfgCellUnits 0
  s.setFld snpFillCellsDone 0 (min done.length 31)

/-- Write a rebuilt unit into this engine's slot (R336). -/
def State.rebuildUnit (s : State) (cell off : Nat) (d : List Byte) : State :=
  let s := s.coderWrite (s.cellAddr s.snp.fill.slotB cell + off) d
  ((s.modFill fun f => { f with need := f.need.filter (· ≠ (cell, off / 64)) }).bump snpErrRebuilt 0 1).showCells

/-- Erased data positions of unit u, in increasing order. -/
def dataErased (k : Nat) (bad : List (Nat × Nat)) (u : Nat) : List Nat := (List.range k).filter fun x => bad.contains (u, x)

/-- The engine that solves for unit u of stripe j: the holder of lowest rank of an erased data unit. -/
def solverOf (b : Bushel) (j : Nat) (bad : List (Nat × Nat)) (u : Nat) : Option Nat :=
  (dataErased (dataCells b) bad u).foldl (fun (m : Option Nat) x =>
    let r := groupRank b (stripeHolder b j x)
    match m with | none => some r | some y => some (min y r)) none

/-- SNP.FILL.MAX_ERASE: the most erased units at one offset that this engine has seen. -/
def State.seeErased (s : State) (b : Bushel) (bad : List (Nat × Nat)) : State :=
  let m := (List.range pieceUnits).foldl (fun m u => max m ((List.range b.n).filter fun x => bad.contains (u, x)).length) 0
  s.setFld snpFillMaxErase 0 (max (s.fld snpFillMaxErase 0) (min m 3))

/-- Report the end of a phase to the head, with the choice that it belongs to. -/
def State.reportPhase (s : State) (phase : Nat) (ok : Bool) : State :=
  if s.snp.fill.reported then s else (s.modFill fun f => { f with reported := true }).post (.phaseDone s.rank phase ok s.snp.fill.round)

/-- The fill of this engine is complete: all its cells are read for the stripes, and every unit that was not good is rebuilt. -/
def State.checkFill (s : State) (b : Bushel) : State :=
  let f := s.snp.fill
  if f.served.length = b.n * s.fld snpCfgCellUnits 0 ∧ f.need.isEmpty = true ∧ f.reported = false then
    let s := if s.erasedHere then s.writeRec f.slotB .done (s.fld snpFillStep 0) else s
    s.reportPhase 5 (!f.failed)
  else s

/-- A piece of a stripe chain in a fill: this engine adds what it can read of its data. -/
def State.fillChain (s : State) (b : Bushel) (j i off : Nat) (p q : List Byte) (bad : List (Nat × Nat)) (lost : List Nat) : State :=
  let (s, d, bu) := s.servePiece i off lost
  (s.sendPair b (s.fld snpFillStep 0) j i off (xorBytes p d) (xorBytes q (gfScale (gfAlpha i) d)) (bad ++ bu.map fun u => (u, i))).checkFill b

/-- The pair of a piece at a parity holder: the syndrome, parity units recomputed where no data is erased, and the syndrome to every
engine that solves (R336). -/
def State.fillParity (s : State) (b : Bushel) (j off : Nat) (isQ : Bool) (d : List Byte) (bad : List (Nat × Nat)) (lost : List Nat) : State :=
  let k := dataCells b
  let cell := k + (if isQ then 1 else 0)
  let (s, own, bu) := s.servePiece cell off lost
  let all := bad ++ bu.map fun u => (u, cell)
  let s := s.seeErased b all
  let s := (bu.filter fun u => (dataErased k bad u).isEmpty).foldl
    (fun s u => s.rebuildUnit cell (off + 64 * u) ((d.drop (64 * u)).take 64)) s
  let solvers := ((List.range pieceUnits).filterMap (solverOf b j bad)).eraseDups
  (solvers.foldl (fun s r => s.post (.bushel r (.syndrome (s.fld snpFillStep 0) j off isQ (xorBytes d own) all))) s).checkFill b

/-- The erased data of one unit offset from its syndromes (R336): position and bytes; `pBad`: the P unit is erased too. -/
def solveUnit (xs : List Nat) (pBad : Bool) (sp sq : List Byte) : List (Nat × List Byte) :=
  match xs with
  | [x] => if pBad then [(x, gfScale (gfAlpha (255 - x)) sq)] else [(x, sp)]
  | [x, y] =>
    let c := gfInv (gfAlpha y ^^^ gfAlpha x)
    let dx := gfScale c (xorBytes (gfScale (gfAlpha y) sp) sq)
    [(x, dx), (y, xorBytes sp dx)]
  | _ => []

/-- Hand a rebuilt unit to the engine that holds it. -/
def State.deliverUnit (s : State) (b : Bushel) (j cell off : Nat) (d : List Byte) : State :=
  let r := groupRank b (stripeHolder b j cell)
  if r = s.rank then s.rebuildUnit cell off d else s.post (.bushel r (.rebuilt (s.fld snpFillStep 0) cell off d))

/-- Solve for one unit of a piece. -/
def State.solveOne (s : State) (b : Bushel) (x y : Synd) (u : Nat) : State :=
  let k := dataCells b
  let bad := x.bad ++ y.bad
  let xs := dataErased k bad u
  let pBad := bad.contains (u, k)
  let qBad := bad.contains (u, k + 1)
  if solverOf b x.stripe bad u ≠ some s.rank then s
  else if 2 < xs.length + (if pBad then 1 else 0) + (if qBad then 1 else 0) then
    ((s.setFld snpFillMaxErase 0 3).modFill fun f => { f with failed := true }).reportPhase 5 false
  else
    let sp := (x.data.drop (64 * u)).take 64
    let sq := (y.data.drop (64 * u)).take 64
    let ds := solveUnit xs pBad sp sq
    let off := x.offset + 64 * u
    let s := ds.foldl (fun s d => s.deliverUnit b x.stripe d.1 off d.2) s
    let s := if pBad then s.deliverUnit b x.stripe k off (ds.foldl (fun a d => xorBytes a d.2) sp) else s
    if qBad then s.deliverUnit b x.stripe (k + 1) off (ds.foldl (fun a d => xorBytes a (gfScale (gfAlpha d.1) d.2)) sq) else s

/-- A syndrome arrives; with its pair the piece is solved. -/
def State.takeSyndrome (s : State) (b : Bushel) (x : Synd) : State :=
  match s.snp.fill.synd.find? fun y => y.stripe == x.stripe && y.offset == x.offset && y.isQ != x.isQ with
  | none => s.modFill fun f => { f with synd := f.synd ++ [x] }
  | some y =>
    let s := (s.modFill fun f => { f with synd := f.synd.filter (· ≠ y) }).seeErased b (x.bad ++ y.bad)
    let (p, q) := if x.isQ then (y, x) else (x, y)
    ((List.range pieceUnits).foldl (fun s u => s.solveOne b p q u) s).checkFill b

/-- The units that a piece waited for have come: it goes on. -/
def State.finishServe (s : State) (b : Bushel) (x : Serve) : State :=
  match x.msg with
  | .chain _ j i off p q bad => s.fillChain b j i off p q bad x.lost
  | .parity _ j off isQ d bad => s.fillParity b j off isQ d bad x.lost
  | _ => s

/-- The pieces of a FILL whose units have all been answered go on (R336). -/
def State.payServes (s : State) : State :=
  let go := fun (x : Serve) => !s.readsOpen fun d => decide (2 ^ 60 + 2 ^ 52 ≤ d) && d / 2 ^ 10 == 2 ^ 50 + 2 ^ 42 + x.id
  match s.bushel with
  | none => s
  | some b =>
    if s.fld snpStatusPhase 0 ≠ 5 then s
    else (s.snp.fill.serves.filter go).foldl (fun s x => s.finishServe b x) (s.modFill fun f => { f with serves := f.serves.filter fun x => !go x })

/-- A piece of a stripe waits for the units of this engine's cell; an erased engine reads none. A unit that is not good counts as erased
(R336, R340). -/
def State.serve (s : State) (m : BushelMsg) (cell off : Nat) : State :=
  let us := if s.erasedHere then [] else (List.range pieceUnits).map fun u => (s.cellAddr s.snp.fill.slotB cell + off) / 64 + u
  let id := s.snp.fill.serveNo
  let s := (s.modFill fun f => { f with serves := f.serves ++ [⟨id, m, cell, off, []⟩], serveNo := id + 1 }).coderReads
    ((indexed us).map fun u => (u.1, [markServe id u.2]))
  (s.slotErrors us).payServes

/-- A unit that a piece waits for was not delivered good: it counts as erased, and as an uncorrectable one that the restore has read, unless
it was found so in attached memory already (R336, Table 11.14). -/
def State.loseUnit (s : State) (id u : Nat) : State :=
  match s.snp.fill.serves.find? fun x => x.id == id with
  | none => s
  | some x =>
    let seen := (s.readUnit (s.cellAddr s.snp.fill.slotB x.cell + x.offset + 64 * u)).2
    let s := if seen || x.lost.contains u then s else s.uncorr snpErrUncorrCnt 0 1
    s.modFill fun f => { f with serves := f.serves.map fun x => if x.id = id then { x with lost := u :: x.lost } else x }

/-- A Bushel transfer of the fill for the chosen step. -/
def State.fillMsg (s : State) (b : Bushel) (m : BushelMsg) : State :=
  let here := fun (st : Nat) => st == s.fld snpFillStep 0
  match m with
  | .chain st j i off _ _ _ =>
    if here st && stripeCell b j b.pos == i && decide (i < dataCells b) then s.serve m i off else s
  | .parity st _ off isQ _ _ => if here st then s.serve m (dataCells b + (if isQ then 1 else 0)) off else s
  | .syndrome st j off isQ d bad => if here st then s.takeSyndrome b ⟨j, off, isQ, d, bad⟩ else s
  | .rebuilt st cell off d => if here st then (s.rebuildUnit cell off d).checkFill b else s
  | _ => s

/-- FILL begins: an erased engine opens the slot that it fills (R336). -/
def State.startFill (s : State) (b : Bushel) (step : Nat) (erased : List Nat) (fallback : Bool) (round : Nat) : State :=
  let slotB := (s.slotOf step).getD s.targetSlot
  let here := erased.filter ((b.groups.getD b.group []).contains ·)
  let s := (s.setFld snpStatusPhase 0 5).setFld snpFillStep 0 step
  let s := ((s.setFld snpFillErased 0 (min here.length 31)).setFld snpFillCellsDone 0 0).setFld snpFillMaxErase 0 0
  let s := if fallback then s.setFld snpStatusFallback 0 1 else s
  let s : State := { s with snp := { s.snp with fill := { round := round, slotB := slotB, erased := erased, serveNo := s.snp.fill.serveNo } } }
  let s := if s.erasedHere then s.writeRec slotB .opened step else s
  let zero := List.replicate pieceBytes (0 : Byte)
  let j := (b.pos + b.n - 2) % b.n
  let s := if dataCells b = 0 then s else s.pieceOffsets.foldl (fun s off => s.serve (.chain step j 0 off zero zero []) 0 off) s
  s.takeEarly fun s m => s.fillMsg b m

/-! ## VERIFY (R337) -/

/-- Group positions in order whose engines survive. -/
def State.survivors (s : State) (b : Bushel) : List Nat :=
  (b.groups.getD b.group []).filter fun r => !s.snp.fill.erased.contains r

/-- The digests of this engine's slot agree with those given: the phase ends (R337). Where nothing holds a digest, for no engine of the
group got SEAL or no copy can be read, the slot passes if every unit of it was good (R340, log entry 63). -/
def State.compareDigests (s : State) (b : Bushel) (d : Option (Nat × Nat)) : State :=
  let own := s.slotDigests b s.snp.fill.slotB
  let ok := match d with
    | some x => own.1 == x.1 && (!s.erasedHere || own.2 == x.2) && !s.snp.fill.failed
    | none => !s.snp.fill.failed
  if s.snp.fill.reported then s
  else if ok then (if s.erasedHere then s.setFld snpStatusFilled 0 1 else s).reportPhase 6 true
  else (s.setFld snpStatusVerifyFail 0 1).reportPhase 6 false

/-- VERIFY compares once the digests have come and the slot has been read. -/
def State.tryVerify (s : State) : State :=
  match s.bushel, s.snp.fill.verdict with
  | some b, some d =>
    if s.fld snpStatusPhase 0 = 6 ∧ s.coderBusy = false then (s.modFill fun f => { f with verdict := none }).compareDigests b d else s
  | _, _ => s

/-- The digests to compare with have come, or none are to be had. -/
def State.endVerify (s : State) (d : Option (Nat × Nat)) : State := (s.modFill fun f => { f with verdict := some d }).tryVerify

/-- A slot's digest table is that of a step: the slot is COMMITTED for it, or it is DONE and the table's digests of this engine are those
of the slot, SEAL having come before the loss (R340, log entry 63). -/
def State.tableFor (s : State) (b : Bushel) (slotB : Bool) (step : Nat) : Bool :=
  s.slotCommitted slotB == some step ||
    (s.slotOf step == some slotB && s.digestAt (s.slotTable slotB) b.pos == some (s.slotDigests b slotB))

/-- Ask an engine for the digests of this engine's shard; its own table it reads itself. -/
def State.askDigests (s : State) (b : Bushel) (r : Nat) : State :=
  let s := s.modFill fun f => { f with asked := r :: f.asked }
  if r = s.rank then
    let a := s.slotTable s.snp.fill.slotB
    if s.tableFor b s.snp.fill.slotB (s.fld snpFillStep 0) then
      (s.narrowReads 96 ((digestUnits a b.pos).map fun u => (u, [markRestore]))).endVerify (s.digestAt a b.pos)
    else match (s.survivors b).find? fun r => !s.snp.fill.asked.contains r with
    | some r => (s.modFill fun f => { f with asked := r :: f.asked }).post (.bushel r (.askDigest (s.fld snpFillStep 0)))
    | none => s.endVerify none
  else s.post (.bushel r (.askDigest (s.fld snpFillStep 0)))

/-- VERIFY begins: the slot is read, and the partner asked, or, when it is erased, the lowest surviving group position. -/
def State.startVerify (s : State) (b : Bushel) : State :=
  let us := (List.range (b.n * s.cellLen / 64)).map fun u => s.cellAddr s.snp.fill.slotB 0 / 64 + u
  let s := ((s.setFld snpStatusPhase 0 6).modFill fun f => { f with reported := false, asked := [], failed := false, verdict := none })
  let s := (s.coderReads (us.map fun u => (u, [markRestore]))).slotErrors us
  if s.snp.fill.erased.contains b.partner then s.askDigests b ((s.survivors b).headD s.rank) else s.askDigests b b.partner

/-- The digest table that this engine can read another's digests from: the mirror of its source, with or without a COMMIT record, or its
own slot's (R337, R340). -/
def State.digestTable (s : State) (b : Bushel) (rank step : Nat) (pos : Nat) : Option Nat :=
  if rank = b.source then
    (s.mirrorRecs.find? fun r => r.step == step && s.digestAt (s.mirrorTable r.slotB) pos != some (0, 0)).map fun r => s.mirrorTable r.slotB
  else ([false, true].find? fun sl => s.tableFor b sl step).map s.slotTable

/-- Answer for the digests of a rank, read over the narrow path. -/
def State.giveDigests (s : State) (b : Bushel) (rank step : Nat) : State :=
  let pos := (b.groups.findSome? fun g => g.findIdx? (· == rank)).getD 0
  match s.digestTable b rank step pos with
  | none => s.post (.bushel rank (.digest none))
  | some a =>
    let us := digestUnits a pos
    ((s.touchHoles us).countNarrow 96).holdMsg (Who.narrow 3) (us.map fun u => (u, [0])) (.bushel rank (.digest (s.digestAt a pos)))

/-- Digests arrive: compared; where the engine asked has none, the surviving group positions are asked in order: one whose slot is DONE
holds no digest table (R340, log entry 63). -/
def State.takeDigests (s : State) (b : Bushel) (rank : Nat) (d : Option (Nat × Nat)) : State :=
  if !s.snp.fill.asked.contains rank then s
  else match d, (s.survivors b).find? fun r => !s.snp.fill.asked.contains r with
  | none, some r => s.askDigests b r
  | d, _ => s.endVerify d

/-! ## LOAD (R338) -/

/-- A tracker entry takes what a control block holds of it. -/
def Track.restore (e : Track) (t : CtlTensor) : Track :=
  { e with
    peck := t.peck, head := t.head, se := t.se, sePrev := t.sePrev, rx := t.rx, rxPrev := t.rxPrev, flagged := t.flagged
    variant := t.variant, holdInit := peckValid t.peck == 0, noInit := true, inval := false }

/-- Put the variants of a control block in force, of every layer that has variants (R338). -/
def State.restoreVariants (s : State) (c : CtlBlock) : State :=
  match s.image with
  | some i => c.variants.foldl (fun s v => s.setVariant i v.1 v.2) s
  | none => s

/-- Tracker entries that neither the image nor a variant committed by the snapshot's step brought go: nothing of a later step survives
(R342, R440). -/
def State.dropLater (s : State) (i : Image) (c : CtlBlock) : State :=
  { s with trk := s.trk.filter fun e =>
    (i.track.any fun t => t.tnum == e.stat.tnum) || c.tensors.any fun (t : CtlTensor) => t.tnum == e.stat.tnum }

/-- The holder table of a number: that of HOLDERS, or of a re-shard plan. -/
def holderTable (i : Image) (n : Nat) : List (BitVec 256) :=
  if n = 0 then i.holders else ((i.reshard[n - 1]?).map fun p => p.holders).getD i.holders

/-- Put a control block in force (R338). -/
def State.applyCtl (s : State) (c : CtlBlock) : State :=
  let s := s.restoreVariants c
  let s := match s.image with | some i => s.dropLater i c | none => s
  let tags := fun (l : List (Nat × Nat)) => match s.image with
    | some i => l.map fun t => match c.tags.find? fun x => holderTensor i t.1 == some x.1 with | some x => (t.1, x.2) | none => t
    | none => l
  let s : State := { s with
    trk := s.trk.map fun e => match c.tensors.find? fun (t : CtlTensor) => t.tnum == e.stat.tnum with | some t => e.restore t | none => e
    upd := { s.upd with
      seed := c.seed, clipMax := c.clipMax
      layers := (s.upd.layers.zip (List.range s.upd.layers.length)).map fun p =>
        match c.layers.find? fun l => l.index == p.2 with
        | some l => { p.1 with p1 := l.p1, p2 := l.p2, applied := l.applied, last := l.last }
        | none => p.1 }
    chain := { s.chain with
      holders := match s.image with | some i => holderTable i c.holderVar | none => s.chain.holders
      holderVar := c.holderVar
      tags := tags s.chain.tags
      expects := tags s.chain.expects
      pieces := [] } }
  s.setFld updNormNormLast 0 c.norm.toNat

/-- LOAD ends with a control block, or without Pecks (R338, R179): PHASE RESTORED. -/
def State.endLoad (s : State) (c : Option CtlBlock) : State :=
  let s := match c with
    | some c => s.applyCtl c
    | none => (({ s with trk := s.trk.map Track.empty } : State).setFld updNormNormLast 0 f32NaN.toNat).setOnce sclStatusHistLost 0 mgtIrqPendScale
  let step := s.fld snpFillStep 0
  let s := ((s.setFld cfgDispatchStep 0 step).setFld snpStatusPhase 0 8).irq mgtIrqPendRestore
  let s := s.logEv 0x0406 10 0 (step + (if s.flag snpStatusFallback 0 then 2 ^ 32 else 0))
  (s.clearJournal s.ownJournal).reportPhase 7 true

/-- LOAD goes on once its reads have been answered: with this engine's own control block, or the partner is asked (R338). -/
def State.tryLoad (s : State) : State :=
  match s.bushel with
  | none => s
  | some b =>
    if s.fld snpStatusPhase 0 ≠ 7 ∨ s.snp.fill.loading = false ∨ s.coderBusy = true then s
    else
      let s := s.modFill fun f => { f with loading := false }
      let own := if s.snp.fill.failed then none else s.ctlAt (s.cellAddr s.snp.fill.slotB 0 + b.stateBytes)
      match own with
      | some c => s.endLoad (some c)
      | none => s.post (.bushel b.partner (.askControl (s.fld snpFillStep 0)))

/-- LOAD begins: the state bytes are copied, and the control block is read. -/
def State.startLoad (s : State) (b : Bushel) : State :=
  let slotB := s.snp.fill.slotB
  let from' := s.cellAddr slotB 0
  let base := 2 ^ 26 * s.fld cfgRegionBase 1
  let n := b.stateBytes / 64
  let codes := (List.range ((b.stateBytes + ctlSize + 63) / 64)).map fun u => from' / 64 + u
  let feeds := fun u => (if 64 * u < b.stateBytes then [base / 64 + u] else []) ++ if b.stateBytes < 64 * u + 64 then [markRestore] else []
  let s := ((s.setFld snpStatusPhase 0 7).modFill fun f => { f with reported := false, failed := false, loading := true })
  let s := (s.coderReads ((indexed codes).map fun u => (u.1, feeds u.2))).slotErrors codes
  let old := s.mem
  let s := (List.range n).foldl (fun s u =>
    let x := s.readUnit (from' + 64 * u)
    s.writeUnit (base + 64 * u) x.1 x.2) s
  let s := s.issueWrites old Who.coder ((List.range n).map fun u => base / 64 + u)
  let s := if b.stateBytes % 64 = 0 then s
    else
      let x := s.readUnit (from' + 64 * n)
      s.storeBatch Who.coder false (bytesAt 0 (base + 64 * n) (x.1.take (b.stateBytes % 64)) x.2)
  s.tryLoad

/-- The control block of a step that the mirror holds for its source, and where. -/
def State.mirrorCtl (s : State) (step : Nat) : Option (Nat × CtlBlock) :=
  [s.mirrorSlot false, s.mirrorSlot true, s.mirrorOpen, s.mirrorLatest].findSome? fun a =>
    (s.ctlAt a).bind fun c => if c.step = step then some (a, c) else none

/-- Answer for the control block of the mirror source, read from the working region (R338). -/
def State.giveControl (s : State) (b : Bushel) (rank step : Nat) : State :=
  match if rank = b.source then s.mirrorCtl step else none with
  | none => s.post (.bushel rank (.control none))
  | some (a, c) =>
    let us := (List.range (ctlSize / 64)).map fun u => a / 64 + u
    (s.touchHoles us).holdMsg Who.furlong (us.map fun u => (u, [0])) (.bushel rank (.control (some c)))

/-- Answer for the journal of the mirror source, read from the working region (R341). -/
def State.giveJournal (s : State) (b : Bushel) (rank : Nat) : State :=
  if rank = b.source then
    let us := s.journalUnits s.mirrorJournal
    (s.touchHoles us).holdMsg Who.furlong (us.map fun u => (u, [0])) (.bushel rank (.journal (s.journalAt s.mirrorJournal).1))
  else s.post (.bushel rank (.journal []))

/-! ## The restore (R334, R335, R339) -/

/-- JOB_LOST: no step qualifies, and the engine returns to HALTED (R335). -/
def State.jobLost (s : State) : State :=
  let s := (s.setOnce snpStatusJobLost 0 mgtIrqPendRestore).setFld snpStatusPhase 0 0
  let s := s.logEv 0x0406 10 0 (s.fld snpFillStep 0 + (if s.flag snpStatusFallback 0 then 2 ^ 32 else 0) + 2 ^ 33)
  if s.admState = admHalted then s else (s.setFld cfgAdmitState 0 admHalted).irq mgtIrqPendHalt

/-- The head starts a phase on this engine. -/
def State.startPhase (s : State) (b : Bushel) (phase step : Nat) (erased : List Nat) (fallback : Bool) (round : Nat) : State :=
  if phase = 5 then s.startFill b step erased fallback round
  else if phase = 6 then s.startVerify b
  else if phase = 7 then s.startLoad b
  else s.jobLost

/-- The head's restore state at a RESTORE: it hears every engine again, but those that have reported since it last heard them all, and tries
every step again. -/
def RestoreSt.again (r : RestoreSt) : RestoreSt :=
  { waiting := true, round := r.round, fresh := r.fresh, heard := r.heard.filter fun h => r.fresh.contains h.1 }

/-- A write of SNP.CTRL.RESTORE (R334): while a restore runs, it begins anew with its SCAN (R339). -/
def State.effRestore (s : State) : State :=
  if s.bushel.isNone || !s.mayRestore then s
  else
    let s := (s.setFld snpStatusFilled 0 0).dropSnapshot
    ({ s with snp := { s.snp with restore := s.snp.restore.again, early := [] } } : State).tryScan

/-- RESTORE (R334). -/
def execRestore (src : Src) (s : State) : Out := .next (s.gate src .snpCtrl 0 State.effRestore)

/-- The ranks whose slot for a step is neither DONE nor COMMITTED (R335). -/
def State.erasedFor (s : State) (step : Nat) : List Nat :=
  (List.range s.chainSize).filter fun r =>
    !(s.snp.restore.heard.any fun h => h.1 == r && h.2.1.any fun x => x.1 == step)

/-- At most two erased engines in every group (R335). -/
def groupsQualify (b : Bushel) (erased : List Nat) : Bool := b.groups.all fun g => decide ((g.filter erased.contains).length ≤ 2)

/-- The steps that an engine or a mirror reports COMMITTED. -/
def State.committedSteps (s : State) (mirrors : Bool) : List Nat :=
  s.snp.restore.heard.flatMap fun h => (h.2.1.filter (·.2)).map (·.1) ++ (if mirrors then h.2.2 else [])

/-- The largest of a list. -/
def listMax (l : List Nat) : Option Nat :=
  l.foldl (fun (m : Option Nat) x => match m with | none => some x | some y => some (max x y)) none

/-- Change the head's restore state. -/
def State.modRestore (s : State) (f : RestoreSt → RestoreSt) : State :=
  { s with snp := { s.snp with restore := f s.snp.restore } }

/-- The head chooses the newest step that qualifies and starts FILL; without one the job is lost (R335). -/
def State.headChoose (s : State) (b : Bushel) : State :=
  let ok := (s.committedSteps true).filter fun x => !s.snp.restore.tried.contains x && groupsQualify b (s.erasedFor x)
  match listMax ok with
  | none => (s.modRestore fun r => { waiting := r.waiting, round := r.round, fresh := r.fresh }).post (.bushelAll (.phaseStart 9 0 [] false s.snp.restore.round))
  | some x =>
    let erased := s.erasedFor x
    let fb := match listMax (s.committedSteps false) with | some y => y != x | none => false
    (s.modRestore fun r => { r with phase := 5, ends := [], erased := erased, chosen := x, round := r.round + 1 }).post
      (.bushelAll (.phaseStart 5 x erased fb (s.snp.restore.round + 1)))

/-- The head starts the phase after a complete one. -/
def State.headPhase (s : State) (phase : Nat) : State :=
  let r := s.snp.restore
  (s.modRestore fun r => { r with phase := phase, ends := [] }).post (.bushelAll (.phaseStart phase r.chosen r.erased false r.round))

/-- The slot of a rank counts as erased for the chosen step (R337, R339). -/
def State.headErase (s : State) (rank : Nat) : State :=
  s.modRestore fun r => { r with
    heard := r.heard.map fun h => if h.1 = rank then (h.1, h.2.1.filter fun x => x.1 != r.chosen, h.2.2) else h }

/-- The chosen step cannot be filled (R336, R339): an older one is tried. -/
def State.headFails (s : State) (b : Bushel) : State := (s.modRestore fun r => { r with tried := r.chosen :: r.tried }).headChoose b

/-- A phase end that the head hears; one of an earlier choice is past. -/
def State.headHears (s : State) (b : Bushel) (rank phase : Nat) (ok : Bool) (round : Nat) (steps : List (Nat × Bool)) (mirror : List Nat) : State :=
  let r := s.snp.restore
  if phase = 4 then
    let heard := (rank, steps, mirror) :: r.heard.filter fun h => h.1 != rank
    let s := s.modRestore fun r => { r with heard := heard, fresh := rank :: r.fresh }
    if (List.range s.chainSize).all fun k => heard.any fun h => h.1 == k then
      (if r.phase = 4 then s.modRestore fun r => { r with fresh := [] } else s).headChoose b
    else s
  else if phase ≠ r.phase ∨ round ≠ r.round then s
  else if phase = 5 ∧ ok = false then s.headFails b
  else if phase = 6 ∧ ok = false then (s.headErase rank).headChoose b
  else
    let ends := rank :: r.ends.filter (· ≠ rank)
    let s := s.modRestore fun r => { r with ends := ends }
    if (List.range s.chainSize).all ends.contains then
      if phase = 7 then s.modRestore fun r => { waiting := r.waiting, round := r.round, fresh := r.fresh } else s.headPhase (phase + 1)
    else s

/-- RESTORE_PHASE_END (R334): at the head, the end of a phase on one engine. -/
def execRestorePhaseEnd (rank phase : Nat) (ok : Bool) (round : Nat) (steps : List (Nat × Bool)) (mirror : List Nat) (s : State) : Out :=
  .next (
    match s.bushel with
    | none => s
    | some b =>
      if s.onChain && s.flag mapChainIsHead 0 && s.mayRestore && decide (rank < s.chainSize) then s.headHears b rank phase ok round steps mirror
      else s)

/-- A loss during a restore reaches the head: its engine is erased and reports anew; the choice is repeated (R339). -/
def State.headLost (s : State) (b : Bushel) (rank : Nat) : State :=
  let r := s.snp.restore
  if r.phase = 4 then s.modRestore fun r => { r with heard := r.heard.filter fun h => h.1 != rank }
  else (s.headErase rank).headChoose b

/-! ## BUSHEL_TRANSFER (R320, R328, R334 to R339) -/

/-- The declaration of a group member (R320). -/
def State.checkGroup (s : State) (b : Bushel) (rank n pos stateBytes : Nat) : State :=
  if n = b.n ∧ stateBytes = b.stateBytes ∧ groupRank b pos = rank then s
  else
    (({ s.setFld snpStatusGroupMismatch 0 1 with snp := { s.snp with mismatch := true } } : State).logEv 0x0404 10 0 rank).endSnapshot

/-- A piece that comes before this engine's own boundary or phase waits. -/
def State.keepEarly (s : State) (m : BushelMsg) : State := { s with snp := { s.snp with early := s.snp.early ++ [m] } }

/-- The boundary that opens a step, or repeats it after a probe, is still to come here: in DISPATCHING, in a probe step and while a
re-shard holds the boundary open, that of the step at hand too (R268, R326). -/
def State.boundaryToCome (s : State) (step : Nat) : Bool :=
  if s.admState = admDispatching then step == s.fld cfgDispatchStep 0
  else step == (s.epoch.toNat + 1) % 2 ^ 32 || (step == s.epoch.toNat && (s.probe || s.chain.reshard.isSome))

/-- A piece of a stripe or of a fill; one that comes early waits. -/
def State.pieceMsg (s : State) (b : Bushel) (step : Nat) (m : BushelMsg) : State :=
  if s.admState = admRunning ∨ s.admState = admDispatching then
    if s.snp.active && s.snp.step == step then s.encodeMsg b m
    else if s.boundaryToCome step then s.keepEarly m
    else s
  else if s.fld snpStatusPhase 0 = 5 then s.fillMsg b m
  else if s.fld snpStatusPhase 0 = 4 ∨ (6 ≤ s.fld snpStatusPhase 0 ∧ s.fld snpStatusPhase 0 ≤ 8) then s.keepEarly m
  else s

/-- BUSHEL_TRANSFER (KIND 15). -/
def execBushelTransfer (rank : Nat) (m : BushelMsg) (s : State) : Out :=
  .next (
    match s.bushel with
    | none => s
    | some b =>
      if !s.onChain then s
      else match m with
      | .chain st _ _ _ _ _ _ => s.pieceMsg b st m
      | .parity st _ _ _ _ _ => s.pieceMsg b st m
      | .syndrome st _ _ _ _ _ => s.pieceMsg b st m
      | .rebuilt st _ _ _ => s.pieceMsg b st m
      | .group n pos k => s.checkGroup b rank n pos k
      | .phaseStart phase step erased fb round => if s.mayRestore && rank == 0 then s.startPhase b phase step erased fb round else s
      | .askDigest step => s.giveDigests b rank step
      | .digest d => if s.fld snpStatusPhase 0 = 6 then s.takeDigests b rank d else s
      | .askControl step => s.giveControl b rank step
      | .control c => if s.fld snpStatusPhase 0 = 7 && rank == b.partner then s.endLoad c else s
      | .askJournal => s.giveJournal b rank
      | .journal l => if rank = b.partner then s.takeJournal l else s
      | .lost r => if s.flag mapChainIsHead 0 && s.mayRestore then s.headLost b r else s)

end Sys2Proof.Machine
end

