-- ==== Sys2Proof/Machine/Chain.lean ====
section
/-!
DEFINITION. Sys2Proof/Machine/Chain.lean: step reports, the chain head and the epoch token (R31, 09 section 9.5, R297, R302).
-/
namespace Sys2Proof.Machine

/-! ## The step report (R31, R165, R232, R257, R312) -/

/-- Micro-batches accepted in the current step. -/
def State.acceptedMbs (s : State) : Nat := (s.mbs.filter fun m => m.acc.isSome).length

/-- A layer's part of the step is over: written, its requests answered, weights-ready sent; a probe step sends none, and the cut's
measurement of masters has come (R31, R181). -/
def State.layerClosed (s : State) (l : Nat) : Bool :=
  match s.layerAt l with
  | some (r, x) =>
    (s.upd.skipped || allSlices r x.written) && !s.layerBusy l &&
      (if s.probe then !s.probeReads r || x.emitted else x.sent && !s.fx.queue.contains (.weightsReady ((s.epoch.toNat + 1) % 2 ^ 32) l))
  | none => true

/-- The conditions of R31. -/
def State.stepComplete (s : State) : Bool :=
  match s.image with
  | none => false
  | some i =>
    s.allOpened i && (List.range s.layerRecs.length).all s.layerClosed && decide (s.fld mapSlotsOpen 0 = 0) &&
      s.usedCtx.all fun c => !(s.ctx c).running && decide ((s.ctx c).finished = s.acceptedMbs)

/-- A collective or a move whose traffic has to cross a FAILED port: it never completes (R277). -/
def State.crossesDown (s : State) (c : Nat) (f : Flight) : Bool :=
  if entKind f.word = kReduce then
    match s.collective (reduceColl f.word) with
    | some x => (s.collPorts x).any fun n => s.linkState n == linkFailed
    | none => false
  else if entKind f.word = kMove then
    s.chain.moves.any fun m => m.ctx == c && m.queue == f.queue && m.index == f.index && m.need.any fun n => s.cutOff n.2.1
  else false

/-- The pass of an entry that waits in front of its side. -/
def State.passWaits (s : State) (c : Nat) (f : Flight) : Bool :=
  match s.queueSide c f.queue with
  | some si => (s.side si).issued.any fun r => r.ctx == c && r.queue == f.queue && r.index == f.index
  | none => false

/-- Whether an entry in flight waits for one of `l`: a pass behind an earlier one of its queue or behind a writer of its operands, a drain
for its tile or behind a writer of what it writes, a move behind what it shares (R74, R87, R107, R139). -/
def State.waitsOn (s : State) (c : Nat) (l : List (Nat × Nat)) (f : Flight) : Bool :=
  let mine := (s.ctx c).flight.filter fun g => l.contains (g.queue, g.index)
  let before := fun (p : Flight → Bool) => mine.any fun g => g.queue == f.queue && decide (g.index < f.index) && entKind g.word == kPass && p g
  let k := entKind f.word
  if k = kPass then
    s.passWaits c f && (before (fun _ => true) ||
      (s.writersBefore c f.queue f.index fun _ => s.passCodes (s.queueCore c f.queue) (passOf f.word)).any l.contains)
  else if k = kDrain then
    before (fun g => entTile g.word == entTile f.word) || (s.writersBefore c f.queue f.index fun _ => s.flightWrites c f).any l.contains
  else if k = kMove then
    s.chain.moves.any fun m => m.ctx == c && m.queue == f.queue && m.index == f.index && m.after.any l.contains
  else false

/-- n rounds of what waits for entries that never end. -/
def State.stuckFrom (s : State) (c : Nat) : Nat → List (Nat × Nat) → List (Nat × Nat)
  | 0, l => l
  | n + 1, l =>
    let new := ((s.ctx c).flight.filter fun f => !f.finished && !l.contains (f.queue, f.index) && s.waitsOn c l f).map fun f => (f.queue, f.index)
    if new.isEmpty then l else State.stuckFrom s c n (l ++ new)

/-- Entries in flight of context c that never end: stopped by a stale access or by a FAILED port, or waiting for one that is (R267, R277). -/
def State.stuck (s : State) (c : Nat) : List (Nat × Nat) :=
  let base := ((s.ctx c).flight.filter fun f => f.dead || (!f.finished && s.crossesDown c f)).map fun f => (f.queue, f.index)
  if base.isEmpty then [] else s.stuckFrom c (s.ctx c).flight.length base

/-- Work in flight that can still end: not stuck; of a halted context, not behind a stopped side or an entry that will never be issued
(R267, R277, R312). -/
def State.flightLives (s : State) (c : Nat) (f : Flight) : Bool :=
  if (s.stuck c).contains (f.queue, f.index) || f.lapsed then false
  else if f.finished || (s.ctx c).halted.isNone then true
  else
    let k := entKind f.word
    if k = kPass then !s.queueStopped c f.queue
    else if k = kDrain then
      !s.queueStopped c f.queue && match s.queueSide c f.queue with
      | some si => let st := (s.tile (si * 2 + entTile f.word)).state; st == .complete || st == .draining
      | none => false
    else true

/-- An entry that its queue holds back for now: a pass on a stale operand or on a tile still to be drained, a move without a mover, a reduction
without slots (R74, R258, R267, R290). -/
def State.entryHeld (s : State) (c q : Nat) (w : BitVec 512) : Bool :=
  let k := entKind w
  if k = kPass then s.staleOperand c q w || s.tileHeld c q w
  else if k = kMove then s.freeMover.isNone
  else if k = kReduce then (s.reduceStarts c (reduceColl w)).isNone
  else false

/-- Context c can issue further entries (R312). -/
def State.canIssue (s : State) (c : Nat) : Bool :=
  let x := s.ctx c
  let issues := x.running && x.halted.isNone && (List.range x.queues.length).any fun q =>
    match s.nextEntry c q with
    | some (_, w, rep) => (rep || s.waitMet c w) && !s.queueStopped c q && !s.entryHeld c q w
    | none => false
  issues || (x.halted.isNone && (s.nextMb c).isSome) || x.flight.any (s.flightLives c) ||
    s.upd.units.any fun u => match u.cur with
      | some l => (match s.layerRecs[l]? with | some r => r.ctx == c && x.halted.isNone | none => false)
      | none => false

/-- The fault that fails the step, once no context can issue (R312). -/
def State.stepFault (s : State) : Option Nat :=
  let f := s.chain.stepFailed.or (s.usedCtx.findSome? fun c => (s.ctx c).failed)
  if s.usedCtx.any s.canIssue then none else f

/-- What a complete report carries of the tensors of SCOPE chain (R165). -/
def State.reportMeas (s : State) : List Meas :=
  (s.trk.filter fun e => e.used && e.stat.chain).map fun e => ⟨e.stat.tnum, e.pend.amax, e.pend.nf, e.pend.none⟩

/-- The complete report of this engine: its measurements, its partial norm under PREV or NONE, (+0, +0) where no layer is clipped, and the
probe request that its boundary raised (R99, R180, R230, R232). -/
def State.completeReport (s : State) : StepReport :=
  ⟨s.rank, s.epoch.toNat, false, none, s.reportMeas, if s.probe || s.holdMode then none else some s.localPair, s.chain.probeAsk⟩

/-- STEP_COMPLETE_REPORT (R31, R312). -/
def execStepCompleteReport (s : State) : Out :=
  .next (
    if !s.works || s.admState != admRunning || s.chain.reported || s.chain.reshard.isSome then s
    else
      let done : State := { s with chain := { s.chain with reported := true } }
      match s.stepFault with
      | some f => (done.setFld mapStatusStepFailed 0 1).post (.report ⟨s.rank, s.epoch.toNat, false, some f, [], none, false⟩)
      | none =>
        if s.stepComplete && s.chain.stepFailed.isNone && s.usedCtx.all (fun c => (s.ctx c).failed.isNone) then
          ({ done with chain := { done.chain with probeAsk := false } } : State).post (.report s.completeReport)
        else s)

/-! ## The chain head (R255 to R257, R302, R308) -/

/-- The norm of the last closed step, unless it is absent. -/
def State.lastNorm (s : State) : Option F32 :=
  let n := BitVec.ofNat 32 (s.fld updNormNormLast 0)
  if 0x7F800000 < n.toNat % 2 ^ 31 then none else some n

/-- Combine the measurements of one tensor over the reports (R256). -/
def combineReports (rs : List StepReport) (t : Nat) : Meas :=
  rs.foldl (fun m r => match r.meas.find? fun x => x.tnum == t with
    | some x => ⟨t, max m.amax x.amax, m.nf || x.nf, m.none && x.none⟩
    | none => m) ⟨t, 0, false, true⟩

/-- The tensors that the reports name. -/
def reportTensors (rs : List StepReport) : List Nat := (rs.flatMap fun r => r.meas.map fun m => m.tnum).eraseDups

/-- The norm of the step that closes: of the held partial norms, or T over the reports' pairs by rank; a probe has none (R230, R256). -/
def State.closingNorm (s : State) (rs : List StepReport) : Option F32 :=
  if s.probe then s.lastNorm
  else if s.holdMode then s.upd.norm
  else
    let ps := (List.range s.chainSize).map fun k => (rs.find? fun r => r.rank == k).bind fun r => r.norm
    if ps.all Option.isSome then some (normOf (treeT (ps.map fun p => p.getD Pair.zero))) else none

/-- COMMIT or ABORT in front of an epoch token that is no probe (R308, R309). -/
def State.resolvePending (s : State) : State :=
  match s.chain.pending with
  | none => s
  | some p =>
    let all := (List.range s.chainSize).all p.acks.contains
    let s := s.post (if all then .commit p.entry else .abort p.entry)
    { s with chain := { s.chain with pending := none } }

/-- The head holds every report of the step: the epoch token goes out (R256, R180, R181). -/
def State.closeStep (s : State) (rs : List StepReport) : State :=
  let probe := rs.any fun r => r.probe
  let next := if s.probe then s.epoch.toNat else (s.epoch.toNat + 1) % 2 ^ 32
  let t : EpochTok := ⟨next, probe, (reportTensors rs).map (combineReports rs), s.closingNorm rs⟩
  let s := if probe then s else s.resolvePending
  let s : State := { s with chain := { s.chain with reports := [] } }
  ((s.setFld mapHeadReported 0 0).setFld mapHeadProbeNext 0 0).post (.epoch t)

/-- FAILED_RPT and FIRST_FAIL with a failed report (Table 9.20). -/
def State.noteFailed (s : State) (rank fault : Nat) : State :=
  let low := match s.chain.failRank with | some (r, _) => min r rank | none => rank
  let s := (s.setFld mapHeadFailedRpt 0 1).setFld mapHeadFirstFail 0 low
  { s with chain := { s.chain with
    failRank := match s.chain.failRank with | some x => if rank < x.1 then some (rank, fault) else some x | none => some (rank, fault) } }

/-- A failed report: halt goes out in place of the next epoch token (R257). -/
def State.failedReport (s : State) (rank fault : Nat) : State :=
  let t := s.noteFailed rank fault
  if s.chain.failRank.isNone then t.post (.halt t.epoch.toNat fault) else t

/-- Keep a report in place of an earlier one of its rank. -/
def State.keepReport (s : State) (r : StepReport) : State :=
  { s with chain := { s.chain with reports := r :: s.chain.reports.filter fun x => x.rank != r.rank } }

/-- Every rank's report is held. -/
def State.allReports (s : State) : Bool := (List.range s.chainSize).all fun k => s.chain.reports.any fun r => r.rank == k

/-- The step before that of CFG.DISPATCH.STEP, which ready reports carry (R302). -/
def State.readyStep (s : State) : Nat := (s.fld cfgDispatchStep 0 + 2 ^ 32 - 1) % 2 ^ 32

/-- Before the first step: the ready reports of every rank bring the first epoch token (R302), but not while the head's controller is halted
(R386). -/
def State.firstToken (s : State) : State :=
  if s.admState = admDispatching ∧ s.allReports = true ∧ s.mcHalted = false then
    let t : EpochTok := ⟨s.fld cfgDispatchStep 0, s.chain.reports.any (fun x => x.probe), [], s.lastNorm⟩
    ({ s with chain := { s.chain with reports := [] } } : State).post (.epoch t)
  else s

/-- A report of a step that has closed is discarded, with a record (R256). -/
def State.lateReport (s : State) (r : StepReport) : State := s.logEv 0x0309 8 0 (r.rank + 1024 * r.step)

/-- A report while no step is open: ready ones are kept for the first token, those of another step once this head knows its step excepted;
a failed one of the step that was halted is noted without a second halt (R256, R257). -/
def State.idleReport (s : State) (r : StepReport) : State :=
  if r.ready then
    if s.admState = admDispatching ∧ r.step ≠ s.readyStep then s.lateReport r else (s.keepReport r).firstToken
  else if s.admState = admHalted ∧ r.step = s.epoch.toNat then
    match r.failed with
    | some f => s.noteFailed r.rank f
    | none => s
  else s.lateReport r

/-- Every report is held, none of them failed: the step closes, but not while the head's controller is halted (R256, R386). -/
def State.tryClose (s : State) : State :=
  if s.allReports && s.chain.failRank.isNone && !s.mcHalted then s.closeStep s.chain.reports else s

/-- The head's controller runs again: what its halt held back goes on (R386). -/
def State.headResume (s : State) : State :=
  if !s.onChain || !s.flag mapChainIsHead 0 then s
  else if s.admState = admRunning then s.tryClose.headNorm
  else s.firstToken

/-- A report while the Chain runs. -/
def State.runReport (s : State) (r : StepReport) : State :=
  if r.ready || r.step != s.epoch.toNat then s.lateReport r
  else
    let s := s.keepReport r
    let s := s.setFld mapHeadReported 0 s.chain.reports.length
    let s := if r.probe then s.setFld mapHeadProbeNext 0 1 else s
    match r.failed with
    | some f => s.failedReport r.rank f
    | none => s.tryClose

/-- STEP_REPORT (R256, R257, R302): at the chain head. -/
def execStepReport (r : StepReport) (s : State) : Out :=
  .next (
    if !s.onChain || !s.flag mapChainIsHead 0 || decide (s.chainSize ≤ r.rank) then s
    else if s.admState = admRunning then s.runReport r
    else s.idleReport r)

/-! ## The epoch token (R31, R165 to R171, R181, R294, R297, R302) -/

/-- At the first epoch token, the measurements held for the first step become pending. -/
def Track.firstStep (e : Track) : Track := { e with pend := e.next, next := {}, measMb := 0 }

/-- The state of the step that closes is cleared, and the epoch changes (R294, R297). Raises, seeds and beats of the step that closes,
which it did not use, are dropped (R181, log entry 116); before the first token no step closes. -/
def State.setEpoch (s : State) (t : EpochTok) : State :=
  let old := s.curStep
  let s : State := { s with
    epoch := BitVec.ofNat 32 t.step
    probe := t.probe
    trk := s.trk.map fun e => e.forStep t.probe
    held := s.held.filter fun h => h.step != old
    mbs := []
    ctxs := s.ctxs.map fun x => { x with finished := 0 }
    chain := { s.chain with reduced := [], opened := [], layerTokens := [], uses := [], overwrites := [], reported := false, stepFailed := none } }
  ((s.dropFx (· == old)).setFlag sclStatusProbeActive 0 t.probe).setFld cfgAdmitState 0 admRunning

/-- The group declarations of the first Bushel message after dispatch (R320). -/
def State.groupExchange (s : State) : State :=
  match s.bushel with
  | none => s
  | some b => ((b.groups.getD b.group []).filter (· ≠ s.rank)).foldl (fun s r => s.post (.bushel r (.group b.n b.pos b.stateBytes))) s

/-- The first three actions of R31 on a boundary that closes a step, and what is sent after the choice (R171, R181). -/
def State.closeAndOpen (s : State) (t : EpochTok) : State × Option Nat :=
  let applied := !s.probe && !s.upd.skipped
  let scales := s.scaleTable
  let wasProbe := s.probe
  let s := (s.closeUpdate applied).foldAndChoose t.meas applied
  let (s, plan) := if t.probe then (s, none) else s.applyCommitted
  let s := (s.setEpoch t).sendScales (some scales) t.probe t.step
  (if wasProbe then s.fxSend ((List.range s.layerRecs.length).map fun l => FxOut.weightsReady t.step l) else s, plan)

/-- The epoch token is applied. -/
def State.applyToken (s : State) (t : EpochTok) : State :=
  let first := s.admState == admDispatching
  let (s, plan) := if first then (({ s with trk := s.trk.map Track.firstStep } : State).setEpoch t, none) else s.closeAndOpen t
  let s := s.openUpdate t.norm
  let s := if first then s.groupExchange else s
  let s := match plan.bind s.planOf with
    | some p => s.startReshard p 0
    | none => if first then s.firstBoundary else s.endBoundary
  if s.headRuns then s.startNext else s

/-- EPOCH_TOKEN (R31, R297): for an engine that has reported, or that dispatches. -/
def execEpochToken (t : EpochTok) (s : State) : Out :=
  .next (
    if s.onChain && ((s.admState == admRunning && s.chain.reported && s.chain.reshard.isNone) ||
        (s.admState == admDispatching && s.chain.readySent)) then
      s.applyToken t
    else s)

end Sys2Proof.Machine
end

