-- ==== Sys2Proof/Machine/Firmware.lean ====
section
/-!
DEFINITION. Sys2Proof/Machine/Firmware.lean: the security record and the firmware patch (R366, R378 to R382).
-/
namespace Sys2Proof.Machine

/-! ## The security record (R366) -/

/-- The record as the registers stand, with the next sequence number. -/
def State.secRecord (s : State) : SecRec :=
  ⟨s.security, s.fld secFwFwMin 0, s.flag secPolicySharedFeed 0, s.flag secPolicyZeroMem 0, s.flag secStateZpend 0,
    max s.sec.recA.seq s.sec.recB.seq + 1, true⟩

/-- Write the copy with the older sequence number. -/
def State.writeRecord (s : State) : State :=
  let r := s.secRecord
  { s with sec :=
    if s.sec.recA.seq ≤ s.sec.recB.seq then { s.sec with recA := r, recPend := false } else { s.sec with recB := r, recPend := false } }

/-- The record is to be written; the controller writes it when it runs (R386, log entry 23). -/
def State.queueRecord (s : State) : State := { s with sec := { s.sec with recPend := true } }

/-- The valid copy with the higher sequence number. -/
def SecSt.record (x : SecSt) : Option SecRec :=
  match x.recA.valid, x.recB.valid with
  | true, true => some (if x.recA.seq ≤ x.recB.seq then x.recB else x.recA)
  | true, false => some x.recA
  | false, true => some x.recB
  | false, false => none

/-- FW_MIN in force: 0xFFFF when neither copy is valid. -/
def SecSt.fwMinNow (x : SecSt) : Nat := match x.record with | some r => r.fwMin | none => 0xFFFF

/-! ## Firmware (R378 to R382) -/

/-- A patch as region 0 holds it at an offset in units of 4 KiB (Table 13.6). -/
def State.readPatch (s : State) (arg : Nat) : Patch :=
  let h := s.region0Bytes (4096 * arg) 160
  let at' := fun (o n : Nat) => bytesLE ((h.drop o).take n)
  let len := at' 8 4
  let body := if 4 ≤ len ∧ len ≤ 389120 then s.region0Bytes (4096 * arg + 4096) len else []
  ⟨at' 0 4, at' 4 2, at' 6 2, len, h.take 64, bytesBE ((h.drop 64).take 48), bytesBE ((h.drop 112).take 48), body⟩

/-- MAGIC, LENGTH and the range of VERSION (Table 13.6, R379). -/
def patchHeaderOk (p : Patch) : Bool :=
  p.magic == 0x57465A45 && decide (4 ≤ p.length) && decide (p.length ≤ 389120) && p.body.length == p.length

/-- The patch verifies (R379). -/
def patchVerifies (p : Patch) : Bool := patchHeaderOk p && Config.sigValid p.sigR p.sigS (sha384Nat (p.header64 ++ p.body))

/-- Whether INSTALL, or ROLLBACK, takes a verified patch (R381, R382). -/
def State.patchAllowed (s : State) (p : Patch) (rollback : Bool) : Bool :=
  (rollback || decide (s.fld secFwFwMin 0 ≤ p.version)) && decide (p.minAfter ≤ p.version)

/-- Write the patch slot (R381, step 4). -/
def State.writePatch (s : State) (p : Patch) : State :=
  let w := min (s.sec.slotWrites + 1) 65535
  ({ s with sec := { s.sec with slot := some p, slotBad := false, slotWrites := w } } : State).setFld secFwSlotWrites 0 w

end Sys2Proof.Machine
end

