-- ==== Sys2Proof/Machine/Power.lean ====
section
/-!
DEFINITION. Sys2Proof/Machine/Power.lean: power states, clocks, resets and start-up (12).
-/
namespace Sys2Proof.Machine

/-- The AON logic runs: no power-on or cold reset is held. -/
def State.aonRuns (s : State) : Bool := decide (s.boot ≠ .porHeld) && decide (s.boot ≠ .coldHeld)

/-! ## Power states (R354 to R357) -/

/-- A power request is refused (R355). -/
def State.refusePower (s : State) (t : Nat) : State :=
  (s.setOnce pwrStatusRefused 0 mgtIrqPendPower).logEv 0x0206 11 0 t

/-- A transition from state `from` to t starts: STATE reads 4 entering or 5 waking (Table 12.12). -/
def State.beginPower (s : State) (cur t : Nat) : State :=
  { s.setFld pwrStatusState 0 (if t < cur then 5 else 4) with pwr := { s.pwr with trans := some t, fromState := cur } }

/-- The conditions of Sleep and Hibernate (R355). -/
def State.maySleep (s : State) : Bool :=
  (s.admState == admUnloaded || s.admState == admLoaded || s.admState == admHalted) &&
    (s.fld snpStatusPhase 0 == 0 || s.fld snpStatusPhase 0 == 8)

/-- The contexts Doze preempts: RUNNING, WAITING (both 2 in the stored state) or RESTARTING (R355). -/
def State.dozeContexts (s : State) : List Nat :=
  (List.range (Config.ctx s.conf)).filter fun c => s.fld seqStatusState c == 2 || s.fld seqStatusState c == 6

/-- Act on a request for state t (R354, R355, R356). -/
def State.actPower (s : State) (t : Nat) : State :=
  let cur := s.fld pwrStatusState 0
  if t = cur then s
  else if cur = 0 then
    if t = 1 then
      if s.admState = admAdmitting then s.refusePower t
      else
        let cs := s.dozeContexts
        let s := cs.foldl State.preemptCtx s
        { s.beginPower 0 1 with pwr := { (s.beginPower 0 1).pwr with mcPreempted := cs } }
    else if s.maySleep then s.beginPower 0 t else s.refusePower t
  else if cur = 1 then
    let w := if t = 0 then none else some t
    { s.beginPower 1 0 with pwr := { (s.beginPower 1 0).pwr with waiting := w } }
  else if t = 0 then s.beginPower cur 0 else s.refusePower t

/-- A request for state t: it waits for a transition, a security command or a halted controller (R354, R372, R386). -/
def State.requestPower (s : State) (t : Nat) : State :=
  if s.pwr.trans.isSome || s.pwr.warm || s.flag secStateBusy 0 || s.mcHalted then { s with pwr := { s.pwr with waiting := some t } }
  else s.actPower t

/-- Act on a request that waited, once nothing holds it. -/
def State.wakeWaiting (s : State) : State :=
  match s.pwr.waiting with
  | none => s
  | some t =>
    if s.pwr.trans.isSome || s.pwr.warm || s.flag secStateBusy 0 || s.mcHalted then s
    else ({ s with pwr := { s.pwr with waiting := none } } : State).actPower t

/-- The engine arrives in state t: STATE, and POWER when it is the target (Table 15.8). -/
def State.arrive (s : State) (t : Nat) : State :=
  let s := { s.setFld pwrStatusState 0 t with pwr := { s.pwr with trans := none } }
  if s.fld pwrCtrlTarget 0 = t then s.irq mgtIrqPendPower else s

/-- Clocks of clusters, UPD and COD start (R350). -/
def State.startClocks (s : State) : State :=
  let s := s.clusterList.foldl State.startCluster s
  ({ s with pwr := { s.pwr with codGated := false } } : State).startUpd

/-- Every Furlong port starts bring-up (R356, R358, Table 12.8). -/
def State.bringUpAll (s : State) : State := (List.range (Config.fports s.conf)).foldl State.bringUp s

/-- Doze ends: the contexts the controller preempted resume (R355, R356). -/
def State.leaveDoze (s : State) (src : Nat) : State :=
  let cs := s.pwr.mcPreempted
  let s := ((s.setFld pwrStatusWakeSrc 0 src).setFld pwrStatusMcPreempt 0 0).arrive 0
  let s := cs.foldl (fun s c => (s.resumeCtx c).resumeMoves c) { s with pwr := { s.pwr with mcPreempted := [] } }
  s.startClocks.wakeWaiting

/-- ZPEND is set: the memory step of zeroisation starts at the arrival in Run (R377). -/
def State.startZpend (s : State) : State :=
  if s.flag secStateZpend 0 then { s with sec := { s.sec with zero := some ⟨true, false⟩ } } else s

/-- The clusters' average power falls to 0 (Table 15.16). -/
def State.clustersOff (s : State) : State := s.clusterList.foldl (fun s c => s.setFld mgtClpwrAvg c 0) s

/-- The ring, the ports, the retimer and the clusters' telemetry in Sleep and Hibernate (Tables 12.9 and 15.16). -/
def State.ringOff (s : State) : State := ((s.portsDark.ringBypass true).setFld mapRingRtmActive 0 0).clustersOff

/-- Entry to Hibernate: the engine unloads, and the logic and the SRAM are lost (R355, Table 12.7). -/
def State.enterHibernate (s : State) : State := s.logicReset.ringOff

/-- A transition towards state t ends where it began, in Run: its condition no longer holds (R355). -/
def State.backToRun (s : State) (t : Nat) : State :=
  let cs := s.pwr.mcPreempted
  let s := { (s.refusePower t).arrive 0 with pwr := { ((s.refusePower t).arrive 0).pwr with mcPreempted := [] } }
  (cs.foldl (fun s c => (s.resumeCtx c).resumeMoves c) s).wakeWaiting

/-- The entry to Doze ends once every context it preempts is preempted; one that has started to run since is preempted too (R355). -/
def State.enterDoze (s : State) : State :=
  let cs := s.dozeContexts
  if s.admState = admAdmitting then s.backToRun 1
  else if !cs.isEmpty then
    let s := cs.foldl State.preemptCtx s
    { s with pwr := { s.pwr with mcPreempted := (s.pwr.mcPreempted ++ cs).eraseDups } }
  else if (List.range (Config.ctx s.conf)).any (fun c => s.fld seqStatusState c == 4) then s
  else ((s.setFld pwrStatusMcPreempt 0 1).arrive 1).wakeWaiting

/-- A transition ends (R354 to R357): the conditions of a state hold at its entry too. -/
def State.endPower (s : State) (railsOk : Bool) : State :=
  match s.pwr.trans with
  | none => s
  | some t =>
    let cur := s.pwr.fromState
    if t = 1 then s.enterDoze
    else if 2 ≤ t && !s.maySleep then s.backToRun t
    else if t = 2 then (s.ringOff.arrive 2).wakeWaiting
    else if t = 3 then (s.enterHibernate.arrive 3).wakeWaiting
    else if cur = 1 then s.leaveDoze 1
    else if cur = 2 then (s.relock.startClocks.arrive 0).bringUpAll.startZpend.wakeWaiting
    else if railsOk then ((s.setFld pwrStatusRailsOk 0 1).relock.startClocks.arrive 0).bringUpAll.startZpend.wakeWaiting
    else (((s.setFld pwrStatusRailsOk 0 0).setOnce pwrStatusRailFault 0 mgtIrqPendPower).arrive 3).wakeWaiting

/-- A write of PWR.CTRL.TARGET; 4 to 7 is discarded (Table 12.11). -/
def State.effTarget (s : State) (t : Nat) : State := if 4 ≤ t then s else (s.setFld pwrCtrlTarget 0 t).requestPower t

/-- POWER_STATE_REQUEST (R354). -/
def execPowerStateRequest (target : Nat) (src : Src) (s : State) : Out :=
  .next (s.gate src .pwrCtrl 0 fun s => s.effTarget (target % 8))

/-- POWER_TRANSITION_DONE (R354 to R357). -/
def execPowerTransitionDone (railsOk : Bool) (s : State) : Out := .next (s.endPower railsOk)

/-- WAKE_SRC of a cause (Table 12.12). -/
def wakeSrc : WakeCause → Nat
  | .targetWrite => 1
  | .doorbell => 2
  | .frame => 3
  | .fxBeat => 4

/-- DOZE_WAKE (R356): in Doze, or while a write of TARGET RUN wakes it. -/
def execDozeWake (cause : WakeCause) (s : State) : Out :=
  .next (
    if s.boot = .alive ∧ s.power = 1 ∧ (cause = .targetWrite → s.pwr.trans = some 0) ∧ (s.pwr.trans = none ∨ s.pwr.trans = some 0)
    then s.leaveDoze (wakeSrc cause) else s)

/-! ## Resets (R358 to R361, Table 12.7, R438) -/

/-- An installation is cut off (R381): before the slot is written, while it is (it then holds no patch that verifies), or before the
record (the new patch runs and FW_MIN stays low). A patch that is not taken writes nothing. -/
def State.cutInstall (s : State) (p : Patch) (rollback : Bool) (x : Nat) : State :=
  if !(patchVerifies p) || !s.patchAllowed p rollback || x = 0 then s
  else if x = 1 then { s with sec := { s.sec with slotBad := true } }
  else s.writePatch p

/-- A store write in progress is cut off (R366, R381, R389): how far it had got is open. -/
def State.cutStore (s : State) : State :=
  match s.sec.cmd with
  | none => s
  | some c =>
    let (x, s) := s.draw 2
    if c.presence && c.code == 3 then (if x = 0 then s else { s with sec := { s.sec with calIntr := true } })
    else if c.presence && c.code == 5 then s.cutInstall (s.readPatch c.arg) true x
    else if !c.presence && c.code == 2 then s.cutInstall (s.readPatch c.arg) false x
    else s

/-- A memory step that a reset cuts off stays pending: ZPEND goes into the security record (R366, R377, log entry 22). -/
def State.cutZero (s : State) : State :=
  match s.sec.zero with
  | some z =>
    let s := { s with sec := { s.sec with zero := none } }
    if z.mem then (s.setFld secStateZpend 0 1).writeRecord else s
  | none => s

/-- What power-on and cold reset clear in the AON island, all but what a cold reset keeps: `cold` keeps the log, MGT (but
IRQ_PEND, IRQ_EN and LOG_SEL), RESET.COUNT, TAMPER.COUNT, GRANTS and the sampled strap (Table 12.7, R438). -/
def State.aonReset (s : State) (cold : Bool) : State :=
  let keep := fun (f : Fld) (t : State) => if cold then t.setFld f 0 (s.fld f 0) else t
  let t := { s with regs := if cold then regsDrop [8, 11, 12, 13] [] (regsDrop [14] (regKinds.filter fun k =>
      regBlock k == 14 && k != .mgtIrqPend && k != .mgtIrqEn && k != .mgtLogSel) s.regs) else [] }
  let t := keep pwrResetCount (keep secTamperCount (keep dbgStatusGrants t))
  { t with
    cpRet := none
    slow := []
    pwr := {}
    mcState := 0
    sec := { s.sec with cmd := none, zero := none, recPend := false, calLive := [], calStage := [] } }

/-- Sample FEED_ID at the release of a power-on or cold reset (R426). -/
def State.sampleFeed (s : State) (feed : Nat) : State :=
  ((s.setFld idStrapFeedId 0 feed).setFld idStrapFeedNow 0 feed).setFld idStrapChanged 0 0

/-- THROTTLE_N stands low after its filter (R352). -/
def State.throttleOn (s : State) : State :=
  if s.flag pwrThrotActive 0 then s
  else (((s.setFld pwrThrotActive 0 1).setOnce pwrThrotSeen 0 mgtIrqPendThrottle).bump pwrThrotCount 0 1).applyCaps

/-- THERM_ALM stands high (R353). -/
def State.thermAlmOn (s : State) : State :=
  if s.flag pwrThermHostAlm 0 then s else ((s.setFld pwrThermHostAlm 0 1).irq mgtIrqPendTherm).applyCaps

/-- The AON logic leaves a reset: it finds the board inputs as they stand (Table 14.9, log entry 91). -/
def State.seePins (s : State) : State :=
  let s := (List.range (Config.vgroups s.conf)).foldl (fun s g => s.setFlag pwrVgrpVok g (s.pins.vok.getD g false)) s
  let s := if s.pins.throttle then s.throttleOn else s
  if s.pins.thermAlm then s.thermAlmOn else s

/-- A cold reset (R358 to R360): LAST, COUNT, the log. -/
def State.coldResetOp (s : State) (b : Boot) : State :=
  let s := s.cutStore.cutZero.cutWrites
  let s := { s.logicReset.aonReset true with boot := b }
  ((s.setFld pwrResetLast 0 1).bump pwrResetCount 0 1).logEv 0x0502 11 0 1

/-- A write of PWR.RESET.COLD: the release follows at once. -/
def State.effCold (s : State) : State := ((s.coldResetOp .rom).sampleFeed (s.fld idStrapFeedNow 0)).seePins

/-- RING_BYP, the ports and the retimer during a warm reset (Table 12.9); in Lockdown the ring stays bypassed and the ports dark
(Table 13.2). -/
def State.warmRing (s : State) : State :=
  if s.security = secLockdown then (s.portsDark.ringBypass true).setFld mapRingRtmActive 0 0
  else (s.portsDark.ringBypass false).setFld mapRingRtmActive 0 1

/-- A write of PWR.RESET.WARM: discarded and logged outside Run and Doze (R358, R361). -/
def State.effWarm (s : State) : State :=
  if 2 ≤ s.power then s.logEv 0x0206 11 0 8
  else
    let s := s.cutZero.cutWrites
    let s := s.logicReset.warmRing.setFld pwrStatusState 0 5
    let s := { s with pwr := { s.pwr with trans := none, waiting := none, mcPreempted := [], warm := true } }
    (((s.setFld pwrStatusMcPreempt 0 0).setFld pwrResetLast 0 2).bump pwrResetCount 0 1).logEv 0x0502 11 0 2

/-- A write of PWR.RESET.RTM_RELEASE: the neighbours' links see this engine again (R361). -/
def State.effRtmRelease (s : State) : State :=
  if s.flag mapRingRtmActive 0 then s.rtmPorts.foldl State.bringUp (s.setFld mapRingRtmActive 0 0) else s

/-- COLD_RESET (R358). -/
def execColdReset (viaPin : Bool) (src : Src) (s : State) : Out :=
  .next (
    if viaPin then (if s.boot = .porHeld ∨ s.boot = .coldHeld then s else s.coldResetOp .coldHeld)
    else s.gate src .pwrReset 0 State.effCold)

/-- WARM_RESET (R358). -/
def execWarmReset (src : Src) (s : State) : Out := .next (s.gate src .pwrReset 0 State.effWarm)

/-- WARM_RESET_DONE (R361): Run; the ports that are not retimed start bring-up. -/
def execWarmResetDone (s : State) : Out :=
  .next (
    if s.pwr.warm then
      let s := { s with pwr := { s.pwr with warm := false } }
      (s.startClocks.arrive 0).bringUpAll.startZpend.wakeWaiting
    else s)

/-- RTM_RELEASE (R361). -/
def execRtmRelease (src : Src) (s : State) : Out := .next (s.gate src .pwrReset 0 State.effRtmRelease)

/-- POWER_ON_RESET (R358): the engine as after manufacture but for the nonvolatile store, attached memory and the levels of the board
inputs. -/
def execPowerOnReset (s : State) : Out :=
  let s := s.cutStore.cutWrites
  let z := State.resetFor s.conf
  .next { z with
    pending := s.pending
    free := s.free
    mem := s.mem
    pins := s.pins
    sec := { s.sec with cmd := none, zero := none, recPend := false, calLive := [], calStage := [] }
    chain := {}
    snp := {} }

/-- POR_RELEASE (R358, R362, R426). -/
def execPorRelease (feed : BitVec 4) (s : State) : Out :=
  .next (
    if s.boot = .porHeld then
      let s := { s with boot := .rom }
      ((s.sampleFeed feed.toNat).seePins).logEv 0x0502 11 0 0
    else s)

/-- RESET_N_RELEASE (R358, R426). -/
def execResetNRelease (feed : BitVec 4) (s : State) : Out :=
  .next (if s.boot = .coldHeld then (({ s with boot := .rom } : State).sampleFeed feed.toNat).seePins else s)

/-- TEST_RESET (R358): the TAP and the core wrappers alone. -/
def execTestReset (s : State) : Out := .next { s with tap := {} }

/-! ## Voltage, frequency, fraction (R348 to R352) -/

/-- A write of PWR.VGRP.VREQ (R349, Table 12.18). -/
def State.effVreq (s : State) (g v : Nat) : State :=
  let m := s.minv g
  let r := max 10 (min v 60)
  if r < m then s.logEv 0x0205 11 g (v + 256 * m)
  else
    let old := s.fld pwrVgrpVreq g
    if r = old then s else { s.setFld pwrVgrpVreq g r with pwr := { s.pwr with prevVreq := s.pwr.prevVreq.set g old } }

/-- VGRP_WRITE (R349). -/
def execVgrpWrite (group : Nat) (value : Word) (src : Src) (s : State) : Out :=
  .next (s.gate src .pwrVgrp group fun s => s.effVreq group (fldGet pwrVgrpVreq value))

/-- A write of PWR.CLK of cluster c: F and NOGATE. -/
def State.effClk (s : State) (c : Nat) (value : Word) : State :=
  (s.setFld pwrClkF c (s.readF (fldGet pwrClkF value))).setFld pwrClkNogate c (fldGet pwrClkNogate value)

/-- CLUSTER_FREQ_WRITE (R349). -/
def execClusterFreqWrite (cluster : Nat) (value : Word) (src : Src) (s : State) : Out :=
  .next (s.gate src .pwrClk cluster fun s => s.effClk cluster value)

/-- VOK_CHANGE (R349, R410). -/
def execVokChange (group : Nat) (level : Bool) (s : State) : Out :=
  let s := { s with pins := { s.pins with vok := s.pins.vok.set group level } }
  .next (if s.aonRuns && decide (group < Config.vgroups s.conf) then s.setFlag pwrVgrpVok group level else s)

/-- THROTTLE_ASSERT (R352): in every power state but Off. -/
def execThrottleAssert (s : State) : Out :=
  let s := { s with pins := { s.pins with throttle := true } }
  .next (if s.aonRuns then s.throttleOn else s)

/-- THROTTLE_RELEASE (R352): N rises by FRACTION_STEP. -/
def execThrottleRelease (s : State) : Out := .next { s.setFld pwrThrotActive 0 0 with pins := { s.pins with throttle := false } }

/-- A droop event begins in cluster c: N of a running clock is halved, to no less than 1 (R348). -/
def State.droopOn (s : State) (c : Nat) : State :=
  if (s.cluster c).droop then s
  else
    let s := if s.clockOn c then s.setN c (max 1 (s.clusterN c / 2)) else s
    { s with pwr := { s.pwr with clusters := s.pwr.clusters.set c { droop := true } } }

/-- DROOP_EVENT (R351): a cluster's detector, or DROOP_ALM for every cluster. -/
def execDroopEvent (cluster : Option Nat) (s : State) : Out :=
  .next (
    if !s.aonRuns then s
    else match cluster with
    | some c => if c < Config.clusters s.conf then ((s.setFld pwrPaceDroopSeen 0 1).bump pwrPaceDroopCnt 0 1).droopOn c else s
    | none => s.clusterList.foldl State.droopOn ((s.setFld pwrPaceHostDroopSeen 0 1).bump pwrPaceDroopCnt 0 1))

/-- DROOP_END (R351). -/
def execDroopEnd (cluster : Nat) (s : State) : Out :=
  .next { s with pwr := { s.pwr with clusters := s.pwr.clusters.set cluster { droop := false } } }

/-- THERM_ALM_ASSERT (R353). -/
def execThermAlmAssert (s : State) : Out :=
  let s := { s with pins := { s.pins with thermAlm := true } }
  .next (if s.aonRuns then s.thermAlmOn else s)

/-- THERM_ALM_RELEASE (R353). -/
def execThermAlmRelease (s : State) : Out := .next { s.setFld pwrThermHostAlm 0 0 with pins := { s.pins with thermAlm := false } }

/-- TJ_THROTTLE in 0.25 °C (R388, R415): 90 °C with the set lost, else the tested value of 95 to 100 °C. -/
def State.tjThrottle (s : State) : Int :=
  if s.calDefaults then 360
  else 380 + (Config.calTjThrottle ((List.range 12).map fun i => cellGet (fun _ => 0) s.sec.calLive (0x12A8 / 8 + i)) % 21 : Nat)

/-- TJ_TRIP in 0.25 °C: 100 °C with the set lost, else the tested value of 105 to 110 °C. -/
def State.tjTrip (s : State) : Int :=
  if s.calDefaults then 400
  else 420 + (Config.calTjTrip ((List.range 12).map fun i => cellGet (fun _ => 0) s.sec.calLive (0x12A8 / 8 + i)) % 21 : Nat)

/-- The hottest of the present sensors (R353, R416); the lowest number of equal ones (log entry 135). -/
def State.hottest (s : State) (readings : List Int) : Option (Nat × Int) :=
  (List.range 40).foldl (fun m k =>
    if Config.sensorPresent s.conf k then
      let t := readings.getD k 0
      match m with
      | none => some (k, t)
      | some (_, b) => if b < t then some (k, t) else m
    else m) none

/-- THERMAL_SAMPLE (R353): every 10 µs the controller reads the 40 sensors, unless debug halts it (R386). -/
def execThermalSample (readings : List Int) (s : State) : Out :=
  if readings.length ≠ 40 then .fault .illFormed
  else if !s.alive || s.mcHalted then .next s
  else match s.hottest readings with
  | none => .next s
  | some (k, t) =>
    let s := (s.setFld pwrThermHottest 0 k).setFld pwrThermTemp 0 (twos 10 t)
    let s := if s.tjThrottle ≤ t then (if s.thermalOn then s else s.irq mgtIrqPendTherm).setFld pwrThermHot 0 1
      else if t < s.tjThrottle - 20 then s.setFld pwrThermHot 0 0 else s
    let s := if s.tjTrip ≤ t then
        let s := s.setOnce pwrThermTrip 0 mgtIrqPendTherm
        let s := if s.pwr.trip then s else s.logEv 0x0501 11 k (twos 10 t)
        { s with pwr := { s.pwr with trip := true } }
      else { s with pwr := { s.pwr with trip := false } }
    .next s.applyCaps

/-- HARDWARE_COMPARATOR_TRIP (R386): acts while the controller is halted. -/
def execHardwareComparatorTrip (crossed : Bool) (s : State) : Out :=
  .next (if s.mcHalted then ({ s with pwr := { s.pwr with comparator := crossed } } : State).applyCaps else s)

/-- FRACTION_STEP (R348): N of a running cluster, or of UPD, rises by one towards the smallest remaining cap. -/
def execFractionStep (cluster : Option Nat) (s : State) : Out :=
  .next (
    if s.power ≠ 0 ∨ s.boot ≠ .alive then s
    else match cluster with
    | some c =>
      if c < Config.clusters s.conf ∧ s.flag pwrClkGated c = false ∧ s.clusterN c < s.nLimit c then s.setN c (s.clusterN c + 1) else s
    | none => if !s.pwr.updGated && decide (s.pwr.updN < s.capLimit) then { s with pwr := { s.pwr with updN := s.pwr.updN + 1 } } else s)

/-- UNIT_IDLE_GATE (R350): UPD, or COD. -/
def execUnitIdleGate (cod : Bool) (s : State) : Out :=
  .next (
    if s.boot ≠ .alive ∨ s.power ≠ 0 then s
    else if cod then (if s.snp.active then s else { s with pwr := { s.pwr with codGated := true } })
    else if s.upd.units.all (fun u => u.cur.isNone) then { s with pwr := { s.pwr with updGated := true } } else s)

end Sys2Proof.Machine
end

