-- ==== Sys2Proof/Machine/Security.lean ====
section
/-!
DEFINITION. Sys2Proof/Machine/Security.lean: the nonvolatile store, security states, presence, tamper, zeroisation, firmware,
debug and calibration (13).
-/
namespace Sys2Proof.Machine

/-! ## The security record (R366) -/

/-- The writer of the record in an AON cycle. -/
def State.recordStep (s : State) : State := if s.sec.recPend && s.alive && !s.mcHalted then s.writeRecord else s

/-! ## States -/

/-- Change the security state; cause 0 command, 1 presence, 2 tamper, 3 record lost, 4 tamper cell (code 0x0601). -/
def State.setSecurity (s : State) (new cause : Nat) : State :=
  if s.security = new then s
  else ((s.setFld secStateState 0 new).irq mgtIrqPendSec).logEv 0x0601 12 0 (s.security + 4 * new + 16 * cause)

/-- Change the debug level with its interrupt (Table 15.8). -/
def State.setDebug (s : State) (l : Nat) : State :=
  if s.debugLevel = l then s else (s.setFld dbgStatusLevel 0 l).irq mgtIrqPendDebug

/-- RESULT of a command (Table 13.16) with its event 0x0605. -/
def State.cmdResult (s : State) (code : Nat) (pres : Bool) (r : Nat) : State :=
  let s := ((s.setFld secCmdstatCode 0 code).setFlag secCmdstatPresenceCmd 0 pres).setFld secCmdstatResult 0 r
  (s.irq mgtIrqPendSec).logEv 0x0605 12 0 (code + (if pres then 16 else 0) + 32 * r)

/-- The command in progress ends with result r: BUSY and PCMD.CODE fall, requests that waited are acted on. -/
def State.endCmd (s : State) (c : SecCmd) (r : Nat) : State :=
  let s := (s.setFld secStateBusy 0 0).setFld secPcmdCode 0 0
  (({ s with sec := { s.sec with cmd := none } } : State).cmdResult c.code c.presence r).wakeWaiting

/-! ## Zeroisation (R376, R377) -/

/-- CFG.REGION1 to CFG.REGION6: base and size in 64 MiB. -/
def State.regionList (s : State) : List (Nat × Nat) :=
  (List.range 6).map fun i => (s.fld cfgRegionBase (i + 1), s.fld cfgRegionSize (i + 1))

/-- The zeroisation ended: ZDONE, and Open after UNSEAL (R376, Table 13.3). -/
def State.zeroEnd (s : State) (thenOpen : Bool) : State :=
  let s := s.setFld secStateZdone 0 1
  if thenOpen then ((s.setSecurity secOpen 1).queueRecord) else s

/-- The memory step of a zeroisation is under way or pending. -/
def State.zeroOwed (s : State) : Bool := s.flag secStateZpend 0 || match s.sec.zero with | some z => z.mem | none => false

/-- What a zeroisation is to clear: the regions as they stand, or those of one whose memory step has not ended (R376). -/
def State.zeroMapNow (s : State) : ZeroMap := if s.zeroOwed then s.sec.zeroMap else ⟨s.regionList, s.capGib⟩

/-- Zeroisation: stop, isolate, unload and clear SRAM at once; the memory step ends at ZEROISE_DONE, or stays pending when the
MEM domain has no power (R376, R377). One that begins in another's memory step takes it over. -/
def State.zeroise (s : State) (thenOpen : Bool) : State :=
  let mem := s.flag secPolicyZeroMem 0 || s.zeroOwed
  let map := s.zeroMapNow
  let lock := fun (t : State) => if thenOpen then t else t.portsDark.ringBypass true
  let st := s.power
  if st ≤ 1 then
    let s := s.cutWrites
    let s : State := { lock s.logicReset with sec := { s.sec with zero := some ⟨mem, thenOpen⟩, zeroMap := map } }
    let s : State := { s with pwr := { s.pwr with trans := none, mcPreempted := [] } }
    if s.fld pwrStatusState 0 = 0 then s else (s.setFld pwrStatusMcPreempt 0 0).arrive 0
  else
    let s := if st = 2 then s.enterHibernate.arrive 3 else s
    let s := lock { s with sec := { s.sec with zeroMap := map } }
    if mem then
      let s := (s.setFld secStateZpend 0 1).queueRecord
      if thenOpen then s.setSecurity secOpen 1 else s
    else s.zeroEnd thenOpen

/-- ZEROISE_DONE (R376, R377). -/
def execZeroiseDone (s : State) : Out :=
  .next (
    match s.sec.zero with
    | none => s
    | some z =>
      let s := { s with sec := { s.sec with zero := none } }
      let s := if z.mem then { s.clearMap s.sec.zeroMap with snp := {}, sec := { s.sec with zeroMap := {} } } else s
      let s := if s.flag secStateZpend 0 then { s.setFld secStateZpend 0 0 with sec := { s.sec with recPend := true } } else s
      let s := s.zeroEnd z.thenOpen
      if z.thenOpen then s.bringUpAll else s)

/-- Entry to Lockdown: debug level None, the record, zeroisation (Table 13.3, R383). -/
def State.lockdown (s : State) (cause : Nat) : State := (((s.setSecurity secLockdown cause).setDebug 0).zeroise false).queueRecord

/-! ## Commands without presence (Table 13.14, R372) -/

/-- Start a command that needs a store write. -/
def State.startCmd (s : State) (c : SecCmd) : State := { s.setFld secStateBusy 0 1 with sec := { s.sec with cmd := some c } }

/-- A write of SEC.CMD with CODE and ARG. -/
def State.effSecCmd (s : State) (code arg : Nat) : State :=
  if s.flag secStateBusy 0 then s.cmdResult code false 6
  else if code < 1 ∨ 4 < code then s
  else if code = 1 then
    if s.security = secLockdown then s.cmdResult 1 false 2 else (s.cmdResult 1 false 1).lockdown 0
  else if code = 2 then
    if s.security ≠ secLockdown ∧ s.fld pwrStatusState 0 = 0 ∧ s.admState = admUnloaded then s.startCmd ⟨2, false, arg⟩
    else s.cmdResult 2 false 2
  else if code = 3 then s.startCmd ⟨3, false, arg⟩
  else ({ s with sec := { s.sec with calStage := if s.calDefaults then [] else s.sec.calLive } } : State).cmdResult 4 false 1

/-- LOCKDOWN (R369). -/
def execLockdown (src : Src) (s : State) : Out := .next (s.gate src .secCmd 0 fun s => s.effSecCmd 1 0)

/-- INSTALL (R381). -/
def execInstall (arg : Nat) (src : Src) (s : State) : Out := .next (s.gate src .secCmd 0 fun s => s.effSecCmd 2 arg)

/-- FEED_STRICT (R373). -/
def execFeedStrict (src : Src) (s : State) : Out := .next (s.gate src .secCmd 0 fun s => s.effSecCmd 3 0)

/-- CAL_DISCARD (R389). -/
def execCalDiscard (src : Src) (s : State) : Out := .next (s.gate src .secCmd 0 fun s => s.effSecCmd 4 0)

/-! ## Presence commands (R371, R372) -/

/-- Whether a presence command is allowed in a security state (Table 13.4). -/
def presAllowed (code st : Nat) : Bool :=
  if code = 1 then st == secOpen
  else if code = 2 then st != secOpen
  else st != secLockdown

/-- A write of SEC.PCMD with CODE and ARG: RWP (R371, R439); CODE reads the command in progress. -/
def State.effPcmd (s : State) (code arg : Nat) : State :=
  let without := !s.flag secStatePresence 0
  let s := if without && !(code == s.fld secPcmdCode 0 && arg == s.fld secPcmdArg 0) then
    (s.bump mgtCperrLocked 0 1).logEv 0x0201 12 0 (regAddr .secPcmd 0) else s
  if s.flag secStateBusy 0 then s.cmdResult code true 6
  else if without then s
  else
    let s := s.setFld secPcmdArg 0 arg
    if code < 1 ∨ 5 < code then s
    else if presAllowed code s.security then (s.setFld secPcmdCode 0 code).startCmd ⟨code, true, arg⟩
    else s.cmdResult code true 2

/-- SEAL (R369). -/
def execSeal (src : Src) (s : State) : Out := .next (s.gate src .secPcmd 0 fun s => s.effPcmd 1 (s.fld secPcmdArg 0))

/-- UNSEAL (R369). -/
def execUnseal (src : Src) (s : State) : Out := .next (s.gate src .secPcmd 0 fun s => s.effPcmd 2 (s.fld secPcmdArg 0))

/-- CAL_WRITE (R389). -/
def execCalWrite (src : Src) (s : State) : Out := .next (s.gate src .secPcmd 0 fun s => s.effPcmd 3 (s.fld secPcmdArg 0))

/-- FEED_SHARE (R373). -/
def execFeedShare (src : Src) (s : State) : Out := .next (s.gate src .secPcmd 0 fun s => s.effPcmd 4 (s.fld secPcmdArg 0))

/-- ROLLBACK (R382). -/
def execRollback (arg : Nat) (src : Src) (s : State) : Out := .next (s.gate src .secPcmd 0 fun s => s.effPcmd 5 arg)

/-! ## Firmware (R378 to R382) -/

/-- Install a patch (R381, R382): RESULT 1, or 4 or 5 where the check fails. -/
def State.installPatch (s : State) (p : Patch) (rollback : Bool) : State × Nat :=
  if !(patchVerifies p) then (s, 4)
  else if !s.patchAllowed p rollback then (s, 5)
  else
    let m := if rollback then p.version else max (s.fld secFwFwMin 0) p.minAfter
    (((s.writePatch p).setFld secFwFwMin 0 m).writeRecord, 1)

/-- Bytes of a calibration set, from word index a, n words. -/
def calBytes (c : Cells Word) (a n : Nat) : List Byte :=
  (List.range n).flatMap fun i => toBytesLE 8 (cellGet (fun _ => 0) c (a + i)).toNat

/-- The digest of bytes 0x0040 to 0xFFFF (Table 13.10). -/
def calDigest (c : Cells Word) : List Byte := sha384 (calBytes c 8 8184)

/-- The write count in a set's header: bytes 8 to 15 (log entry 24). -/
def calCount (c : Cells Word) : Nat := (cellGet (fun _ => 0) c 1).toNat

/-- A set with its write count and digest replaced: bytes 8 to 15 and 16 to 63 (R389, log entry 24). -/
def calStamp (c : Cells Word) (count : Nat) (digest : List Byte) : Cells Word :=
  let c := cellSet (fun _ => 0) c 1 (BitVec.ofNat 64 count)
  (List.range 6).foldl (fun c i => cellSet (fun _ => 0) c (2 + i) (BitVec.ofNat 64 (bytesLE ((digest.drop (8 * i)).take 8)))) c

/-- CAL_WRITE's four steps (R389). -/
def State.calWrite (s : State) : State :=
  let n := min (calCount s.sec.calStore + 1) 65535
  let c := calStamp s.sec.calStage n (calDigest s.sec.calStage)
  let s := { s with sec := { s.sec with calStore := c, calStage := c, calIntr := false } }
  ((s.setFld calStatusLost 0 0).setFld calStatusCause 0 0).setFld calStatusWrites 0 n

/-- SECURITY_COMMAND_END (R371, R372): the store write commits. Presence commands and INSTALL wait for a halted controller
(R386). -/
def execSecurityCommandEnd (s : State) : Out :=
  .next (
    match s.sec.cmd with
    | none => s
    | some c =>
      if s.mcHalted then s
      else if c.presence then
        if c.code = 1 then ((s.setSecurity secSealed 1).setDebug 0).writeRecord.endCmd c 1
        else if c.code = 2 then
          let s := { s.setFld secTamperCell 0 0 with sec := { s.sec with tamperCell := false } }
          ((s.zeroise true).writeRecord).endCmd c 1
        else if c.code = 3 then s.calWrite.endCmd c 1
        else if c.code = 4 then (s.setFld secPolicySharedFeed 0 1).writeRecord.endCmd c 1
        else let (s, r) := s.installPatch (s.readPatch c.arg) true; s.endCmd c r
      else if c.code = 2 then let (s, r) := s.installPatch (s.readPatch c.arg) false; s.endCmd c r
      else (s.setFld secPolicySharedFeed 0 0).writeRecord.endCmd c 1)

/-- FIRMWARE_VERIFY_END (R380). -/
def execFirmwareVerifyEnd (s : State) : Out :=
  .next (
    if s.boot ≠ .rom then s
    else
      let s := ({ s with boot := .firmware } : State).setFld secFwSlotWrites 0 s.sec.slotWrites
      let fm := s.sec.fwMinNow
      let ver := match s.sec.slot with | some p => p.version | none => 0
      let cause := match s.sec.slot with
        | none => 1
        | some p => if s.sec.slotBad || !(patchHeaderOk p) then 1 else if !(patchVerifies p) then 2 else if p.version < fm then 3 else 0
      if cause = 0 then ((s.setFld secFwActiveVer 0 ver).setFld secFwSource 0 0).setFld secFwFailCause 0 0
      else (((s.setFld secFwActiveVer 0 0).setFld secFwSource 0 1).setFld secFwFailCause 0 cause).logEv 0x0603 12 0 (cause + 8 * ver))

/-- Load of the security record and the tamper cell (R366, R375, Table 13.3). -/
def State.loadSecurity (s : State) : State :=
  let s := match s.sec.record with
    | some r =>
      let s := ((s.setFld secStateState 0 r.state).setFld secFwFwMin 0 r.fwMin).setFlag secPolicySharedFeed 0 r.sharedFeed
      (s.setFlag secPolicyZeroMem 0 r.zeroMem).setFlag secStateZpend 0 r.zpend
    | none => (((s.setFld secFwFwMin 0 0xFFFF).setFld secStateRecLost 0 1).setSecurity secLockdown 3).queueRecord
  if s.sec.tamperCell then
    let s := s.setFld secTamperCell 0 1
    let s := if s.flag secPolicyZeroMem 0 then s.setFld secStateZpend 0 1 else s
    (s.setSecurity secLockdown 4).queueRecord
  else s

/-- Load of the calibration set (R387, R388): valid, or lost with its cause. -/
def State.loadCalibration (s : State) : State :=
  let c := s.sec.calStore
  let h := (cellGet (fun _ => 0) c 0).toNat
  let cause :=
    if s.sec.calIntr then 2
    else if h % 2 ^ 32 ≠ 0x4C41435A ∨ Config.calFormatOk (h / 2 ^ 32) = false then 3
    else if calDigest c ≠ calBytes c 2 6 then 1
    else 0
  if cause = 0 then
    let s := { s with sec := { s.sec with calLive := c, calStage := c } }
    (s.setFld calStatusValid 0 1).setFld calStatusWrites 0 (min (calCount c) 65535)
  else
    let s := { s with sec := { s.sec with calLive := c, calStage := [] } }
    let s := ((s.setFld calStatusLost 0 1).setFld calStatusCause 0 cause).setFld calStatusWrites 0 (min (calCount c) 65535)
    s.clusterList.foldl (fun s i => s.setFld pwrClkF i (s.readF (s.clkF i))) (s.logEv 0x0604 13 0 cause)

/-- CALIBRATION_LOAD (R362, R366, R387): the end of the controller's boot; STATE reads HIBERNATE and CP_ALIVE rises. -/
def execCalibrationLoad (s : State) : Out :=
  .next (if s.boot ≠ .firmware then s else ({ s.loadSecurity with boot := .alive } : State).loadCalibration)

/-! ## Presence and tamper (R370, R374) -/

/-- PRESENCE_ASSERT (R370): 10 ms of AON time, so never under a held reset, and again after one (log entry 91). -/
def execPresenceAssert (s : State) : Out := .next (if s.aonRuns then s.setFld secStatePresence 0 1 else s)

/-- PRESENCE_RELEASE (R370, R371): a presence command that has not committed aborts. -/
def execPresenceRelease (s : State) : Out :=
  let s := s.setFld secStatePresence 0 0
  .next (
    match s.sec.cmd with
    | some c => if c.presence then s.endCmd c 3 else s
    | none => s)

/-- The engine is Sealed: by SEC.STATE, and by the security record before start-up has loaded it (R366, R374). -/
def State.sealedNow (s : State) : Bool :=
  if s.alive then decide (s.security = secSealed) else match s.sec.record with | some r => decide (r.state = secSealed) | none => false

/-- TAMPER (R374): in every power state but Off. During start-up, and while RESET_N is held, Lockdown comes with the tamper cell at
the load of the record (Table 13.3). -/
def execTamper (s : State) : Out :=
  .next (
    if s.boot = .porHeld then s
    else
      let s := ((s.setOnce secTamperSeen 0 mgtIrqPendSec).bump secTamperCount 0 1).setFld secTamperLevel 0 1
      let s := s.logEv 0x0602 12 0 (s.fld secTamperCount 0)
      let s := match s.sec.cmd with | some c => s.endCmd c 7 | none => s
      if !s.sealedNow then s
      else
        let s : State := { s with sec := { s.sec with tamperCell := true } }
        if s.alive then (s.setFld secTamperCell 0 1).lockdown 2 else s)

end Sys2Proof.Machine
end

