-- ==== Sys2Proof/Machine/Debug.lean ====
section
/-!
DEFINITION. Sys2Proof/Machine/Debug.lean: debug requests, the halted controller, the TAP (13 section 13.6).
-/
namespace Sys2Proof.Machine

/-! ## Debug (R383 to R386) -/

/-- Whether a debug request is granted (Table 13.7); a request for a lower level, and one for None, always is (R383). -/
def State.debugGrant (s : State) (l : Nat) (tap : Bool) : Bool :=
  if l = 0 ∨ l < s.debugLevel then true
  else if s.security = secOpen then true
  else if s.security = secLockdown then false
  else if l = 1 then !tap
  else s.flag secStatePresence 0

/-- A write of DBG.CTRL.REQ (R383); 3 is discarded. -/
def State.effDebugReq (s : State) (l : Nat) (tap : Bool) : State :=
  if l = 3 then s
  else
    let s := s.setFld dbgCtrlReq 0 l
    let arg := l + (if tap then 4 else 0)
    if s.debugGrant l tap then
      let s := if l = 2 then s.bump dbgStatusGrants 0 1 else s
      (s.setDebug l).logEv 0x0606 12 0 arg
    else s.dbgRefuse.logEv 0x0208 12 0 arg

/-- DEBUG_REQUEST (R383). -/
def execDebugRequest (level : Nat) (src : Src) (s : State) : Out :=
  .next (s.gate src .dbgCtrl 0 fun s => s.effDebugReq (level % 4) (src == .tap))

/-- A write of DBG.CTRL.MC_HALT, acted on only at Intrusive (Table 13.20, R386); a chain head that held its Chain goes on with it. -/
def State.effMcHalt (s : State) (halt : Bool) : State :=
  let s := s.setFlag dbgCtrlMcHalt 0 halt
  if s.debugLevel ≠ 2 then s
  else
    let s := if halt && !s.thermalOn then s.irq mgtIrqPendTherm else s
    let s := s.setFlag dbgStatusMcHalted 0 halt
    if halt then s.applyCaps else ({ s with pwr := { s.pwr with comparator := false } } : State).wakeWaiting.headResume

/-- MC_HALT (R386): from the TAP only in set I. -/
def execMcHalt (halt : Bool) (src : Src) (s : State) : Out :=
  .next (s.gate src .dbgCtrl 0 fun s => if src = .tap ∧ s.debugLevel < 2 then s.dbgRefuse.cperrState else s.effMcHalt halt)

/-- One instruction of the halted controller (R391); what it does is open. -/
def State.effMcStep (s : State) : State :=
  if s.mcHalted && decide (s.debugLevel = 2) then { s with mcState := Config.mcStep s.mcState } else s

/-- MC_STEP (R391). -/
def execMcStep (src : Src) (s : State) : Out :=
  .next (s.gate src .dbgCtrl 0 fun s => if src = .tap ∧ s.debugLevel < 2 then s.dbgRefuse.cperrState else s.effMcStep)

/-- Whether the TAP has set T (Tables 13.8 and 13.9). -/
def State.tapSetT (s : State) : Bool :=
  decide (s.security = secOpen) && decide (s.debugLevel = 2) && decide (s.power = 0) && decide (s.admState = admUnloaded)

/-- IDCODE (R411). -/
def State.idcode (s : State) : Word :=
  BitVec.ofNat 64 (1 + 2 * Config.manufacturer.toNat + 2 ^ 12 * Config.part s.conf + 2 ^ 28 * (Config.rev % 16))

/-- An operation of set T: what the scanned logic holds afterwards is open, and admission needs a cold reset (R385, log entry 25). -/
def State.scanLogic (s : State) (op : ScanOp) : State :=
  if !s.alive then s
  else if s.tapSetT then { s.setFld dbgStatusScanned 0 1 with free := s.free + 1, tap := { s.tap with instr := op } }
  else s.dbgRefuse

/-- SCAN (R384, R385): set N holds BYPASS, IDCODE and SAMPLE whenever the engine has power; the pins that SAMPLE captures are open (log entry
157). -/
def execScan (op : ScanOp) (s : State) : Out :=
  .next (
    if s.boot = .porHeld then s
    else match op with
    | .bypass => { s with tap := ⟨.bypass, 0⟩ }
    | .idcode => { s with tap := ⟨.idcode, s.idcode⟩ }
    | .sample => let (w, s) := s.draw 64; { s with tap := ⟨.sample, BitVec.ofNat 64 w⟩ }
    | .scan | .extest | .wrapper => s.scanLogic op)

end Sys2Proof.Machine
end

