-- ==== Sys2Proof/Machine/Fec.lean ====
section
/-!
DEFINITION. Sys2Proof/Machine/Fec.lean: forward error correction on a Furlong port (R246, R247): the field, both codes, the codewords of a
frame, the lanes, and what the decoder makes of symbols received in error. The field polynomial x^10 + x^3 + 1 and the generator are those
of IEEE 802.3 clause 91 (log entry 131).
-/
namespace Sys2Proof.Machine

/-- Doubling in GF(2^10). -/
def gf10Double (a : Nat) : Nat := if a.testBit 9 then (2 * a) ^^^ 0x409 else 2 * a

/-- Multiplication in GF(2^10), bit by bit of b from the least significant on. -/
def gf10MulAux : Nat → Nat → Nat → Nat
  | 0, _, _ => 0
  | n + 1, a, b => (if b % 2 = 1 then a else 0) ^^^ gf10MulAux n (gf10Double a) (b / 2)

def gf10Mul (a b : Nat) : Nat := gf10MulAux 10 a b

/-- The powers of α = 2. -/
def gf10Alpha : Nat → Nat
  | 0 => 1
  | k + 1 => gf10Double (gf10Alpha k)

/-- The generator with the roots α^0 to α^(n-1): coefficients from the highest on. -/
def rsGen : Nat → List Nat
  | 0 => [1]
  | n + 1 => let g := rsGen n; (g ++ [0]).zipWith (· ^^^ ·) (0 :: g.map (gf10Mul (gf10Alpha n)))

/-- One step of the division by the generator. -/
def rsStep (gen : List Nat) (reg : List Nat) (m : Nat) : List Nat :=
  let f := m ^^^ reg.headD 0
  (reg.tail ++ [0]).zipWith (· ^^^ ·) (gen.tail.map (gf10Mul f))

/-- A codeword: the message symbols and n check symbols. -/
def rsEncode (n : Nat) (msg : List Nat) : List Nat := msg ++ msg.foldl (rsStep (rsGen n)) (List.replicate n 0)

/-- Whether FUR.CFG gives port n the light mode. -/
def State.lightFec (s : State) (n : Nat) : Bool := s.flag furCfgFec n

/-- Codewords of a frame, check symbols of one, and the symbols that a decoder corrects (R246, R247). -/
def fecWords (light : Bool) : Nat := if light then 16 else 8
def fecChecks (light : Bool) : Nat := if light then 15 else 30
def fecReach (light : Bool) : Nat := if light then 7 else 15

/-- The message symbols of codeword k: its data bytes, then its control bits, in symbols of 10 bits from the least significant on. -/
def fecMessage (light : Bool) (f : Frame) (k : Nat) : List Nat :=
  let n := 5120 / fecWords light
  let m := 160 / fecWords light
  let x := bytesLE ((f.data.drop (n * k)).take n) + 2 ^ (8 * n) * bitsOf f.control (m * k) m
  (List.range ((8 * n + m) / 10)).map fun i => x / 2 ^ (10 * i) % 1024

/-- The codewords of a frame as they leave the encoder. -/
def fecEncode (light : Bool) (f : Frame) : List (List Nat) :=
  (List.range (fecWords light)).map fun k => rsEncode (fecChecks light) (fecMessage light f k)

/-- The symbols of each of the 8 lanes: dealt to lanes 0 to 7 in turn. -/
def fecLanes (light : Bool) (f : Frame) : List (List Nat) :=
  let all := indexed (fecEncode light f).flatten
  (List.range 8).map fun l => (all.filter fun x => x.2 % 8 == l).map (·.1)

/-- What a port's transmit pins carry. -/
def State.lines (s : State) (n : Nat) : List (List (List Nat)) := (s.fur.getD n {}).txOut.map (fecLanes (s.lightFec n))

/-- The symbols of codeword k that came in error. -/
def fecErrors (f : Frame) (k : Nat) : Nat :=
  (((f.errors.filter fun e => e.1 == k && e.2.2 % 1024 != 0).map fun e => e.2.1).eraseDups).length

/-- Symbols that the decoder corrects in a frame, and codewords beyond it. -/
def fecCorrected (light : Bool) (f : Frame) : Nat :=
  ((List.range (fecWords light)).map fun k => if fecErrors f k ≤ fecReach light then fecErrors f k else 0).foldl (· + ·) 0
def fecUncorrectable (light : Bool) (f : Frame) : Nat :=
  ((List.range (fecWords light)).filter fun k => decide (fecReach light < fecErrors f k)).length

end Sys2Proof.Machine
end

