-- ==== Sys2Proof/Machine/Packing.lean ====
section
/-!
DEFINITION. Sys2Proof/Machine/Packing.lean: Furlong frames (R247, R248, Table 9.3), and the engine's own messages as the frames that
carry them (R247, R255, R258, Table 9.5). What the spec leaves open of it is in log entry 132.
-/
namespace Sys2Proof.Machine

/-! ## Frames (R247, R248, Table 9.3) -/

/-- Replace bits lo to lo + n - 1 of control bits. -/
def putBits (c : BitVec 160) (lo n v : Nat) : BitVec 160 :=
  (c &&& ~~~ BitVec.ofNat 160 ((2 ^ n - 1) * 2 ^ lo)) ||| BitVec.ofNat 160 (v % 2 ^ n * 2 ^ lo)

def frDest (f : Frame) : Nat := bitsOf f.control 0 10
def frVc (f : Frame) : Nat := bitsOf f.control 10 2
def frKind (f : Frame) : Nat := bitsOf f.control 12 5
def frIdle (f : Frame) : Bool := f.control.getLsbD 17
def frLast (f : Frame) : Bool := f.control.getLsbD 18
def frSeq (f : Frame) : Nat := bitsOf f.control 20 12
def frAck (f : Frame) : Nat := bitsOf f.control 32 12
def frAckValid (f : Frame) : Bool := f.control.getLsbD 44
def frNak (f : Frame) : Bool := f.control.getLsbD 45
def frCreditVc (f : Frame) : Nat := bitsOf f.control 46 2
def frCredit (f : Frame) : Nat := bitsOf f.control 48 6
def frSrc (f : Frame) : Nat := bitsOf f.control 54 10
def frStream (f : Frame) : Nat := bitsOf f.control 64 17
def frOffset (f : Frame) : Nat := bitsOf f.control 81 4
def frLen (f : Frame) : Nat := bitsOf f.control 85 13
def frVtag (f : Frame) : Nat := bitsOf f.control 98 16
def frCrc (f : Frame) : Nat := bitsOf f.control 128 32

/-- The CRC-32 of control bits [127:0] and the data bytes (R248). -/
def frameCrc (c : BitVec 160) (d : List Byte) : Nat := crc32 (toBytesLE 16 (c.toNat % 2 ^ 128) ++ d)

/-- A frame with its CRC. -/
def sealFrame (c : BitVec 160) (d : List Byte) : Frame := ⟨putBits c 128 32 (frameCrc c d), d, []⟩

/-- A frame with the complement of its CRC: a stomp (R248). -/
def stompFrame (c : BitVec 160) (d : List Byte) : Frame := ⟨putBits c 128 32 (2 ^ 32 - 1 - frameCrc c d), d, []⟩

/-- A frame fails when its CRC disagrees or a codeword is uncorrectable (R248). -/
def frFailed (light : Bool) (f : Frame) : Bool := decide (0 < fecUncorrectable light f) || frCrc f != frameCrc f.control f.data

/-- A stomp: the complement of the correct CRC (R248). -/
def frStomp (light : Bool) (f : Frame) : Bool :=
  decide (fecUncorrectable light f = 0) && frCrc f == 2 ^ 32 - 1 - frameCrc f.control f.data

/-- The VCs a kind may travel on (Table 9.5). -/
def kindVcs (kind : Nat) : List Nat :=
  match kind with
  | 0 | 3 | 4 => [1, 2]
  | 1 | 2 | 12 => [2]
  | 5 | 6 | 7 | 8 | 9 | 10 | 11 | 13 => [0]
  | 14 | 15 => [3]
  | _ => []

/-! ## Messages (R247, Table 9.5) -/

/-- A message on its way into frames: the destinations, each with the port it leaves on, and KIND, VC, VTAG, the slot that its frames
name on VC1, the header that each message begins with, and the body. -/
structure OutMsg where
  dests : List (Nat × Option Nat)
  kind : Nat
  vc : Nat
  vtag : Nat := 0
  slot : Option Nat := none
  head : List Byte := []
  body : List Byte
deriving DecidableEq, Repr

/-- The access header of a remote access: PART, the descriptor position and the element count, in 32 bytes (R247). -/
def accessHeader (part desc count : Nat) : List Byte :=
  toBytesLE 4 part ++ toBytesLE 4 desc ++ toBytesLE 4 count ++ List.replicate 20 0

/-- The broadcast tree of the image: this engine's children, and its parent (R255). -/
def State.treeChildren (s : State) : List Nat :=
  match s.image with
  | some i => (i.links.tree.filter fun e => e.2 == s.rank && e.1 != s.rank).map (·.1)
  | none => []
def State.treeParent (s : State) : Option Nat :=
  match s.image with
  | some i => (i.links.tree.find? fun e => e.1 == s.rank && e.2 != s.rank).map (·.2)
  | none => none

/-- A rank with the port that this engine's frames for it leave on. -/
def State.away (s : State) (r : Nat) : Nat × Option Nat := (r, s.ownRoute r)

/-- To the chain head, along the reverse of the broadcast tree (R255). -/
def State.towardsHead (s : State) : List (Nat × Option Nat) :=
  [(0, match s.treeParent with | some p => s.ownRoute p | none => s.ownRoute 0)]

/-- From the chain head to all: to the next engines of the broadcast tree, which send it on (R255). -/
def State.downTree (s : State) : List (Nat × Option Nat) := s.treeChildren.map s.away

/-- To every engine of the Chain. -/
def State.everyone (s : State) : List (Nat × Option Nat) := (List.range s.chainSize).map s.away

/-- The reduction slot that tracks a segment (R258). -/
def segSlot (c : Collective) (g : Segment) : Nat := c.slotBase + (g.first / segValues c.width) % max 1 c.slots

/-- Where and how a message travels (Tables 9.5 and 9.7). A hello is no frame (R273). -/
def State.outMsg (s : State) (m : NetMsg) : OutMsg :=
  let b := Config.msgBytes m
  match m with
  | .report _ => { dests := s.towardsHead, kind := 5, vc := 0, body := b }
  | .partialNorm _ _ => { dests := s.towardsHead, kind := 6, vc := 0, body := b }
  | .epoch _ => { dests := s.downTree, kind := 7, vc := 0, body := b }
  | .clip _ _ => { dests := s.downTree, kind := 8, vc := 0, body := b }
  | .prepare _ _ | .commit _ | .abort _ => { dests := s.downTree, kind := 9, vc := 0, body := b }
  | .refusedProposal r _ => { dests := [s.away r], kind := 9, vc := 0, body := b }
  | .proposal _ _ | .ack _ _ _ | .nak _ _ _ => { dests := s.towardsHead, kind := 9, vc := 0, body := b }
  | .halt _ _ => { dests := s.downTree, kind := 10, vc := 0, body := b }
  | .token r _ _ => { dests := [s.away r], kind := 11, vc := 0, body := b }
  | .segment p port g =>
    match s.collective g.coll with
    | none => { dests := [], kind := 0, vc := 1, body := b }
    | some c =>
      let red := collReduces c && g.stage != 200
      let r := c.ranks.getD p 0
      { dests := [(r, port.or (s.ownRoute r))], kind := 0, vc := if red then 1 else 2, slot := if red then some (segSlot c g) else none,
        body := b }
  | .readReq r q =>
    { dests := [s.away r], kind := 1, vc := 2, vtag := q.vtag, head := accessHeader q.part q.desc q.elems.length, body := b }
  | .readResp r q => { dests := [s.away r], kind := 2, vc := 2, head := accessHeader q.part q.desc q.items.length, body := b }
  | .writeReq r w =>
    { dests := [s.away r], kind := 3, vc := if w.add then 1 else 2, vtag := w.vtag, head := accessHeader w.part w.desc w.items.length,
      body := b }
  | .stale r _ desc part found vc => { dests := [s.away r], kind := 4, vc := vc, vtag := found, head := accessHeader part desc 0, body := b }
  | .block r _ _ _ _ _ => { dests := [s.away r], kind := 12, vc := 2, body := b }
  | .round (.done _ _) => { dests := s.towardsHead, kind := 13, vc := 0, body := b }
  | .round (.commit _) => { dests := s.downTree, kind := 13, vc := 0, body := b }
  | .mirror r _ => { dests := [s.away r], kind := 14, vc := 3, body := b }
  | .bushel r _ => { dests := [s.away r], kind := 15, vc := 3, body := b }
  | .snapDone _ _ _ _ _ | .scan _ _ _ | .phaseDone _ _ _ _ => { dests := [s.away 0], kind := 15, vc := 3, body := b }
  | .bushelAll _ | .seal _ _ _ | .abandon _ => { dests := s.everyone, kind := 15, vc := 3, body := b }
  | .weights rs _ ch _ =>
    let port := fun r => (ch.bind fun c => s.channelPort c.1 (some c.2) r).or (s.ownRoute r)
    { dests := rs.map fun r => (r, port r), kind := 0, vc := 2, body := b }
  | .layerMeas _ _ _ => { dests := s.dataPeers.map s.away, kind := 0, vc := 2, body := b }
  | .linkHello _ _ => { dests := [], kind := 0, vc := 0, body := b }

/-! ## Cutting a message into frames (R247) -/

/-- A body in pieces of n bytes; an empty one is one piece. -/
def bodyParts (n : Nat) (b : List Byte) : List (List Byte) :=
  if b.isEmpty then [[]] else (List.range ((b.length + n - 1) / n)).map fun k => (b.drop (n * k)).take n

/-- Control bits of a frame before the port's link fields. -/
def frameBits (dest src stream : Nat) (o : OutMsg) (offset len : Nat) (last : Bool) : BitVec 160 :=
  let c := putBits (putBits (putBits 0 0 10 dest) 10 2 o.vc) 12 5 o.kind
  let c := putBits (putBits (putBits c 18 1 (if last then 1 else 0)) 54 10 src) 64 17 stream
  putBits (putBits (putBits c 81 4 offset) 85 13 len) 98 16 o.vtag

/-- The frames of one message of at most 64 KiB. -/
def messageFrames (dest src stream : Nat) (o : OutMsg) (b : List Byte) : List Frame :=
  let ps := indexed (bodyParts 5120 b)
  ps.map fun p => ⟨frameBits dest src stream o p.2 p.1.length (decide (p.2 + 1 = ps.length)), p.1 ++ List.replicate (5120 - p.1.length) 0, []⟩

/-- The frames of a message join those that wait for a port: what does not fit 64 KiB in several messages, each with the header and a
transfer number of its own, or on VC1 with the slot (R247). -/
def State.packTo (s : State) (o : OutMsg) (dest port : Nat) : State :=
  (bodyParts (65536 - o.head.length) o.body).foldl (fun s b =>
    let stream := o.slot.getD (s.chain.transfers % 2 ^ 17)
    let fs := messageFrames dest s.rank stream o (o.head ++ b)
    let s : State := { s with fur := s.fur.modify port fun p => { p with inject := p.inject ++ fs } }
    { s with chain := { s.chain with transfers := s.chain.transfers + 1 } }) s

/-- A message joins the frames that wait; none for this engine itself, and none without a route. -/
def State.packMsg (s : State) (m : NetMsg) : State :=
  let o := s.outMsg m
  o.dests.foldl (fun s d => if d.1 = s.rank then s else match d.2 with | some n => s.packTo o d.1 n | none => s) s

/-- Cut the messages that have not been cut yet. -/
def State.packAll (s : State) : State :=
  let s' := (s.chain.sent.drop s.chain.packed).foldl State.packMsg s
  { s' with chain := { s'.chain with packed := s.chain.sent.length } }

end Sys2Proof.Machine
end

