-- ==== Sys2Proof/Machine/Links.lean ====
section
/-!
DEFINITION. Sys2Proof/Machine/Links.lean: the Furlong ports (09 sections 9.3, 9.4, 9.9, 9.10): go-back-N retry, credits, delivery,
pass-through, arbitration, bring-up, the ring bypass and retimer, retrains.
-/
namespace Sys2Proof.Machine

/-! ## Outgoing frames -/

/-- The link fields of an outgoing frame: ACK of the last SEQ accepted, NAK, a returned credit. -/
def PortSt.linkFields (p : PortSt) (nak : Bool) (vc credit : Nat) (c : BitVec 160) : BitVec 160 :=
  let c := putBits (putBits c 32 12 (p.rxExpect + 4095)) 44 1 1
  putBits (putBits (putBits c 45 1 (if nak then 1 else 0)) 46 2 vc) 48 6 credit

/-- An IDLE frame. -/
def PortSt.idle (p : PortSt) (nak : Bool) (vc credit : Nat) : Frame :=
  sealFrame (p.linkFields nak vc credit (putBits (putBits 0 17 1 1) 20 12 p.txSeq)) (List.replicate 5120 0)

/-- Send an acknowledgement, a NAK or a credit in an IDLE frame; any of them acknowledges (R249). -/
def State.sendIdle (s : State) (n : Nat) (nak : Bool) (vc credit : Nat) : State :=
  let s := s.modPort n fun p => { p with txOut := p.txOut ++ [p.idle nak vc credit], sinceAck := 0 }
  if nak then s.bump furRetryNakTx n 1 else s

/-- Send everything unacknowledged again, marked RETRY (R249). -/
def State.replayAll (s : State) (n : Nat) : State :=
  let k := (s.port n).replay.length
  let s := s.modPort n fun p => { p with
    txOut := p.txOut ++ p.replay.map fun f => sealFrame (p.linkFields false 0 0 (putBits f.control 19 1 1)) f.data }
  if k = 0 then s else s.bump furRetryReplays n k

/-- Drop the frames up to and including SEQ a from a replay buffer; a SEQ that is not in it drops none. -/
def dropAcked (l : List Frame) (a : Nat) : List Frame :=
  if l.any fun f => frSeq f == a then (l.dropWhile fun f => frSeq f != a).tail else l

/-! ## Retrains (R250, R276, R277) -/

/-- A retrain of a port that is UP starts; more than three within 10 ms make it FAILED (R276, R277). -/
def State.startRetrain (s : State) (n : Nat) : State :=
  let ts := ((s.port n).retrainTimes.filter fun t => decide (s.time < t + 1000000)) ++ [s.time]
  let s := (s.modPort n fun p => { p with retrainTimes := ts, sameFail := 0 }).bump furLinkRetrains n 1
  if 3 < ts.length then s.linkDownFault n 9 else s.setFld furLinkState n linkRetrain

/-- The ports serve traffic: in Run and Doze (Table 12.9). -/
def State.linkOn (s : State) (n : Nat) : Bool := s.alive && decide (s.power ≤ 1) && decide (n < Config.fports s.conf)

/-- Port n is UP and serves traffic. -/
def State.portUp (s : State) (n : Nat) : Bool := s.linkOn n && s.linkState n == linkUp

/-! ## Credits and sending (R249, R251) -/

/-- The port may send new frames: UP, with room in the replay buffer (R249). -/
def State.maySend (s : State) (m : Nat) : Bool := s.portUp m && decide ((s.port m).replay.length < 64)

/-- Whether a frame in transit may leave on port m: a credit of its VC, and m may send (R251). -/
def State.mayLeave (s : State) (m : Nat) (f : Frame) : Bool := s.maySend m && decide (0 < (s.port m).credits.getD (frVc f) 0)

/-- The control bits with which a frame leaves port p: its link fields are the port's own. -/
def PortSt.outBits (p : PortSt) (f : Frame) : BitVec 160 := p.linkFields false 0 0 (putBits (putBits f.control 20 12 p.txSeq) 19 1 0)

/-- Count a frame sent (Table 9.24). -/
def State.countTx (s : State) (m : Nat) : State := s.setFld furPerfTxFrames m ((s.fld furPerfTxFrames m + 1) % 2 ^ 32)

/-- Send a frame on port m; it consumes a credit (R251). -/
def State.transmit (s : State) (m : Nat) (f : Frame) : State :=
  let s := s.modPort m fun p =>
    let g := sealFrame (p.outBits f) f.data
    { p with
      txSeq := (p.txSeq + 1) % 4096
      replay := p.replay ++ [g]
      txOut := p.txOut ++ [g]
      credits := p.credits.modify (frVc f) (· - 1)
      sinceAck := 0 }
  s.countTx m

/-- A frame whose forwarding had begun proves failed on its inbound link: a stomp leaves, which no replay repeats (R248). -/
def State.stomp (s : State) (m : Nat) (f : Frame) : State :=
  (s.modPort m fun p => { p with txOut := p.txOut ++ [stompFrame (p.outBits f) f.data], sinceAck := 0 }).countTx m

/-! ## FRAME_RECEIVE (R248, R249, R251, R253) -/

/-- What FEC found (Table 9.22). -/
def State.countFec (s : State) (n : Nat) (f : Frame) : State :=
  let c := fecCorrected (s.lightFec n) f
  let u := fecUncorrectable (s.lightFec n) f
  let s := if c = 0 then s else s.bump furFecCorrSym n c
  if u = 0 then s else s.bump furFecUncorrCw n u

/-- A failed frame: counted, NAKed; the 16th failure of one SEQ in a row starts a retrain (R248 to R250). SEQ is read as it came, and another
SEQ's failure begins a new run (DESIGN CHOICE, log entry 155). -/
def State.frameFails (s : State) (n : Nat) (f : Frame) : State :=
  let light := s.lightFec n
  let s := if frCrc f != frameCrc f.control f.data then s.bump furRetryCrcErr n 1 else s
  let s := if frStomp light f then s.bump furRetryStomps n 1 else s
  let s := s.modPort n fun p =>
    if frIdle f then { p with rxNaked := true }
    else { p with
      rxNaked := true
      sameFail := if p.failSeq = frSeq f then p.sameFail + 1 else 1
      failSeq := frSeq f }
  let s := s.sendIdle n true 0 0
  if 16 ≤ (s.port n).sameFail then (s.setFld furLinkCause n 8).startRetrain n else s

/-- The link fields of a good frame: acknowledgements, a replay request, credits (R249, R251). -/
def State.takeLinkFields (s : State) (n : Nat) (f : Frame) : State :=
  let s := s.modPort n fun p => { p with
    replay := if frAckValid f then dropAcked p.replay (frAck f) else p.replay
    credits := p.credits.modify (frCreditVc f) (· + frCredit f) }
  if frNak f then s.replayAll n else s

/-- Where port n's route table sends a destination: none is local (R253). -/
def State.routeOf (s : State) (n dest : Nat) : Option Nat :=
  if dest = s.rank then none
  else match s.portRec n with
  | some p => ((p.routes.find? fun r => r.1 == dest).map (·.2)).getD none
  | none => none

/-- Whether the reduction slot that a frame names is open (R258). -/
def State.slotOpen (s : State) (slot : Nat) : Bool :=
  s.chain.opened.any fun n => match s.collective n with
    | some c => decide (c.slotBase ≤ slot) && decide (slot < c.slotBase + c.slots)
    | none => false

/-- The bytes of a frame join its message (R247). -/
def State.assemble (s : State) (f : Frame) : State :=
  let d := f.data.take (frLen f)
  let mine := fun (m : RxMsg) => m.src == frSrc f && m.vc == frVc f && m.stream == frStream f && m.kind == frKind f && !m.whole
  let l := s.chain.inbox
  let l' := if frOffset f = 0 then l ++ [⟨frSrc f, frKind f, frVc f, frStream f, frVtag f, 1, d, frLast f⟩]
    else l.map fun m => if mine m && m.next == frOffset f then { m with next := m.next + 1, data := m.data ++ d, whole := frLast f } else m
  { s with chain := { s.chain with inbox := l' } }

/-- A message of the chain head goes on to the next engines of the broadcast tree (R255). -/
def State.relay (s : State) (f : Frame) : State :=
  if frSrc f = 0 && s.rank != 0 && [7, 8, 9, 10, 13].contains (frKind f) then
    s.treeChildren.foldl (fun s r => match s.ownRoute r with
      | some m => s.modPort m fun p => { p with inject := p.inject ++ [{ f with control := putBits f.control 0 10 r, errors := [] }] }
      | none => s) s
  else s

/-- A frame for this engine may be delivered: MEM runs, which it does not in Doze, and the slot of a segment is open (R258, R356). -/
def State.mayDeliver (s : State) (f : Frame) : Bool :=
  s.works && !(frKind f == 0 && frVc f == 1 && !s.slotOpen (frStream f))

/-- A frame for this engine is delivered: its buffer is free, and the credit goes back (R251, R253). -/
def State.deliverFrame (s : State) (n : Nat) (f : Frame) : State := ((s.assemble f).relay f).sendIdle n false (frVc f) 1

/-- Whether a frame in port n's receive buffer is for this engine. -/
def State.isLocal (s : State) (n : Nat) (f : Frame) : Bool := (s.routeOf n (frDest f)).isNone

/-- Frames that wait in port n's receive buffer for a slot or for MEM are delivered once they may be, in their order (R258, R356). -/
def State.flushRx (s : State) (n : Nat) : State :=
  let ready := (s.port n).rxBuf.filter fun f => s.isLocal n f && s.mayDeliver f
  ready.foldl (fun s f => s.deliverFrame n f) (s.modPort n fun p => { p with rxBuf := p.rxBuf.filter fun f => !ready.contains f })

/-- A frame of a VC waits in port n's receive buffer for the same way out: none may overtake it (R252). -/
def State.queued (s : State) (n : Nat) (f : Frame) : Bool :=
  (s.port n).rxBuf.any fun g => frVc g == frVc f && s.routeOf n (frDest g) == s.routeOf n (frDest f)

/-- A frame may leave on port m as it comes: m is between frames and may send it, and none waits before it (R252, R253). -/
def State.cutsThrough (s : State) (n m : Nat) (f : Frame) (cut : Bool) : Bool := cut && s.mayLeave m f && !s.queued n f

/-- The eighth frame accepted since the last acknowledgement is acknowledged (R249). -/
def State.ackEighth (s : State) (n : Nat) : State := if 8 ≤ (s.port n).sinceAck then s.sendIdle n false 0 0 else s

/-- A frame in order: delivered, forwarded at once (`cut`), put into the receive buffer for its outbound port, or discarded for its kind
(R251, R253). A frame that needs no buffer any more returns its credit. -/
def State.acceptFrame (s : State) (n : Nat) (f : Frame) (cut : Bool) : State :=
  let s := s.modPort n fun p => { p with rxExpect := (p.rxExpect + 1) % 4096, rxNaked := false, sameFail := 0, sinceAck := p.sinceAck + 1 }
  let s := s.setFld furPerfRxFrames n ((s.fld furPerfRxFrames n + 1) % 2 ^ 32)
  if !(kindVcs (frKind f)).contains (frVc f) then
    (s.logEv 0x0307 9 n (frKind f + 32 * frVc f + 128 * frSrc f)).sendIdle n false (frVc f) 1
  else match s.routeOf n (frDest f) with
  | some m =>
    if s.cutsThrough n m f cut then (s.transmit m f).sendIdle n false (frVc f) 1
    else (s.modPort n fun p => { p with rxBuf := p.rxBuf ++ [{ f with errors := [] }] }).ackEighth n
  | none =>
    if s.mayDeliver f && !s.queued n f then s.deliverFrame n f
    else (s.modPort n fun p => { p with rxBuf := p.rxBuf ++ [{ f with errors := [] }] }).ackEighth n

/-- A frame that is not accepted although its forwarding had begun leaves as a stomp (R248, R253). -/
def State.stompCut (s : State) (n : Nat) (f : Frame) (cut : Bool) : State :=
  match s.routeOf n (frDest f) with
  | some m => if !frIdle f && (kindVcs (frKind f)).contains (frVc f) && s.cutsThrough n m f cut then s.stomp m f else s
  | none => s

/-- A frame at a port that serves traffic. -/
def State.takeFrame (s : State) (n : Nat) (f : Frame) (cut : Bool) : State :=
  let s := (s.flushRx n).countFec n f
  if frFailed (s.lightFec n) f then (s.stompCut n f cut).frameFails n f
  else
    let s := s.takeLinkFields n f
    if frIdle f then s
    else if frSeq f = (s.port n).rxExpect then s.acceptFrame n f cut
    else
      let s := s.stompCut n f cut
      if (s.port n).rxNaked then s else (s.modPort n fun p => { p with rxNaked := true }).sendIdle n true 0 0

/-- FRAME_RECEIVE (R249, R253, R275, R361). `cut`: the outbound port is between frames, so that a frame may leave as it comes. -/
def execFrameReceive (port : Nat) (f : Frame) (cut : Bool) (s : State) : Out :=
  if f.data.length ≠ 5120 then .fault .illFormed
  else .next (
    match s.retimed port with
    | some m => s.modPort m fun p => { p with txOut := p.txOut ++ [f] }
    | none => if s.portUp port then s.takeFrame port f cut else s)

/-! ## FRAME_FORWARD (R251, R253) -/

/-- The frame in transit that leaves on port m: the oldest that may, of the receive buffers in order of port. -/
def State.transitFor (s : State) (m : Nat) : Option (Nat × Frame) :=
  (List.range s.fur.length).findSome? fun n =>
    ((s.port n).rxBuf.find? fun f => s.routeOf n (frDest f) == some m && s.mayLeave m f).map fun f => (n, f)

/-- The weight of a VC of port m: the image's, else that of Table 9.4. -/
def State.vcWeight (s : State) (m vc : Nat) : Nat :=
  let dflt := [8, 6, 2].getD (vc - 1) 1
  match s.portRec m with
  | some p => (p.weights[vc - 1]?).getD dflt
  | none => dflt

/-- This engine's own frame that leaves on port m, and the turn after it: VC0 first, then VC1 to VC3 in weighted round-robin; each needs two
credits of its VC (R251). -/
def State.ownFor (s : State) (m : Nat) : Option (Frame × Turn) :=
  let p := s.port m
  let ready := fun vc => if 2 ≤ p.credits.getD vc 0 then p.inject.find? fun f => frVc f == vc else none
  match ready 0 with
  | some f => some (f, p.turn)
  | none =>
    match if p.turn.left = 0 then none else ready p.turn.cls with
    | some f => some (f, ⟨p.turn.cls, p.turn.left - 1⟩)
    | none => ((List.range 3).map fun k => (p.turn.cls + k) % 3 + 1).findSome? fun vc =>
        (ready vc).map fun f => (f, ⟨vc, s.vcWeight m vc - 1⟩)

/-- FRAME_FORWARD (R251, R253): the next frame that leaves on a port: in transit, else this engine's own. -/
def execFrameForward (port : Nat) (s : State) : Out :=
  let s := s.packAll
  .next (
    if !s.maySend port then s
    else
      let s := s.flushRx port
      match s.transitFor port with
      | some (n, f) => ((s.modPort n fun p => { p with rxBuf := p.rxBuf.erase f }).transmit port f).sendIdle n false (frVc f) 1
      | none =>
        match s.ownFor port with
        | some (f, t) => (s.modPort port fun p => { p with inject := p.inject.erase f, turn := t }).transmit port f
        | none => s)

/-! ## Timers (R249, R250) -/

/-- ACK_TIMER (R249): 200 ns have passed since the last acknowledgement. -/
def execAckTimer (port : Nat) (s : State) : Out := .next (if s.portUp port then (s.flushRx port).sendIdle port false 0 0 else s)

/-- ACK_TIMEOUT (R250): frames outstanding for 10 µs without an ACK. -/
def execAckTimeout (port : Nat) (s : State) : Out :=
  .next (
    if s.portUp port && !(s.port port).replay.isEmpty then (s.setFld furLinkCause port 8).startRetrain port
    else s)

/-- The cause that the hello of a retrain gives against the same peer (R273, R276). -/
def State.retrainCause (s : State) (n : Nat) (h : Hello) : Option Nat := (s.portRec n).bind fun r => helloCause s n r h

/-- RETRAIN_END (R276, R277): with the same peer the link resumes with a replay from the last ACK; else the port is FAILED. -/
def execRetrainEnd (port : Nat) (o : RetrainOutcome) (s : State) : Out :=
  .next (
    if s.linkOn port && s.linkState port == linkRetrain then
      (match o with
      | .hello h =>
        let s := (s.setFld furLinkSeenRank port h.rank).setFld furLinkSeenPort port h.port
        match s.retrainCause port h with
        | none => ((s.setFld furLinkState port linkUp).modPort port fun p => { p with rxNaked := false }).replayAll port |>.portsReady
        | some c => s.linkDownFault port c
      | .failed => s.linkDownFault port 9)
    else s)

/-- CODEWORD_LOCK_LOSS (R246): a port that is UP retrains; one before its hello repeats bring-up from stage 2 (R276). -/
def execCodewordLockLoss (port : Nat) (s : State) : Out :=
  .next (
    if !s.linkOn port then s
    else if s.linkState port = linkUp then s.startRetrain port
    else if s.linkState port = linkAligned ∨ s.linkState port = linkHello then
      ((s.modPort port fun p => { p with stage := 2, helloIn := none }).setFld furLinkState port linkTraining).bump furLinkRetrains port 1
    else s)

/-! ## Bring-up (R272, R273) -/

/-- FUR.LINK.STATE while a stage runs (Table 9.10); in loopback it is LOOPBACK (R274). -/
def State.stageState (s : State) (n stage : Nat) : Nat :=
  if s.loopsBack n then linkLoopback else if stage = 3 then linkAligned else linkTraining

/-- BRINGUP_STAGE_DONE (R272, R274): stages 1 to 3 lead on, and a port in loopback then stays there; the end of stage 5 brings
SEQ 0, the credits of the other end, and sends those of this one (R251). -/
def execBringupStageDone (port : Nat) (credits : List Nat) (s : State) : Out :=
  if credits.length ≠ 4 then .fault .illFormed
  else .next (
    if !s.linkOn port then s
    else
      let st := (s.port port).stage
      if st = 1 ∨ st = 2 then (s.modPort port fun p => { p with stage := st + 1 }).setFld furLinkState port (s.stageState port (st + 1))
      else if st = 3 then
        if s.loopsBack port then s.modPort port fun p => { p with stage := 4, looped := true }
        else ((s.modPort port fun p => { p with stage := 4 }).sendHello port).portsReady
      else if st = 5 then
        let own := ((s.portRec port).map (·.vcBuf)).getD []
        let s := s.modPort port fun p => { p with stage := 6, txSeq := 0, rxExpect := 0, credits := credits }
        (indexed own).foldl (fun s c => s.sendIdle port false c.2 c.1) s
      else s)

/-- The cause of a stage that exceeded its limit: training for stages 1 and 2; for stage 3 deskew where lanes are reordered (R404), else
deskew or FEC lock, which the spec leaves open; none is given for stages 4 and 5 (R272, Table 9.21). -/
def State.stageCause (s : State) (stage : Nat) (reordered : Bool) : Nat × State :=
  if stage ≤ 2 then (1, s)
  else if stage = 3 then (if reordered then (2, s) else let (x, s) := s.draw 1; (2 + x, s))
  else s.draw 4

/-- BRINGUP_STAGE_TIMEOUT (R272, R277, R404): up to three retries, then FAILED. -/
def execBringupStageTimeout (port : Nat) (reordered : Bool) (s : State) : Out :=
  .next (
    let p := s.port port
    let waits := p.stage == 4 && s.linkState port != linkHello
    if !s.linkOn port || p.stage = 0 || 6 ≤ p.stage || waits || s.linkState port == linkFailed then s
    else
      let (c, s) := s.stageCause p.stage reordered
      if p.tries < 3 then (((s.bringUp port).modPort port fun q => { q with tries := p.tries + 1 }).setFld furLinkCause port c)
      else s.linkDownFault port c)

/-- HELLO (R273): compared with the image, the port goes UP or fails; one that comes before the image is held for it. -/
def execHello (port : Nat) (h : Hello) (s : State) : Out :=
  .next (
    if !s.linkOn port || !(s.linkState port == linkHello || s.linkState port == linkAligned) then s
    else
      let s := (s.setFld furLinkSeenRank port h.rank).setFld furLinkSeenPort port h.port
      ((s.modPort port fun p => { p with helloIn := some h }).compareHello port).portsReady)

/-! ## Commands of the FUR and MAP registers (R272, R274, R279) -/

/-- A write of FUR.CTRL.RETRAIN: bring-up from stage 1, FAILED cleared. -/
def State.effRetrain (s : State) (n : Nat) : State := s.bringUp n

/-- A write of FUR.CTRL.CLR_CNT. -/
def State.effClrCnt (s : State) (n : Nat) : State := (s.setWord .furFec n 0).setWord .furRetry n 0

/-- A change of RING_BYP retrains every port that runs through the bypass (R274). -/
def State.switchRing (s : State) (asserted : Bool) : State :=
  if s.flag mapRingBypAsserted 0 = asserted then s
  else
    let s := s.ringBypass asserted
    ((List.range 16).filter fun n => (s.fld mapRingBypPorts 0).testBit n).foldl State.bringUp s

/-- A write of MAP.RING.JOIN: ignored unless LOOP_OK is 1 (R274). -/
def State.effJoin (s : State) : State := if s.loopOk then s.switchRing false else s

/-- A write of MAP.RING.LEAVE (R274). -/
def State.effLeave (s : State) : State := s.switchRing true

/-- RETRAIN (R272). -/
def execRetrain (port : Nat) (src : Src) (s : State) : Out := .next (s.gate src .furCtrl port fun s => s.effRetrain port)

/-- CLR_CNT (R279). -/
def execClrCnt (port : Nat) (src : Src) (s : State) : Out := .next (s.gate src .furCtrl port fun s => s.effClrCnt port)

/-- JOIN (R274). -/
def execJoin (src : Src) (s : State) : Out := .next (s.gate src .mapRing 0 State.effJoin)

/-- LEAVE (R274). -/
def execLeave (src : Src) (s : State) : Out := .next (s.gate src .mapRing 0 State.effLeave)

end Sys2Proof.Machine
end

