-- ==== Sys2Proof/Machine/Mgt.lean ====
section
/-!
DEFINITION. Sys2Proof/Machine/Mgt.lean: the ID and MGT blocks: the log's selection, counters, telemetry, the strap (15), and
an AON cycle.
-/
namespace Sys2Proof.Machine

/-- A write of MGT.LOG_SEL: LOADED falls in the same cycle (R432). -/
def State.effLogSel (s : State) (seq : Nat) : State := (s.setFld mgtLogSelSeq 0 seq).setFld mgtLogSelLoaded 0 0

/-- LOG_SELECT (R432). -/
def execLogSelect (value : Word) (src : Src) (s : State) : Out :=
  .next (s.gate src .mgtLogSel 0 fun s => s.effLogSel (fldGet mgtLogSelSeq value))

/-- Put an entry into MGT.LOG_E0 to LOG_E3 (Table 15.12). -/
def State.loadEntry (s : State) (e : LogEntry) : State :=
  let s := ((s.setFld mgtLogE0Seq 0 e.seq).setFld mgtLogE0Code 0 e.code).setFld mgtLogE0Repeat 0 e.rep
  let s := s.setFld mgtLogE1Time 0 e.time
  let s := (((s.setFld mgtLogE2Block 0 e.block).setFld mgtLogE2Unit 0 e.unit).setFld mgtLogE2Side 0 e.side).setFld mgtLogE2StepLo 0 e.stepLo
  s.setFld mgtLogE3Arg 0 e.arg

/-- LOG_ENTRY_LOADED (R432): the end of a selection. -/
def execLogEntryLoaded (s : State) : Out :=
  .next (
    if s.flag mgtLogSelLoaded 0 then s
    else
      let s := match s.log.ring.find? (fun e => e.seq == s.fld mgtLogSelSeq 0) with
        | some e => (s.loadEntry e).setFld mgtLogSelAbsent 0 0
        | none => ((((s.setWord .mgtLogE0 0 0).setWord .mgtLogE1 0 0).setWord .mgtLogE2 0 0).setWord .mgtLogE3 0 0).setFld mgtLogSelAbsent 0 1
      s.setFld mgtLogSelLoaded 0 1)

/-- A write of MGT.CTRL.CLR_CPERR (R437). -/
def State.effClrCperr (s : State) : State := s.setWord .mgtCperr 0 0

/-- A write of MGT.CTRL.CLR_ERRSUM (R437). -/
def State.effClrErrsum (s : State) : State := s.setWord .mgtErrsum 0 0

/-- A write of MGT.CTRL.CLR_PEAK: every PEAK and MAX field of the block (R437). -/
def State.effClrPeak (s : State) : State :=
  let s := (List.range 40).foldl (fun s k => s.setFld mgtTempMax k 0) (s.setFld mgtPwrTotalPeak 0 0)
  s.clusterList.foldl (fun s c => s.setFld mgtClpwrPeak c 0) s

/-- CLR_CPERR (R437). -/
def execClrCperr (src : Src) (s : State) : Out := .next (s.gate src .mgtCtrl 0 State.effClrCperr)

/-- CLR_ERRSUM (R437). -/
def execClrErrsum (src : Src) (s : State) : Out := .next (s.gate src .mgtCtrl 0 State.effClrErrsum)

/-- CLR_PEAK (R437). -/
def execClrPeak (src : Src) (s : State) : Out := .next (s.gate src .mgtCtrl 0 State.effClrPeak)

/-- FEED_ID_CHANGE (R407, R426): no effect but the record. -/
def execFeedIdChange (level : BitVec 4) (s : State) : Out :=
  .next (
    if !s.aonRuns || s.fld idStrapFeedNow 0 == level.toNat then s
    else
      let s := s.setFld idStrapFeedNow 0 level.toNat
      let f := s.fld idStrapFeedId 0
      if f = level.toNat then s else (s.setFld idStrapChanged 0 1).logEv 0x0503 0 0 (f + 16 * level.toNat))

/-- One cluster's power figures (Table 15.16). -/
def State.clusterPower (s : State) (c avg energy : Nat) : State :=
  let a := if 2 ≤ s.power then 0 else min avg 1023
  let s := (s.setFld mgtClpwrAvg c a).setFld mgtClpwrPeak c (max a (s.fld mgtClpwrPeak c))
  s.setFld mgtClpwrEnergy c ((s.fld mgtClpwrEnergy c + energy) % 2 ^ 44)

/-- TELEMETRY_UPDATE (R436), unless debug halts the controller. -/
def execTelemetryUpdate (power : PowerSample) (temps : List Int) (s : State) : Out :=
  if power.clusters.length ≠ 8 ∨ temps.length ≠ 40 then .fault .illFormed
  else if !s.alive || s.mcHalted then .next s
  else
    let s := s.clusterList.foldl (fun s c => let p := power.clusters.getD c (0, 0); s.clusterPower c p.1 p.2) s
    let a := min power.total 8191
    let s := (s.setFld mgtPwrTotalAvg 0 a).setFld mgtPwrTotalPeak 0 (max a (s.fld mgtPwrTotalPeak 0))
    let s := s.setFld mgtPwrTotalEnergy 0 ((s.fld mgtPwrTotalEnergy 0 + power.energy) % 2 ^ 38)
    .next ((List.range 40).foldl (fun s k =>
      if Config.sensorPresent s.conf k then
        let t := temps.getD k 0
        let m := signed 10 (s.fld mgtTempMax k)
        (s.setFld mgtTempTemp k (twos 10 t)).setFld mgtTempMax k (twos 10 (max t m))
      else s) s)

/-- One AON cycle: time, one entry of the log, the record write, the PLLs (R429, R431, log entry 21). -/
def State.aonCycle (s : State) : State :=
  if s.boot = .porHeld then s
  else
    let s := s.setFld mgtTimeTime 0 ((s.time + 1) % 2 ^ 56)
    let s := s.logWrite.recordStep
    if s.boot = .alive ∧ s.power ≤ 1 ∧ s.time % 50 = 0 then s.slewStep else s

end Sys2Proof.Machine
end

