-- ==== Sys2Proof/Machine/Scales.lean ====
section
/-!
DEFINITION. Sys2Proof/Machine/Scales.lean: the commands of the scale tracker (R182, R193).
-/
namespace Sys2Proof.Machine

/-- INVAL of an entry: its Peck is emptied, and the next boundary requires a probe (R182). -/
def Track.invalidate (e : Track) : Track := { e.empty with inval := true }

/-- A write of SCL.CTRL.INVAL: the selected entry's Peck is emptied; without an entry there is no effect (R182, R183). -/
def State.effInval (s : State) : State :=
  let t := s.fld sclSelTnum 0
  if s.trk.any (fun e => e.stat.tnum == t) then
    ({ s with trk := s.trk.map fun e => if e.stat.tnum = t then e.invalidate else e } : State).logEv 0x0403 5 0 t
  else s

/-- A write of SCL.CTRL.INVAL_ALL: every Peck is emptied (R182). -/
def State.effInvalAll (s : State) : State :=
  ({ s with trk := s.trk.map Track.invalidate } : State).logEv 0x0403 5 0 (2 ^ 14)

/-- A write of SCL.CTRL.CLR_FLAGS: FLAGGED of every entry (R193). -/
def State.effClrFlags (s : State) : State := { s with trk := s.trk.map fun e => { e with flagged := false } }

/-- INVAL (R182). -/
def execInval (src : Src) (s : State) : Out := .next (s.gate src .sclCtrl 0 State.effInval)

/-- INVAL_ALL (R182). -/
def execInvalAll (src : Src) (s : State) : Out := .next (s.gate src .sclCtrl 0 State.effInvalAll)

/-- CLR_FLAGS (R193). -/
def execClrFlags (src : Src) (s : State) : Out := .next (s.gate src .sclCtrl 0 State.effClrFlags)

end Sys2Proof.Machine
end

