-- ==== Sys2Proof/Machine/Views.lean ====
section
/-!
DEFINITION. Sys2Proof/Machine/Views.lean: what a read of a register shows (R16, R17, R418, R419): the stored word, and the fields that the
state of a unit gives at the time of the read.
-/
namespace Sys2Proof.Machine

/-- A bit as a number. -/
def bitNat (b : Bool) : Nat := if b then 1 else 0

/-- Fields put into a word. -/
def putFields (w : Word) (l : List (Fld × Nat)) : Word := l.foldl (fun w p => fldPut p.1 p.2 w) w

/-! ## SEQ (Tables 10.21 to 10.28) -/

/-- The token that queue q of context c waits on: its next entry's wait holds it back (R293); a replay waits for none (R310). -/
def State.queueWaits (s : State) (c q : Nat) : Option Nat :=
  if (s.ctx c).running then
    match s.nextEntry c q with
    | some (_, w, rep) => if rep || s.waitMet c w then none else some (entWaitTok w)
    | none => none
  else none

/-- SEQ.STATUS.STATE as a read shows it: a running context is WAITING when every queue that has not ended waits (log entry 65). -/
def State.ctxShown (s : State) (c : Nat) : Nat :=
  if s.ctxState c = ctxRunning ∧ (s.ctx c).running = true then
    let live := (List.range (s.ctx c).queues.length).filter fun q => !((s.ctx c).q q).ended
    if !live.isEmpty && live.all (fun q => (s.queueWaits c q).isSome) then 3 else ctxRunning
  else s.ctxState c

/-- SCOPE and SOURCE of a declaration (Table 10.25). -/
def scopeCode : Scope → Nat
  | .mb => 0 | .step => 1 | .job => 2
def sourceCode : TokSource → Nat
  | .entry => 0 | .fx _ _ => 1 | .unitLayerComplete _ => 2 | .unitUpdateWritten _ => 2 | .remote => 3 | .doorbell => 4 | .epochToken => 5
  | .clipToken => 5

/-- SEQ.TOKEN of context c with token t selected. -/
def State.tokenView (s : State) (c t : Nat) : List (Fld × Nat) :=
  match s.tokDecl c t with
  | none => []
  | some d =>
    let ws := (List.range (s.ctx c).queues.length).filter fun q => s.queueWaits c q == some t
    [(seqTokenCount, s.tok c t), (seqTokenScope, scopeCode d.scope), (seqTokenSource, sourceCode d.source), (seqTokenWaiters, ws.length),
      (seqTokenDeclared, 1)]

/-- SEQ.QUEUE of context c with queue q selected. -/
def State.queueView (s : State) (c q : Nat) : List (Fld × Nat) :=
  if (s.ctx c).queues.length ≤ q then []
  else
    let u := (s.ctx c).q q
    let ptr := match s.nextEntry c q with | some (i, _, _) => i | none => u.ptr
    [(seqQueuePtr, ptr), (seqQueueEnded, bitNat u.ended)] ++
      (match s.queueWaits c q with
        | some t => [(seqQueueWaiting, 1), (seqQueueWaitTok, t)]
        | none => [])

/-! ## ACC, SCL, UPD -/

/-- A tile state as ACC.TILE codes it (Table 4.12). -/
def tileCode : TileState → Nat
  | .free => 0 | .filling => 1 | .complete => 2 | .draining => 3

/-- ACC.TILE of core k. -/
def State.tileView (s : State) (k : Nat) : List (Fld × Nat) :=
  let t := fun i => s.tile (4 * k + i)
  [(accTileA0State, tileCode (t 0).state), (accTileA0Tag, (t 0).tag), (accTileA1State, tileCode (t 1).state), (accTileA1Tag, (t 1).tag),
    (accTileB0State, tileCode (t 2).state), (accTileB0Tag, (t 2).tag), (accTileB1State, tileCode (t 3).state), (accTileB1Tag, (t 3).tag)]

/-- The entry that tensor number t names, one that no tile names any more included; none when nothing has declared it (R183, R440). -/
def State.window (s : State) (t : Nat) : Option Track := s.track t

/-- NVAR: wider variants that the image lists for a layer (Table 6.10). -/
def State.nvar (s : State) (layer : Nat) : Nat :=
  match s.image with
  | some i => min 7 (((i.variants.filter fun v => v.layer == layer && v.variant != 0).map fun v => v.variant).eraseDups).length
  | none => 0

/-- A window register of a declared entry; `age` is the Peck position shown (R186 to R190). -/
def State.trackView (s : State) (k : RegKind) (e : Track) (age : Nat) : List (Fld × Nat) :=
  let t := e.stat
  match k with
  | .sclEntry =>
    [(sclEntryKind, t.kind), (sclEntryFormat, t.format), (sclEntryNbits, t.nbits - 1), (sclEntryScope, bitNat t.chain),
      (sclEntryResid, bitNat t.resid), (sclEntryWindowM1, t.window - 1), (sclEntryMargin, t.margin), (sclEntryOt, twos 8 t.ot),
      (sclEntrySpillLimit, t.spillLimit), (sclEntryLayer, t.layer), (sclEntryRxMode, bitNat t.rxTracked),
      (sclEntryInitValid, bitNat t.initValid), (sclEntryInitSe, twos 8 t.initSe), (sclEntryLoaded, 1)]
  | .sclEntry2 => [(sclEntry2Gt, t.gt), (sclEntry2Rt, twos 8 t.rt), (sclEntry2RxInit, twos 7 t.rxInit), (sclEntry2Nvar, s.nvar t.layer)]
  | .sclScale =>
    [(sclScaleSe, twos 8 (e.seIn s.probe)), (sclScaleSePrev, twos 8 e.sePrev), (sclScaleRx, twos 7 e.rx), (sclScaleHead, e.head),
      (sclScaleValid, e.valid), (sclScaleClamp, bitNat e.clamp), (sclScaleFlagged, bitNat e.flagged), (sclScaleVariant, e.variant)]
  | .sclPend =>
    [(sclPendAmax, e.pend.amax), (sclPendNf, bitNat e.pend.nf), (sclPendNone, bitNat e.pend.none), (sclPendEarly, bitNat (!e.next.none))]
  | .sclPeck => let p := (e.age age).toNat; [(sclPeckAmax, p % 2 ^ 31), (sclPeckNf, p / 2 ^ 31)]
  | .sclCnt => [(sclCntOvf, e.ovf), (sclCntUnf, e.unf)]
  | .sclCntLast => [(sclCntLastOvfLast, e.ovfLast), (sclCntLastUnfLast, e.unfLast)]
  | .sclSpill => [(sclSpillSpill, e.spill), (sclSpillSpillLast, e.spillLast)]
  | _ => []

/-- Whether a register is a window onto the selected tracker entry (R183). -/
def isWindow : RegKind → Bool
  | .sclEntry | .sclEntry2 | .sclScale | .sclPend | .sclPeck | .sclCnt | .sclCntLast | .sclSpill => true
  | _ => false

/-- UPD.LAYSTATE and UPD.LAYINFO of layer record l (Tables 8.14 and 8.15); in a probe step no slice is written (R181). -/
def State.layerView (s : State) (k : RegKind) (l : Nat) : List (Fld × Nat) :=
  match s.layerAt l with
  | none => []
  | some (r, x) =>
    if k = .updLaystate then [(updLaystateP1, x.p1.toNat), (updLaystateP2, x.p2.toNat)]
    else
      [(updLayinfoFamily, r.family), (updLayinfoDecay, r.decay), (updLayinfoBias, bitNat r.bias),
        (updLayinfoDone, bitNat (allSlices r x.written && !(s.probe && x.step == s.epoch.toNat))), (updLayinfoApplied, x.applied)]

/-- A drain waits under R237: it has been issued, its tile is COMPLETE, and a unit still reads what it would overwrite. -/
def State.drainWaits (s : State) : Bool :=
  (List.range s.tiles.length).any fun n =>
    (s.tile n).state == .complete && !(s.tile n).poisoned &&
      match s.sideOwner (n / 4) (n / 2 % 2 == 1) with
      | none => false
      | some (c, q) => match s.drainFlight c q n with
        | some f => s.drainHeld (s.drainAt c q n f)
        | none => false

/-- BUSY, WAIT_CLIP and DRAIN_HOLD of UPD.STATUS (Table 8.7). -/
def State.updView (s : State) : List (Fld × Nat) :=
  let on := decide (s.admState = admRunning)
  let busy := (indexed s.upd.units).foldl (fun n u => if on && u.1.cur.isSome then n + 2 ^ u.2 else n) 0
  [(updStatusBusy, busy),
    (updStatusWaitClip, bitNat (on && s.holdMode && !s.upd.released && s.upd.layers.any fun x => x.token)),
    (updStatusDrainHold, bitNat (on && s.drainWaits))]

/-! ## The rest -/

/-- The owner of the narrow path: the management controller while it reads an image, else that of the oldest copy in progress; 0 is idle
(R147, R158, R298). -/
def State.narrowOwner (s : State) : Nat :=
  if s.admState = admAdmitting then 1
  else match s.sp.flatMap (fun p => (p.rd ++ p.wr ++ p.rdWait ++ p.wrWait).filter fun r => r.cls == clsNar) with
  | [] => 0
  | r :: _ => r.reader.index

/-- The fields of side B on an unsplit core read as 0 (R122). -/
def sideBFields : RegKind → List Fld
  | .accTile => [accTileB0State, accTileB0Tag, accTileB1State, accTileB1Tag]
  | .accSatflag => [accSatflagSatB0, accSatflagSatB1]
  | .accStatus => [accStatusCollideB, accStatusHaltB, accStatusDrainPoisonB]
  | .accDrain => [accDrainRowsDoneB, accDrainAddB]
  | .accCfg => [accCfgSlotsB, accCfgDemandB]
  | _ => []

/-- PHASE and UPD_HOLD of SNP.STATUS: CAPTURE while the shard is being copied (R329, Table 11.9). -/
def State.snapView (s : State) : List (Fld × Nat) :=
  let left := s.coderUnread
  if s.snp.active then
    (if s.fld snpStatusPhase 0 = 2 ∧ left.isEmpty = false then [(snpStatusPhase, 1)] else []) ++
      [(snpStatusUpdHold, bitNat (s.snp.updHeld.any left.contains))]
  else []

/-- HB_AGE in ms, to its maximum (Table 11.12). -/
def State.hbAge (s : State) : Nat := if s.flag snpCfgEnabled 0 then min ((s.time - s.snp.lastMsg) / 100000) 65535 else 0

/-- Reads and writes outstanding at a stack port (Table 7.13). -/
def State.portView (s : State) (n : Nat) : List (Fld × Nat) :=
  let p := s.sp.getD n {}
  [(laySpstatOutRd, p.rd.length), (laySpstatOutWr, p.wr.length)]

/-- The fields of register k of unit u that the state of a unit gives; `sel` is the selection word in force (R396). -/
def State.viewFields (s : State) (k : RegKind) (u : Nat) (sel : Word) : List (Fld × Nat) :=
  match k with
  | .idPart => [(idPartPart, Config.part s.conf), (idPartMapver, 1), (idPartRev, Config.rev)]
  | .idCap =>
    [(idCapCores, Config.cores s.conf), (idCapClusters, Config.clusters s.conf), (idCapSports, Config.sports s.conf),
      (idCapFports, Config.fports s.conf), (idCapUnits, Config.units s.conf), (idCapCtx, Config.ctx s.conf), (idCapKegMib, Config.kegMib s.conf)]
  | .idUid => [(idUidUid, Config.uid.toNat)]
  | .cfgMstat => [(cfgMstatQueued, if s.flag mapChainIsHead 0 then s.proposalCount else 0)]
  | .cfgSpcap => [(cfgSpcapDataGib, s.dataEnd / 2 ^ 30), (cfgSpcapLocked, bitNat (decide (s.admState ≠ admUnloaded)))]
  | .cfgRegstat => [(cfgRegstatOverlap, bitNat s.regOverlap), (cfgRegstatBeyond, bitNat s.regBeyond)]
  | .seqStatus => [(seqStatusState, s.ctxShown u)]
  | .seqEpoch => [(seqEpochStep, s.epoch.toNat), (seqEpochProbe, bitNat s.probe)]
  | .seqToken => s.tokenView u (fldGet seqTokselToken sel)
  | .seqQueue => s.queueView u (fldGet seqQselQueue sel)
  | .accTile => s.tileView u
  | .sclFlagged => let l := s.flaggedTracks; [(sclFlaggedCount, l.length), (sclFlaggedFirst, l.foldl min (l.headD 0))]
  | .layStatus => [(layStatusNarrowBusy, bitNat (decide (s.narrowOwner ≠ 0)))]
  | .layNarrow => [(layNarrowOwner, s.narrowOwner)]
  | .snpStatus => s.snapView
  | .laySpstat => s.portView u
  | .updStatus => s.updView
  | .updNorm => [(updNormLocalSq, if s.loaded then s.localPair.s.toNat else 0)]
  | .updLaystate | .updLayinfo => s.layerView k (fldGet updLayselLayer sel)
  | .mapHead =>
    [(mapHeadWait, bitNat (s.flag mapChainIsHead 0 && (s.admState == admRunning || s.admState == admDispatching)))]
  | .mapRing => [(mapRingLoopOk, bitNat s.loopOk)]
  | .snpPartner => [(snpPartnerHbAge, s.hbAge), (snpPartnerSrcAlive, bitNat (s.flag snpCfgEnabled 0 && decide (s.hbAge < 20)))]
  | .pwrClk => [(pwrClkSlew, bitNat (decide (s.fld pwrClkFNow u ≠ s.clkF u)))]
  | .pwrStatus => if s.alive && s.fld pwrStatusState 0 == 3 then [(pwrStatusRailsOk, bitNat (Config.railsUp s.free))] else []
  | .pwrTherm => [(pwrThermHot, bitNat s.thermalOn)]
  | .pwrVgrp => [(pwrVgrpMinv, s.minv u)]
  | .calStatus => [(calStatusStaged, bitNat (decide (s.sec.calStage ≠ s.sec.calLive)))]
  | .calData => [(calDataValue, (cellGet (fun _ => 0) s.sec.calLive (fldGet calSelWord sel)).toNat)]
  | .calStage => [(calStageValue, (cellGet (fun _ => 0) s.sec.calStage (fldGet calSelWord sel)).toNat)]
  | .secTamper => if s.flag secTamperLevel 0 then [(secTamperLevel, bitNat (Config.tamperLow s.free))] else []
  | .mgtTemp => [(mgtTempPresent, bitNat (Config.sensorPresent s.conf u))]
  | .sclEntry | .sclEntry2 | .sclScale | .sclPend | .sclPeck | .sclCnt | .sclCntLast | .sclSpill =>
    match s.window (fldGet sclSelTnum sel) with
    | some e => s.trackView k e (fldGet sclSelAge sel)
    | none => []
  | _ => []

/-- The registers whose every bit is computed: the windows, and the identity of the engine (R425 to R427). -/
def isComputed (k : RegKind) : Bool := isWindow k || k == .idPart || k == .idCap || k == .idUid

/-- The value of register k of unit u under a selection. -/
def State.view (s : State) (k : RegKind) (u : Nat) (sel : Word) : Word :=
  let w := putFields (if isComputed k then 0 else s.word k u) (s.viewFields k u sel)
  if s.isSplit u then w else putFields w ((sideBFields k).map fun f => (f, 0))

/-- The selector register of a slow register (R420). -/
def selectorOf : RegKind → Option RegKind
  | .sclEntry | .sclEntry2 | .sclScale | .sclPend | .sclPeck | .sclCnt | .sclCntLast | .sclSpill => some .sclSel
  | .updLaystate | .updLayinfo => some .updLaysel
  | .seqToken => some .seqToksel
  | .seqQueue => some .seqQsel
  | .calData | .calStage => some .calSel
  | _ => none

/-- Whether the read of a bank is answered with 0: an absent resource (R9), or outside the AON island in Sleep and Hibernate (R354). -/
def State.readsZero (s : State) (k : RegKind) (u : Nat) : Bool := regAbsent s.conf k u || (decide (2 ≤ s.power) && !regAon k)

/-- The bits of a register that a read can show: those of its fields that are not write-only (R16, R17). -/
def readMask (k : RegKind) : Word := (regFields k).foldl (fun m f => if f.access = .wo then m else m ||| fldMask f) 0

/-- What a control-port read of register k of unit u returns under a selection: write-only fields and reserved bits read 0; the
scanned logic is open after a scan (R385). -/
def State.readUnder (s : State) (k : RegKind) (u : Nat) (sel : Word) : Word :=
  if s.readsZero k u then 0
  else if s.flag dbgStatusScanned 0 && !regAon k then Config.scanWord s.free (regKey k u) &&& readMask k
  else s.view k u sel

/-- The selection in force for register k of unit u (R420). -/
def State.selNow (s : State) (k : RegKind) (u : Nat) : Word :=
  match selectorOf k with | some x => s.word x (if k = .seqToken ∨ k = .seqQueue then u else 0) | none => 0

/-- What a read accepted now returns (R395). -/
def State.read (s : State) (k : RegKind) (u : Nat) : Word := s.readUnder k u (s.selNow k u)

/-- Whether the TAP may read register k at the debug level in force: set N, and set O from Observe on (Tables 13.8 and 13.9). -/
def State.tapReads (s : State) (k : Option RegKind) : Bool :=
  decide (1 ≤ s.debugLevel) || match k with | some k => k == .secState || k == .secFw || k == .dbgStatus | none => false

/-- The data of a read reach their reader: the return bus under the tag of the request, or the TAP (R384, R395). -/
def State.answer (s : State) (src : Src) (tag : Nat) (w : Word) : State :=
  match src with
  | .cp => { s with cpRet := some ⟨tag, w⟩ }
  | .tap => { s with tap := { s.tap with data := w } }

/-- A read is accepted: a status read returns at once, with 0 and a count where the address names no register; a slow read keeps the
selection in force and waits for the return bus (R9, R395, R396, R419). -/
def State.acceptRead (s : State) (addr tag : Nat) (src : Src) : State :=
  match regAt addr with
  | some (k, u) =>
    if (selectorOf k).isSome && !s.readsZero k u then { s with slow := s.slow ++ [⟨k, u, tag, src, s.selNow k u⟩] }
    else s.answer src tag (s.read k u)
  | none => (s.bump mgtCperrUnmapped 0 1).answer src tag 0

end Sys2Proof.Machine
end

