-- ==== Sys2Proof/Machine/Bus.lean ====
section
/-!
DEFINITION. Sys2Proof/Machine/Bus.lean: a write of any register from the control port or the TAP, and the return of a slow read (15.2,
R395, R396, R419 to R424, R439).
-/
namespace Sys2Proof.Machine

/-! ## Fields under their access codes (R16, R439) -/

/-- Whether an RWL field is under its lock, or an RWP field without presence (Table 15.2, R423). -/
def State.blocked (s : State) (f : Fld) : Bool :=
  match f.access with
  | .rwl =>
    if f.kind = .mapRing then s.flag mapRingLock 0
    else if f.kind = .cfgDispatch then decide (s.admState ≠ admUnloaded ∧ s.admState ≠ admHalted)
    else decide (s.admState ≠ admUnloaded)
  | .rwp => !s.flag secStatePresence 0
  | _ => false

/-- A blocked field that the write would change. -/
def State.refusesFld (s : State) (f : Fld) (u : Nat) (value : Word) : Bool := s.blocked f && decide (fldGet f value ≠ s.fld f u)

/-- The word of a field after a write under its access code; `blocked` fields keep their value. -/
def fldWrite (f : Fld) (blocked : Bool) (value w : Word) : Word :=
  match f.access with
  | .rw => fldPut f (fldGet f value) w
  | .rwl | .rwp => if blocked then w else fldPut f (fldGet f value) w
  | .w1c => w &&& ~~~ (value &&& fldMask f)
  | .w1s => w ||| (value &&& fldMask f)
  | .ro | .wo => w

/-- A write of every field of register k of unit u under its own access code; a discarded one is counted once, an RWP one recorded
(R439). -/
def State.fieldWrite (s : State) (k : RegKind) (u : Nat) (value : Word) : State :=
  let fs := regFields k
  let refused := fs.filter fun f => s.refusesFld f u value
  let t := s.setWord k u (fs.foldl (fun w f => fldWrite f (s.blocked f) value w) (s.word k u))
  if refused.isEmpty then t
  else
    let t := t.bump mgtCperrLocked 0 1
    if refused.any (fun f => f.access == .rwp) then t.logEv 0x0201 (regBlock k) 0 (regAddr k u) else t

/-! ## Commands of a write (R424) -/

/-- Whether field f of a written value is 1. -/
def wbit (f : Fld) (value : Word) : Bool := decide (fldGet f value = 1)

/-- More than one command bit: none acts; recorded and counted (R424). -/
def State.severalBits (s : State) (k : RegKind) (u : Nat) (value : Word) : State :=
  (s.logEv 0x0209 (regBlock k) 0 (regAddr k u + 2 ^ 24 * (value.toNat % 2 ^ 40))).cperrState

/-- A register that acts on one command per write: the command bits with their effects (R424). -/
def State.oneOf (s : State) (k : RegKind) (u : Nat) (value : Word) (cmds : List (Fld × (State → State))) : State :=
  match cmds.filter fun c => wbit c.1 value with
  | [] => s
  | [c] => c.2 s
  | _ => s.severalBits k u value

/-- A register in which every command bit acts, in increasing bit order (R424). -/
def State.eachOf (s : State) (value : Word) (cmds : List (Fld × (State → State))) : State :=
  cmds.foldl (fun s c => if wbit c.1 value then c.2 s else s) s

/-- A write of MAP.RING: its fields, then JOIN or LEAVE (R423, R424). -/
def State.writeRing (s : State) (value : Word) : State :=
  (s.fieldWrite .mapRing 0 value).oneOf .mapRing 0 value [(mapRingJoin, State.effJoin), (mapRingLeave, State.effLeave)]

/-- A write of DBG.CTRL: REQ, MC_HALT, MC_STEP in bit order; from the TAP below Intrusive REQ alone (R384, R391, R424). -/
def State.writeDebug (s : State) (value : Word) (src : Src) : State :=
  let low := decide (src = .tap ∧ s.debugLevel < 2)
  let halt := wbit dbgCtrlMcHalt value
  let s := s.effDebugReq (fldGet dbgCtrlReq value) (src == .tap)
  if low then
    if wbit dbgCtrlMcStep value || halt != s.flag dbgCtrlMcHalt 0 then s.dbgRefuse.cperrState else s
  else
    let s := if halt != s.flag dbgCtrlMcHalt 0 || halt != s.mcHalted then s.effMcHalt halt else s
    if wbit dbgCtrlMcStep value then s.effMcStep else s

/-- A write of SCL.SCALE: FLAGGED of the selected entry is W1C (Table 6.11). -/
def State.writeScale (s : State) (value : Word) : State :=
  if wbit sclScaleFlagged value then
    { s with trk := s.trk.map fun e => if e.stat.tnum = s.fld sclSelTnum 0 then { e with flagged := false } else e }
  else s

/-- A write of CAL.STAGE: the staged word at CAL.SEL.WORD (Table 13.24). -/
def State.writeStage (s : State) (value : Word) : State :=
  { s with sec := { s.sec with calStage := cellSet (fun _ => 0) s.sec.calStage (s.fld calSelWord 0) value } }

/-- A write of SEC.POLICY: ZERO_MEM, under presence, goes to the security record (Table 13.17). -/
def State.writePolicy (s : State) (value : Word) : State :=
  let t := s.fieldWrite .secPolicy 0 value
  if t.fld secPolicyZeroMem 0 = s.fld secPolicyZeroMem 0 then t else t.queueRecord

/-- What an accepted write of register k of unit u does. -/
def State.effWrite (s : State) (k : RegKind) (u : Nat) (value : Word) (src : Src) : State :=
  match k with
  | .cfgCtrl =>
    s.oneOf k u value [(cfgCtrlAdmit, State.effAdmit), (cfgCtrlDispatch, State.effDispatch), (cfgCtrlUnload, State.effUnload)]
  | .cfgMprop => s.effMprop (fldGet cfgMpropEntry value)
  | .seqCtrl => s.oneOf k u value [(seqCtrlPreempt, fun s => s.preemptCtx u), (seqCtrlResume, fun s => (s.resumeCtx u).resumeMoves u)]
  | .seqDoorbell => s.effDoorbell u (fldGet seqDoorbellToken value)
  | .sclScale => s.writeScale value
  | .sclCtrl =>
    s.eachOf value [(sclCtrlInval, State.effInval), (sclCtrlInvalAll, State.effInvalAll), (sclCtrlClrFlags, State.effClrFlags)]
  | .mapRing => s.writeRing value
  | .furCtrl => s.eachOf value [(furCtrlRetrain, fun s => s.effRetrain u), (furCtrlClrCnt, fun s => s.effClrCnt u)]
  | .snpCtrl => s.oneOf k u value [(snpCtrlRestore, State.effRestore), (snpCtrlLocalHalt, State.effLocalHalt)]
  | .pwrCtrl => s.effTarget (fldGet pwrCtrlTarget value)
  | .pwrReset =>
    s.oneOf k u value [(pwrResetCold, State.effCold), (pwrResetWarm, State.effWarm), (pwrResetRtmRelease, State.effRtmRelease)]
  | .pwrThrot | .pwrPace | .pwrTherm => (s.fieldWrite k u value).applyCaps
  | .pwrClk => s.effClk u value
  | .pwrVgrp => s.effVreq u (fldGet pwrVgrpVreq value)
  | .secCmd => s.effSecCmd (fldGet secCmdCode value) (fldGet secCmdArg value)
  | .secPcmd => s.effPcmd (fldGet secPcmdCode value) (fldGet secPcmdArg value)
  | .secPolicy => s.writePolicy value
  | .dbgCtrl => s.writeDebug value src
  | .calStage => s.writeStage value
  | .mgtLogSel => s.effLogSel (fldGet mgtLogSelSeq value)
  | .mgtCtrl =>
    s.eachOf value [(mgtCtrlClrCperr, State.effClrCperr), (mgtCtrlClrErrsum, State.effClrErrsum), (mgtCtrlClrPeak, State.effClrPeak)]
  | _ => s.fieldWrite k u value

/-- REGISTER_WRITE (R395, R419, R439). -/
def execRegisterWrite (addr : Nat) (value : Word) (src : Src) (s : State) : Out :=
  .next (
    match regAt addr with
    | some (k, u) => s.gate src k u fun s => s.effWrite k u value src
    | none =>
      if !s.alive then s
      else if src == .tap && decide (s.debugLevel < 2) then s.dbgRefuse.cperrState
      else s.bump mgtCperrUnmapped 0 1)

/-- RING_LOCK (R423): the write of MAP.RING that carries LOCK 1. -/
def execRingLock (value : Word) (src : Src) (s : State) : Out :=
  .next (s.gate src .mapRing 0 fun s => s.writeRing (value ||| fldMask mapRingLock))

/-- SLOW_READ_RETURN (R384, R395, R396): a read is accepted, which the TAP may make in its operation set only, or the oldest slow read
returns, under the selection in force at its acceptance (log entry 88). -/
def execSlowReadReturn (phase : ReadPhase) (s : State) : Out :=
  .next (
    if !s.alive then s
    else match phase with
    | .accepted addr tag src =>
      if src == .tap && !s.tapReads ((regAt addr).map (·.1)) then s.dbgRefuse else s.acceptRead addr (tag % 16) src
    | .returned =>
      match s.slow with
      | r :: l => ({ s with slow := l } : State).answer r.src r.tag (s.readUnder r.kind r.unit r.sel)
      | [] => s)

end Sys2Proof.Machine
end

