-- ==== Sys2Proof/Machine/Stack.lean ====
section
/-!
DEFINITION. Sys2Proof/Machine/Stack.lean: responses of the stack controllers and the strided narrow path (R147, R148, R211 to R215).
A read's data is taken from attached memory when the request is made; its response says what the symbol code finds.
-/
namespace Sys2Proof.Machine

/-! ## Responses (R211, R215) -/

/-- An update unit's block read a unit that was not good (R238): the state units it feeds are poisoned, its partial norm is NaN. The emission of
narrow weights, which comes after every block of its layer, forms no norm and writes no state. -/
def State.updatePoison (s : State) (r : Reader) (c : Nat) : State :=
  let s := if ((s.upd.layers[r.index]?).getD {}).emitted then s
    else (s.setFld updStatusPoisonW 0 1).modLayer r.index fun x => { x with norms := x.norms.map fun n => (n.1, ⟨f32NaN, 0⟩) }
  s.uncorrFault c 0 r.index 2

/-- A tile that came back from its save area holds poison: its side stops, and the tile is to be computed again (R120, R310). -/
def State.poisonTile (s : State) (n : Nat) : State :=
  let t := s.tile n
  if t.poisoned || t.state != .filling then s
  else ((s.modTile n fun x => { x with poisoned := true }).stopSide (n / 2)).reissueFault t.ctx 7 t.queue (n / 2) t.first t.first 1 3

/-- The source of a collective held poison: so does its result (R28, R211). -/
def State.poisonColl (s : State) (num : Nat) : State :=
  match s.collective num, s.chain.colls.find? fun x => x.num == num with
  | some c, some st =>
    if st.finished then (writeCodes (s.collWrites c st).1).foldl State.poisonCode s else s.modColl num fun y => { y with bad := true }
  | _, _ => s

/-- What takes bytes from a unit that was not delivered good is poisoned: a unit or word, or what a mark names. -/
def State.poisonDst (s : State) (d : Nat) : State :=
  if isCode d then s.poisonCode d
  else if 2 ^ 61 ≤ d then
    let id := d / 2 ^ 30 - 2 ^ 31
    { s with chain := { s.chain with answers := s.chain.answers.map fun a => if a.1 = id then (a.1, NetMsg.spoil (d % 2 ^ 30) a.2) else a } }
  else if d = markJournal then { s with chain := { s.chain with journal := s.chain.journal.map fun _ => true } }
  else if d = markRestore then s.modFill fun f => { f with failed := true }
  else if 2 ^ 60 + 2 ^ 52 ≤ d then
    s.loseUnit (d / 2 ^ 10 - 2 ^ 50 - 2 ^ 42) (d % 2 ^ 10)
  else if 2 ^ 60 + 2 ^ 51 ≤ d then s.dropRecord (d - markSlot false 0)
  else if 2 ^ 60 + 2 ^ 50 ≤ d then s.poisonTile (d - 2 ^ 60 - 2 ^ 50)
  else s.poisonColl (d - 2 ^ 60)

/-- What takes bytes from a unit that was not delivered good, of a request of class `cls`: poisoned, and reported to the reading context
(R152, R238). What a save area gave back is reported with its tiles (R120). -/
def State.deliverPoison (s : State) (r : Reader) (cls : Nat) (dsts : List Nat) : State :=
  let s := dsts.foldl State.poisonDst s
  match r.ctx with
  | none =>
    if cls = clsCod then s.coderPoison
    else if cls = clsNar ∧ r.index = 1 then { s with imgBad := true }
    else s
  | some c =>
    if r.queue = updQueue then s.updatePoison r c
    else if r.queue = saveQueue then s
    else
      let s := if dsts.any isCode then s.setFld layStatusPoisonW 0 1 else s
      s.uncorrFault c r.queue r.index 2

/-- A unit of a read response as the engine finds it (Table 7.3): counts, and whether it is delivered as poisoned. -/
def State.decodeUnit (s : State) (port unit : Nat) (w : List Byte) : State × Bool :=
  if !s.coded (s.unmapAddr port (64 * unit)) then (s, false)
  else match sc8Check w with
  | .good => (s, false)
  | .poisoned => (s.bump laySperrPoisonRd port 1, true)
  | .corrected _ _ => (s.corr laySperrCorrCnt port 1, false)
  | .uncorrectable => (s.uncorr laySperrUncorrCnt port 1, true)

/-- Sidecar units that came before their data go once nothing of their batch is to come. -/
def StackSt.tidy (p : StackSt) : StackSt := { p with sides := p.sides.filter fun x => (p.rd ++ p.rdWait).any fun r => r.batch == x.1 }

/-- Take the request with a tag off a port's reads and send what waits. -/
def StackSt.endRead (weight : Nat → Nat) (p : StackSt) (tag : Nat) : StackSt :=
  ({ p with rd := p.rd.filter fun r => r.tag != tag } : StackSt).tidy.send weight

/-- Take the request with a tag off a port's writes and send what waits. -/
def StackSt.endWrite (weight : Nat → Nat) (p : StackSt) (tag : Nat) : StackSt :=
  ({ p with wr := p.wr.filter fun r => r.tag != tag } : StackSt).send weight

/-- A data unit and its sidecar unit have both come: decoded with its check bytes, and whether it is delivered as poisoned; without
the check bytes, after an ERR, it is uncorrectable (R209, R211, R215). -/
def State.joinUnit (s : State) (port unit : Nat) (data : List Byte) (side : Option (List Byte)) : State × Bool :=
  match side with
  | none => (s.uncorr laySperrUncorrCnt port 1, true)
  | some b => s.decodeUnit port unit (data ++ (b.drop ((s.portData + 4 * unit) % 64)).take 4)

/-- A unit of a response to a data request: decoded where its check bytes have come, else kept for them. `bad`: destinations of units
delivered as poisoned so far, and whether there are any. -/
def State.takeUnit (s : State) (port : Nat) (r : StackReq) (unit : Nat) (dsts : List Nat) (data : List Byte) (bad : Bool × List Nat) :
    State × Bool × List Nat :=
  if !s.coded (s.unmapAddr port (64 * unit)) then (s, bad)
  else match (s.sp.getD port {}).sides.find? fun x => x.1 == r.batch && x.2.1 == s.sideUnit unit with
  | some x =>
    let (s, b) := s.joinUnit port unit data x.2.2
    (s, if b then (true, bad.2 ++ dsts) else bad)
  | none => (s.setSp port fun p => { p with halves := p.halves ++ [⟨r.batch, unit, data, r.reader, dsts⟩] }, bad)

/-- A sidecar unit has come: the data units that waited for it are decoded; it is kept for those still to come. -/
def State.takeSide (s : State) (port : Nat) (r : StackReq) (bytes : Option (List Byte)) : State × Bool × List Nat :=
  let mine := fun (h : HalfUnit) => h.batch == r.batch && r.covers.contains h.unit
  let hs := (s.sp.getD port {}).halves.filter mine
  let s := s.setSp port fun p => { p with
    halves := p.halves.filter fun h => !mine h
    sides := p.sides ++ [(r.batch, r.unit, bytes)] }
  hs.foldl (fun acc h =>
    let (s, b) := acc.1.joinUnit port h.unit h.data bytes
    (s, if b then (true, acc.2.2 ++ h.dsts) else acc.2)) (s, false, [])

/-- What a read response brings: after ERR every data unit is poisoned, and those of a sidecar unit cannot be decoded; a sidecar unit that
a write merges into brings no data (R211, R212, R215). -/
def State.takeResponse (s : State) (port : Nat) (r : StackReq) (err : Bool) (units : List (List Byte)) : State × Bool × List Nat :=
  let s := if err then s.setFld laySpstatCtrlErr port 1 else s
  if !r.covers.isEmpty then s.takeSide port r (if err then none else units.head?)
  else if s.portData ≤ 64 * r.unit then (if err then s.uncorr laySperrUncorrCnt port r.count else s, false, [])
  else if err then (s.uncorr laySperrUncorrCnt port r.count, true, r.reader.dsts.flatten)
  else ((r.units.zip r.reader.dsts).zip units).foldl (fun acc u => acc.1.takeUnit port r u.1.1 u.1.2 u.2 acc.2) (s, false, [])

/-- A stack port that serves requests: present, and MEM running: its clock stops in Doze (R403, Table 12.4). -/
def State.spOn (s : State) (port : Nat) : Bool := s.alive && decide (s.power = 0) && decide (port < Config.sports s.conf)

/-- What waits for reads and writes to be answered goes on: held messages, a partial norm, COMMIT and the scan after it, a fill, VERIFY, LOAD,
the journal. -/
def State.answered (s : State) : State :=
  s.payAnswers.trySendPartial.commitSlot.tryScan.payServes.tryVerify.tryLoad.tryJournal

/-- STACK_READ_RESPONSE (R211, R215): after a failure of the port no tag is outstanding. -/
def execStackReadResponse (port tag : Nat) (err : Bool) (units : List (List Byte)) (s : State) : Out :=
  .next (
    if !s.spOn port then s
    else match (s.sp.getD port {}).rd.find? fun r => r.tag == tag with
    | none => s.setFld laySpstatBadtag port 1
    | some r =>
      let (s, bad, dsts) := s.takeResponse port r err units
      let s := s.setSp port fun p => p.endRead s.classWeight tag
      (if bad then s.deliverPoison r.reader r.cls dsts.eraseDups else s).answered)

/-- STACK_WRITE_RESPONSE (R215): an ERR is recorded, and the units hold whatever the controller left. -/
def execStackWriteResponse (port tag : Nat) (err : Bool) (s : State) : Out :=
  .next (
    if !s.spOn port then s
    else match (s.sp.getD port {}).wr.find? fun r => r.tag == tag with
    | none => s.setFld laySpstatBadtag port 1
    | some r =>
      let s := s.setSp port fun p => p.endWrite s.classWeight tag
      (if err then
        r.units.foldl (fun s u => s.scrambleUnit port u) ((s.setFld laySpstatCtrlErr port 1).logEv 0x0306 6 port (64 * r.unit))
      else s).answered)

/-- STACK_PORT_TIMEOUT (R215): the port is FAILED; its outstanding reads are delivered as poisoned, its writes discarded. -/
def execStackPortTimeout (port : Nat) (s : State) : Out :=
  .next (
    let p := s.sp.getD port {}
    if !s.spOn port || s.portFailed port || (p.rd.isEmpty && p.wr.isEmpty) then s
    else
      let s := (s.setFld laySpstatTimeout port 1).setFld laySpstatFailed port 1
      let s := (s.irq mgtIrqPendStack).setSp port fun _ => {}
      let s := (p.rd ++ p.rdWait).foldl (fun s r =>
        if r.covers.isEmpty && decide (64 * r.unit < s.portData) then s.deliverPoison r.reader r.cls r.reader.dsts.flatten.eraseDups else s) s
      (p.halves.foldl (fun s h => s.deliverPoison h.reader clsOpr h.dsts) s).answered)

/-! ## The narrow path (R147, R148, R158) -/

/-- The element of the narrow path: the size of R130, STR0 in every format. -/
def narrowElem (d : Desc) : Elem := ⟨fmtF8AC, 1, false, false, d.esize⟩

/-- Whether the narrow path serves an owner: in Run; the debug port at Intrusive (Tables 13.8 and 13.9), the controller unless
halted. -/
def State.narrowOn (s : State) (o : NarrowOwner) : Bool :=
  s.works && match o with
  | .debug => decide (s.debugLevel = 2)
  | .mc => !s.mcHalted
  | .coder => true

/-- The owner of the narrow path as LAY.NARROW shows it (R158). -/
def ownerCode (o : NarrowOwner) : Nat := match o with | .mc => 1 | .debug => 2 | .coder => 3

/-- A narrow-path copy of every position of the source that the destination has; Keg bytes that it reads leave their landing ring
(R204). -/
def State.narrowCopy (s : State) (o : NarrowOwner) (d e : Desc) : State :=
  let ps := (positions rowMajor d.ext).filter fun p => inExt e.ext (p.map Int.ofNat)
  let from' := ps.map fun p => s.elemLocs d (narrowElem d) p
  let codes := (from'.flatMap locCodes).eraseDups
  let ws := (ps.zip from').flatMap fun x =>
    let (b, bad) := s.readLocs x.2
    writesAt (s.elemLocs e (narrowElem d) x.1) b bad
  let w := Who.narrow (ownerCode o)
  let feeds := fun c => (((ps.zip from').filter fun x => (locCodes x.2).contains c).flatMap fun x =>
    locCodes (s.elemLocs e (narrowElem d) x.1)).eraseDups
  let s := ((s.touchHoles codes).kegErrors codes).issueReads w false (codes.map fun c => (c, feeds c))
  let s := (s.storeBatch w false ws).freeRing (kegKeys from'.flatten)
  s.countNarrow (ps.length * d.esize)

/-- NARROW_PATH_ACCESS (R147, R385): refused to the debug port outside its set; the symbol code may correct Keg words, or find some beyond
correction (R203). -/
def execNarrowPathAccess (owner : NarrowOwner) (src dst : BitVec 512) (kegFixed kegLost : List FixedWord) (s : State) : Out :=
  .next (
    if !s.alive then s
    else if s.narrowOn owner then ((s.kegCorrected kegFixed).kegLost kegLost).narrowCopy owner (descOf src) (descOf dst)
    else if owner = .debug then s.dbgRefuse
    else s)

end Sys2Proof.Machine
end

