-- ==== Sys2Proof/Machine/Dispatch.lean ====
section
/-!
DEFINITION. Sys2Proof/Machine/Dispatch.lean: one arm per command, in the order of the opcode table.
-/
namespace Sys2Proof.Machine

/-- The effect of a command on everything but the queue of waiting commands. -/
def exec (i : Instr) (s : State) : Host.Outcome State Fault Refusal :=
  match i with
  | .registerWrite addr value src => Sys2Proof.Machine.execRegisterWrite addr value src s
  | .slowReadReturn phase => Sys2Proof.Machine.execSlowReadReturn phase s
  | .admit_ src => Sys2Proof.Machine.execAdmit src s
  | .admissionEnd img => Sys2Proof.Machine.execAdmissionEnd img s
  | .dispatch src => Sys2Proof.Machine.execDispatch src s
  | .unload src => Sys2Proof.Machine.execUnload src s
  | .modeProposal entry fromMc src => Sys2Proof.Machine.execModeProposal entry fromMc src s
  | .proposalArrival rank entry refused => Sys2Proof.Machine.execProposalArrival rank entry refused s
  | .prepare entry target => Sys2Proof.Machine.execPrepare entry target s
  | .modeAck rank entry target => Sys2Proof.Machine.execModeAck rank entry target s
  | .modeNak rank entry target => Sys2Proof.Machine.execModeNak rank entry target s
  | .commit => Sys2Proof.Machine.execCommit s
  | .abort => Sys2Proof.Machine.execAbort s
  | .preempt ctx src => Sys2Proof.Machine.execPreempt ctx src s
  | .contextPreempted ctx => Sys2Proof.Machine.execContextPreempted ctx s
  | .resume ctx src => Sys2Proof.Machine.execResume ctx src s
  | .doorbell ctx value src => Sys2Proof.Machine.execDoorbell ctx value src s
  | .inval src => Sys2Proof.Machine.execInval src s
  | .invalAll src => Sys2Proof.Machine.execInvalAll src s
  | .clrFlags src => Sys2Proof.Machine.execClrFlags src s
  | .retrain port src => Sys2Proof.Machine.execRetrain port src s
  | .clrCnt port src => Sys2Proof.Machine.execClrCnt port src s
  | .join src => Sys2Proof.Machine.execJoin src s
  | .leave src => Sys2Proof.Machine.execLeave src s
  | .ringLock value src => Sys2Proof.Machine.execRingLock value src s
  | .powerStateRequest target src => Sys2Proof.Machine.execPowerStateRequest target src s
  | .powerTransitionDone railsOk => Sys2Proof.Machine.execPowerTransitionDone railsOk s
  | .dozeWake cause => Sys2Proof.Machine.execDozeWake cause s
  | .coldReset viaPin src => Sys2Proof.Machine.execColdReset viaPin src s
  | .warmReset src => Sys2Proof.Machine.execWarmReset src s
  | .warmResetDone => Sys2Proof.Machine.execWarmResetDone s
  | .rtmRelease src => Sys2Proof.Machine.execRtmRelease src s
  | .powerOnReset => Sys2Proof.Machine.execPowerOnReset s
  | .porRelease feed => Sys2Proof.Machine.execPorRelease feed s
  | .firmwareVerifyEnd => Sys2Proof.Machine.execFirmwareVerifyEnd s
  | .calibrationLoad => Sys2Proof.Machine.execCalibrationLoad s
  | .vgrpWrite group value src => Sys2Proof.Machine.execVgrpWrite group value src s
  | .clusterFreqWrite cluster value src => Sys2Proof.Machine.execClusterFreqWrite cluster value src s
  | .vokChange group level => Sys2Proof.Machine.execVokChange group level s
  | .lockdown src => Sys2Proof.Machine.execLockdown src s
  | .install arg src => Sys2Proof.Machine.execInstall arg src s
  | .feedStrict src => Sys2Proof.Machine.execFeedStrict src s
  | .calDiscard src => Sys2Proof.Machine.execCalDiscard src s
  | .seal src => Sys2Proof.Machine.execSeal src s
  | .unseal src => Sys2Proof.Machine.execUnseal src s
  | .calWrite src => Sys2Proof.Machine.execCalWrite src s
  | .feedShare src => Sys2Proof.Machine.execFeedShare src s
  | .rollback arg src => Sys2Proof.Machine.execRollback arg src s
  | .securityCommandEnd => Sys2Proof.Machine.execSecurityCommandEnd s
  | .debugRequest level src => Sys2Proof.Machine.execDebugRequest level src s
  | .mcHalt halt src => Sys2Proof.Machine.execMcHalt halt src s
  | .mcStep src => Sys2Proof.Machine.execMcStep src s
  | .scan op => Sys2Proof.Machine.execScan op s
  | .testReset => Sys2Proof.Machine.execTestReset s
  | .logSelect value src => Sys2Proof.Machine.execLogSelect value src s
  | .logEntryLoaded => Sys2Proof.Machine.execLogEntryLoaded s
  | .clrCperr src => Sys2Proof.Machine.execClrCperr src s
  | .clrErrsum src => Sys2Proof.Machine.execClrErrsum src s
  | .clrPeak src => Sys2Proof.Machine.execClrPeak src s
  | .restore src => Sys2Proof.Machine.execRestore src s
  | .localHalt src => Sys2Proof.Machine.execLocalHalt src s
  | .presenceAssert => Sys2Proof.Machine.execPresenceAssert s
  | .presenceRelease => Sys2Proof.Machine.execPresenceRelease s
  | .feedIdChange level => Sys2Proof.Machine.execFeedIdChange level s
  | .throttleAssert => Sys2Proof.Machine.execThrottleAssert s
  | .throttleRelease => Sys2Proof.Machine.execThrottleRelease s
  | .tamper => Sys2Proof.Machine.execTamper s
  | .zeroiseDone => Sys2Proof.Machine.execZeroiseDone s
  | .droopEvent cluster => Sys2Proof.Machine.execDroopEvent cluster s
  | .droopEnd cluster => Sys2Proof.Machine.execDroopEnd cluster s
  | .thermAlmAssert => Sys2Proof.Machine.execThermAlmAssert s
  | .thermAlmRelease => Sys2Proof.Machine.execThermAlmRelease s
  | .thermalSample readings => Sys2Proof.Machine.execThermalSample readings s
  | .telemetryUpdate power temps => Sys2Proof.Machine.execTelemetryUpdate power temps s
  | .fractionStep cluster => Sys2Proof.Machine.execFractionStep cluster s
  | .clusterIdleGate cluster => Sys2Proof.Machine.execClusterIdleGate cluster s
  | .unitIdleGate cod => Sys2Proof.Machine.execUnitIdleGate cod s
  | .stashPush entry beat last data => Sys2Proof.Machine.execStashPush entry beat last data s
  | .recomputeBeat entry beat last data => Sys2Proof.Machine.execRecomputeBeat entry beat last data s
  | .seedBeat entry beat last data => Sys2Proof.Machine.execSeedBeat entry beat last data s
  | .microBatchOpen step mb n => Sys2Proof.Machine.execMicroBatchOpen step mb n s
  | .layerDone step mb layer => Sys2Proof.Machine.execLayerDone step mb layer s
  | .seedDone step mb => Sys2Proof.Machine.execSeedDone step mb s
  | .amaxRecord type tnum amax => Sys2Proof.Machine.execAmaxRecord type tnum amax s
  | .fxoCredit beats records => Sys2Proof.Machine.execFxoCredit beats records s
  | .microBatchStart ctx => Sys2Proof.Machine.execMicroBatchStart ctx s
  | .passIssue ctx queue pageBad => Sys2Proof.Machine.execPassIssue ctx queue pageBad s
  | .drainIssue ctx queue pageBad => Sys2Proof.Machine.execDrainIssue ctx queue pageBad s
  | .moveIssue ctx queue pageBad kegFixed kegLost => Sys2Proof.Machine.execMoveIssue ctx queue pageBad kegFixed kegLost s
  | .reduceIssue ctx queue pageBad kegFixed kegLost => Sys2Proof.Machine.execReduceIssue ctx queue pageBad kegFixed kegLost s
  | .raise ctx queue pageBad => Sys2Proof.Machine.execRaise ctx queue pageBad s
  | .wait ctx queue pageBad => Sys2Proof.Machine.execWait ctx queue pageBad s
  | .recomp ctx queue pageBad => Sys2Proof.Machine.execRecomp ctx queue pageBad s
  | .end_ ctx queue pageBad => Sys2Proof.Machine.execEnd ctx queue pageBad s
  | .entryComplete ctx queue index => Sys2Proof.Machine.execEntryComplete ctx queue index s
  | .tokenMessage rank ctx tok => Sys2Proof.Machine.execTokenMessage rank ctx tok s
  | .passStart core sideB fixed accFixed => Sys2Proof.Machine.execPassStart core sideB fixed accFixed s
  | .drainStart core sideB tile1 rows bankError accFixed => Sys2Proof.Machine.execDrainStart core sideB tile1 rows bankError accFixed s
  | .drainResume core sideB tile1 rows bankError accFixed => Sys2Proof.Machine.execDrainResume core sideB tile1 rows bankError accFixed s
  | .sidePoison core sideB cause => Sys2Proof.Machine.execSidePoison core sideB cause s
  | .reissue core sideB => Sys2Proof.Machine.execReissue core sideB s
  | .narrowPathAccess owner src dst kegFixed kegLost => Sys2Proof.Machine.execNarrowPathAccess owner src dst kegFixed kegLost s
  | .stackReadResponse port tag err units => Sys2Proof.Machine.execStackReadResponse port tag err units s
  | .stackWriteResponse port tag err => Sys2Proof.Machine.execStackWriteResponse port tag err s
  | .stackPortTimeout port => Sys2Proof.Machine.execStackPortTimeout port s
  | .reductionComplete coll => Sys2Proof.Machine.execReductionComplete coll s
  | .updateLayerStart unit => Sys2Proof.Machine.execUpdateLayerStart unit s
  | .updateBlockDone unit corrected uncorrectable fed => Sys2Proof.Machine.execUpdateBlockDone unit corrected uncorrectable fed s
  | .partialNorm rank p => Sys2Proof.Machine.execPartialNorm rank p s
  | .clipToken c nf => Sys2Proof.Machine.execClipToken c nf s
  | .narrowWeightEmission layer peers => Sys2Proof.Machine.execNarrowWeightEmission layer peers s
  | .weightsSend layer pieces => Sys2Proof.Machine.execWeightsSend layer pieces s
  | .stepCompleteReport => Sys2Proof.Machine.execStepCompleteReport s
  | .stepReport r => Sys2Proof.Machine.execStepReport r s
  | .epochToken t => Sys2Proof.Machine.execEpochToken t s
  | .halt step fault => Sys2Proof.Machine.execHalt step fault s
  | .frameReceive port f cut => Sys2Proof.Machine.execFrameReceive port f cut s
  | .frameForward port => Sys2Proof.Machine.execFrameForward port s
  | .ackTimer port => Sys2Proof.Machine.execAckTimer port s
  | .ackTimeout port => Sys2Proof.Machine.execAckTimeout port s
  | .retrainEnd port o => Sys2Proof.Machine.execRetrainEnd port o s
  | .bringupStageDone port credits => Sys2Proof.Machine.execBringupStageDone port credits s
  | .bringupStageTimeout port reordered => Sys2Proof.Machine.execBringupStageTimeout port reordered s
  | .hello port h => Sys2Proof.Machine.execHello port h s
  | .collectiveSegment g => Sys2Proof.Machine.execCollectiveSegment g s
  | .remoteReadRequest r kegFixed kegLost => Sys2Proof.Machine.execRemoteReadRequest r kegFixed kegLost s
  | .remoteReadResponse r => Sys2Proof.Machine.execRemoteReadResponse r s
  | .remoteWrite w => Sys2Proof.Machine.execRemoteWrite w s
  | .staleResponse rank holder desc part expect found => Sys2Proof.Machine.execStaleResponse rank holder desc part expect found s
  | .reshardTransfer rank slot round data bad tag => Sys2Proof.Machine.execReshardTransfer rank slot round data bad tag s
  | .reshardRoundMessage m => Sys2Proof.Machine.execReshardRoundMessage m s
  | .partnerMirror rank m => Sys2Proof.Machine.execPartnerMirror rank m s
  | .heartbeat => Sys2Proof.Machine.execHeartbeat s
  | .partnerLost => Sys2Proof.Machine.execPartnerLost s
  | .bushelTransfer rank m => Sys2Proof.Machine.execBushelTransfer rank m s
  | .snapshotDone => Sys2Proof.Machine.execSnapshotDone s
  | .snapshotDoneReport rank step failed shard parity => Sys2Proof.Machine.execSnapshotDoneReport rank step failed shard parity s
  | .snapshotSeal step t skip => Sys2Proof.Machine.execSnapshotSeal step t skip s
  | .abandon step => Sys2Proof.Machine.execAbandon step s
  | .restorePhaseEnd rank phase ok round steps mirror => Sys2Proof.Machine.execRestorePhaseEnd rank phase ok round steps mirror s
  | .codewordLockLoss port => Sys2Proof.Machine.execCodewordLockLoss port s
  | .resetNRelease feed => Sys2Proof.Machine.execResetNRelease feed s
  | .hardwareComparatorTrip crossed => Sys2Proof.Machine.execHardwareComparatorTrip crossed s

end Sys2Proof.Machine
end

