-- ==== Sys2Proof/WellFormed.lean ====
section
/-!
DEFINITION. Sys2Proof/WellFormed.lean: which operands of a command can be presented at the engine's interfaces: field widths of the
registers, the signals of Table 14.1 and the messages, and the lengths of what carries data.
-/
namespace Sys2Proof

/-- A control-port address: bits [23:0], the low three not driven (Table 14.1). -/
def wfAddr (a : Nat) : Bool := decide (a < 2 ^ 24)

/-- A context number (R293). -/
def wfCtx (c : Nat) : Bool := decide (c < 64)

/-- A queue of a context: one control queue and at most 256 side queues (R285). -/
def wfQueue (q : Nat) : Bool := decide (q < 257)

/-- A Furlong port (R244). -/
def wfPort (n : Nat) : Bool := decide (n < 16)

/-- A stack port (R214). -/
def wfStack (n : Nat) : Bool := decide (n < 24)

/-- A rank (R241). -/
def wfRank (r : Nat) : Bool := decide (r < 1024)

/-- A core. -/
def wfCore (k : Nat) : Bool := decide (k < 128)

/-- A step number: 32 bits (R297). -/
def wfStep (n : Nat) : Bool := decide (n < 2 ^ 32)

/-- A micro-batch number on FX: 12 bits (R199). -/
def wfMb (m : Nat) : Bool := decide (m < 4096)

/-- A beat of FX data: 256 bytes (Table 14.4). -/
def wfBeat (entry beat : Nat) (data : List Byte) : Bool :=
  decide (entry < 65536) && decide (beat < 2 ^ 24) && decide (data.length = 256)

/-- A corrected operand-buffer word: bank below 32, line below 1,536 (R77). -/
def wfFixed (f : FixedWord) : Bool := decide (f.bank < 64) && decide (f.line < 131072)

/-- A frame: 5,120 data bytes (R246). -/
def wfFrame (f : Frame) : Bool := decide (f.data.length = 5120)

/-- A sensor reading: 10 bits, two's complement (Table 15.17). -/
def wfTemp (t : Int) : Bool := decide (-512 ≤ t) && decide (t < 512)

/-- Whether the operands of a command can be presented. -/
def Instr.wellFormed : Instr → Bool
  | .registerWrite addr _ _ => wfAddr addr
  | .slowReadReturn phase => match phase with | .accepted addr tag _ => wfAddr addr && decide (tag < 16) | .returned => true
  | .admit_ _ | .dispatch _ | .unload _ => true
  | .admissionEnd _ => true
  | .modeProposal entry _ _ => decide (entry < 65536)
  | .proposalArrival rank entry _ => wfRank rank && decide (entry < 65536)
  | .prepare entry target => decide (entry < 65536) && wfStep target
  | .modeAck rank entry target | .modeNak rank entry target => wfRank rank && decide (entry < 65536) && wfStep target
  | .commit | .abort => true
  | .preempt ctx _ | .contextPreempted ctx | .resume ctx _ | .doorbell ctx _ _ => wfCtx ctx
  | .inval _ | .invalAll _ | .clrFlags _ => true
  | .retrain port _ | .clrCnt port _ => wfPort port
  | .join _ | .leave _ | .ringLock _ _ => true
  | .powerStateRequest target _ => decide (target < 8)
  | .powerTransitionDone _ | .dozeWake _ => true
  | .coldReset _ _ | .warmReset _ | .warmResetDone | .rtmRelease _ | .powerOnReset | .porRelease _ => true
  | .firmwareVerifyEnd | .calibrationLoad => true
  | .vgrpWrite group _ _ => decide (group < 4)
  | .clusterFreqWrite cluster _ _ => decide (cluster < 8)
  | .vokChange group _ => decide (group < 4)
  | .lockdown _ | .feedStrict _ | .calDiscard _ | .seal _ | .unseal _ | .calWrite _ | .feedShare _ => true
  | .install arg _ | .rollback arg _ => decide (arg < 2 ^ 24)
  | .securityCommandEnd => true
  | .debugRequest level _ => decide (level < 4)
  | .mcHalt _ _ | .mcStep _ | .scan _ | .testReset => true
  | .logSelect _ _ | .logEntryLoaded | .clrCperr _ | .clrErrsum _ | .clrPeak _ => true
  | .restore _ | .localHalt _ => true
  | .presenceAssert | .presenceRelease | .feedIdChange _ | .throttleAssert | .throttleRelease | .tamper | .zeroiseDone => true
  | .droopEvent cluster => match cluster with | some c => decide (c < 8) | none => true
  | .droopEnd cluster => decide (cluster < 8)
  | .thermAlmAssert | .thermAlmRelease => true
  | .thermalSample readings => decide (readings.length = 40) && readings.all wfTemp
  | .telemetryUpdate power temps => decide (power.clusters.length = 8) && decide (temps.length = 40) && temps.all wfTemp
  | .fractionStep cluster => match cluster with | some c => decide (c < 8) | none => true
  | .clusterIdleGate cluster => decide (cluster < 8)
  | .unitIdleGate _ => true
  | .stashPush entry beat _ data | .recomputeBeat entry beat _ data | .seedBeat entry beat _ data => wfBeat entry beat data
  | .microBatchOpen step mb n => wfStep step && wfMb mb && decide (n < 2 ^ 21)
  | .layerDone step mb layer => wfStep step && wfMb mb && decide (layer < 4096)
  | .seedDone step mb => wfStep step && wfMb mb
  | .amaxRecord type tnum _ => decide (type = 0 ∨ 4 ≤ type) && decide (type < 16) && decide (tnum < 16384)
  | .fxoCredit beats records => decide (beats < 65536) && decide (records < 65536)
  | .microBatchStart ctx => wfCtx ctx
  | .passIssue ctx queue _ | .drainIssue ctx queue _ | .raise ctx queue _ | .wait ctx queue _
  | .recomp ctx queue _ | .end_ ctx queue _ => wfCtx ctx && wfQueue queue
  | .moveIssue ctx queue _ kegFixed kegLost | .reduceIssue ctx queue _ kegFixed kegLost => wfCtx ctx && wfQueue queue && kegFixed.all wfFixed && kegLost.all wfFixed
  | .entryComplete ctx queue index => wfCtx ctx && wfQueue queue && decide (index < 2 ^ 24)
  | .tokenMessage rank ctx tok => wfRank rank && wfCtx ctx && decide (tok < 4096)
  | .passStart core _ fixed _ => wfCore core && fixed.all wfFixed
  | .drainStart core _ _ rows _ _ | .drainResume core _ _ rows _ _ => wfCore core && decide (rows ≤ 128)
  | .sidePoison core _ _ | .reissue core _ => wfCore core
  | .narrowPathAccess _ _ _ kegFixed kegLost => kegFixed.all wfFixed && kegLost.all wfFixed
  | .stackReadResponse port tag _ units => wfStack port && decide (tag < 1024) && units.all fun u => decide (u.length = 64)
  | .stackWriteResponse port tag _ => wfStack port && decide (tag < 1024)
  | .stackPortTimeout port => wfStack port
  | .reductionComplete coll => decide (coll < 2 ^ 20)
  | .updateLayerStart unit => decide (unit < 16)
  | .updateBlockDone unit _ uncorrectable fed => decide (unit < 16) && (decide (0 < uncorrectable) || fed.isEmpty) && fed.all fun a => decide (a < 16384)
  | .partialNorm rank _ => wfRank rank
  | .clipToken _ _ => true
  | .narrowWeightEmission layer peers => decide (layer < 4096) && peers.all fun p => wfRank p.1
  | .weightsSend layer pieces => decide (layer < 4096) && pieces.all fun p => decide (p.1 < 1024)
  | .stepCompleteReport => true
  | .stepReport r => wfRank r.rank && wfStep r.step
  | .epochToken t => wfStep t.step
  | .halt step fault => wfStep step && decide (fault < 16)
  | .frameReceive port f _ => wfPort port && wfFrame f
  | .frameForward port | .ackTimer port | .ackTimeout port | .codewordLockLoss port => wfPort port
  | .retrainEnd port _ | .bringupStageTimeout port _ => wfPort port
  | .bringupStageDone port credits => wfPort port && decide (credits.length = 4)
  | .hello port h => wfPort port && wfRank h.rank && wfPort h.port
  | .collectiveSegment g => decide (g.coll < 2 ^ 20)
  | .remoteReadRequest r kegFixed kegLost => wfRank r.rank && kegFixed.all wfFixed && kegLost.all wfFixed
  | .remoteReadResponse r => wfRank r.rank
  | .remoteWrite w => wfRank w.rank
  | .staleResponse rank holder desc part expect found =>
    wfRank rank && decide (desc < 2 ^ 20) && decide (part < 65536) && decide (holder < 8192) && decide (expect < 65536) && decide (found < 65536)
  | .reshardTransfer rank _ round _ _ tag => wfRank rank && decide (round < 65536) && decide (tag < 65536)
  | .reshardRoundMessage _ => true
  | .partnerMirror rank _ => wfRank rank
  | .heartbeat | .partnerLost => true
  | .bushelTransfer rank _ => wfRank rank
  | .snapshotDone => true
  | .snapshotDoneReport rank step _ shard parity => wfRank rank && wfStep step && decide (shard < 2 ^ 384) && decide (parity < 2 ^ 384)
  | .snapshotSeal step _ _ => wfStep step
  | .abandon step => wfStep step
  | .restorePhaseEnd rank phase _ _ _ _ => wfRank rank && decide (phase < 16)
  | .resetNRelease _ => true
  | .hardwareComparatorTrip _ => true

end Sys2Proof
end

