-- ==== Sys2Proof/Safety.lean ====
section
/-!
DEFINITION. Sys2Proof/Safety.lean: what counts as a safe run, and the terms in which claims speak: which writes are
accepted, and what two states share.
-/
namespace Sys2Proof

/-- Every command that waits can be presented. -/
def Machine.State.queueWellFormed (s : Machine.State) : Bool := s.pending.all Instr.wellFormed

/-- A run of k steps from s that meets no fault and no refusal. -/
def SafeRun (k : Nat) (s : Machine.State) : Prop := ∃ t, core.run k s = .next t

namespace Machine

/-! ## Terms in which claims speak -/

/-- A write of register k of unit u from a source takes effect (R9, R354, R368, R377, R384, R395). -/
def State.accepts (s : State) (src : Src) (k : RegKind) (u : Nat) : Bool :=
  s.alive && (src == .cp || decide (2 ≤ s.debugLevel) || k == .dbgCtrl) && !regAbsent s.conf k u &&
    (decide (s.power ≤ 1) || regAon k) &&
    (!(decide (s.security = secLockdown) || s.flag secStateZpend 0) || regBlock k == 11 || regBlock k == 12 || regBlock k == 14)

/-- The registers that no command hangs on: a write acts on each field under its access code alone. -/
def plainRegister (k : RegKind) : Bool :=
  !([RegKind.cfgCtrl, .cfgMprop, .seqCtrl, .seqDoorbell, .sclScale, .sclCtrl, .mapRing, .furCtrl, .snpCtrl, .pwrCtrl, .pwrReset, .pwrThrot,
    .pwrPace, .pwrTherm, .pwrClk, .pwrVgrp, .secCmd, .secPcmd, .secPolicy, .dbgCtrl, .calStage, .mgtLogSel, .mgtCtrl].contains k)

/-- Every field of the register map but the named ones, each with its unit, reads as before. -/
def State.keepsFields (s t : State) (l : List (Fld × Nat)) : Prop :=
  ∀ k, ∀ f ∈ regFields k, ∀ u, u < 1024 → (f, u) ∉ l → t.fld f u = s.fld f u

/-- Nothing but register words differs. -/
def State.onlyRegs (s t : State) : Prop := t = { s with regs := t.regs }

/-- Nothing but register words and the event log differs. -/
def State.onlyRegsLog (s t : State) : Prop := t = { s with regs := t.regs, log := t.log }

/-- No byte of attached memory or of an SRAM space differs, and no word's poison. -/
def State.keepsMemory (s t : State) : Prop :=
  t.mem = s.mem ∧ t.keg = s.keg ∧ t.obuf = s.obuf ∧ t.ubuf = s.ubuf ∧ t.bad = s.bad

/-- Every register but those of the named kinds has its word as before. -/
def State.keepsKinds (s t : State) (l : List RegKind) : Prop := ∀ k, k ∉ l → ∀ u, t.word k u = s.word k u

/-- No byte of attached memory or of an SRAM space differs outside the units and words with the given codes, and no word
outside them changes its poison. -/
def State.keepsOutside (s t : State) (codes : List Nat) : Prop :=
  (∀ k, (∀ e, s.keyAddr k = some e → e / 64 ∉ codes) → cellGet byteZero t.mem k = cellGet byteZero s.mem k) ∧
    (∀ sp ∈ [1, 2, 3], ∀ k, 2 ^ 40 * sp + k / 32 ∉ codes →
      cellGet byteZero (t.sram sp) k = cellGet byteZero (s.sram sp) k) ∧
    ∀ c, c ∉ codes → (c ∈ t.bad ↔ c ∈ s.bad)

/-- Attached memory across a reset (R360): every byte stands, but of a write not yet answered, which may come to nothing, it may be the byte
before it. -/
def State.resetKeeps (s t : State) : Prop :=
  (s.openWrites = [] → t.mem = s.mem) ∧
    ∀ k, cellGet byteZero t.mem k = cellGet byteZero s.mem k ∨
      ∃ w ∈ s.openWrites, ∃ p ∈ w.parts, p.1 ≤ k ∧ k < p.1 + p.2.length ∧ cellGet byteZero t.mem k = p.2.getD (k - p.1) 0

/-- No message, record or phase waits for the answers of memory: what a response of a stack port would release. -/
def State.noneWaits (s : State) : Bool :=
  s.chain.answers.isEmpty && (!s.holdMode || s.upd.localSent) && s.snp.sealing.isNone && !s.snp.restore.waiting &&
    s.snp.fill.serves.isEmpty && s.snp.fill.verdict.isNone && !s.snp.fill.loading && s.chain.journal.isNone

/-- Every table of the state has the entries that its unit numbers run over: contexts, sides, tiles, stack ports, movers, Furlong ports,
clusters, voltage groups, FX classes. -/
def State.sized (s : State) : Bool :=
  s.ctxs.length == 64 && s.sides.length == 256 && s.tiles.length == 512 && s.sp.length == 24 && s.movers.length == 16 &&
    s.fur.length == 16 && s.pwr.clusters.length == 8 && s.pwr.prevVreq.length == 4 && s.fx.credits.length == 4

end Machine

end Sys2Proof
end

