-- ==== Sys2Proof/Certificates/Slice0/Obligations.lean ====
section
/-!
DEFINITION. Sys2Proof/Certificates/Slice0/Obligations.lean: the statements for the provers, one definition each. Where a next state is named,
everything it does not mention is as before, or the statement says what may differ.
-/
open Sys2Proof Sys2Proof.Machine

/-! ## The block as a whole -/

/-- A step with a command at the front of the queue is that command on the state with the queue's rest.
A step on an empty queue is an AON cycle (R429; the tick is the model's choice, log entry 21): TIME counts by one and wraps at
its 56 bits, no memory changes, and nothing at all while power-on reset is held. -/
def Obligations.StepRunsFrontCommandOrIdles : Prop :=
  (∀ (c : Instr) (rest : List Instr) (s : State), s.pending = c :: rest → core.step s = exec c { s with pending := rest }) ∧
  (∀ s : State, s.wf = true → s.pending = [] →
    ∃ t, core.step s = .next t ∧ t.pending = [] ∧ s.keepsMemory t ∧ (s.boot = .porHeld → t = s) ∧
      (s.boot ≠ .porHeld → t.fld mgtTimeTime 0 = (s.fld mgtTimeTime 0 + 1) % 2 ^ 56))

/-- After reset (R358, R359, R6): no command waits, every field reads the reset value of its table (CODED reads 1 in regions 1 to 6), attached
memory and every SRAM space list nothing, no image is loaded, and the state is canonical, with every table at its length.
The configuration and the held power-on reset (log entry 1), a nonvolatile store as it leaves the factory (log entry 3), attached memory that lists
nothing (log entry 5), and FEED_ID and FEED_NOW at 0 before the first sample (log entry 7) are the model's choices. -/
def Obligations.ResetState : Prop :=
  core.reset.pending = [] ∧ core.reset.boot = .porHeld ∧ core.reset.conf = .e128 ∧ core.reset.image = none ∧
    core.reset.epoch = 0 ∧ (∀ k, ∀ f ∈ regFields k, ∀ u, u < 1024 →
      core.reset.fld f u = if f = cfgRegionCoded ∧ u ≠ 0 then 1 else f.reset) ∧
    core.reset.mem = [] ∧ core.reset.keg = [] ∧
    core.reset.obuf = [] ∧ core.reset.ubuf = [] ∧ core.reset.bad = [] ∧ core.reset.wf = true ∧ core.reset.sized = true

/-- Every step keeps the canonical form of attached memory, the SRAM spaces, the register words and the token counts; and every step keeps
the number of entries of each table: contexts, sides, tiles, stack ports, movers, Furlong ports, clusters, voltage groups, FX classes. -/
def Obligations.StepKeepsCanonicalForm : Prop :=
  (∀ s t : State, s.wf = true → core.step s = .next t → t.wf = true) ∧
    ∀ s t : State, s.sized = true → core.step s = .next t → t.sized = true

/-- No command changes the configuration of the part, and none touches the queue of waiting commands.
A command whose operands can be presented always answers a next state, in every state, also where its event cannot happen (the model's
interface, log entry 9); no command is refused, and a fault is always that of operands that cannot be presented (log entry 10). -/
def Obligations.CommandsCompleteAndKeepTheQueue : Prop :=
  (∀ (c : Instr) (s t : State), exec c s = .next t → t.conf = s.conf ∧ t.pending = s.pending) ∧
  (∀ (c : Instr) (s : State), (c.wellFormed = true → ∃ t, exec c s = .next t) ∧ (∀ r, exec c s ≠ .refused r) ∧
    ∀ e, exec c s = .fault e → e = .illFormed ∧ c.wellFormed = false)

/-! ## Registers -/

/-- The engine's write of a field of the register map (R16, R422): the field reads the value cut to its width, every other
field of every register reads as before, and nothing but register words differs.
An accepted REGISTER_WRITE of a register without commands (R16, R439): RW takes the value; W1C clears the bits
written 1; RO stays; RWL takes it unless its lock holds; other registers keep every field but the
counts of discarded writes. -/
def Obligations.WritesOfFields : Prop :=
  (∀ (s : State) (k : RegKind) (f : Fld) (u v : Nat), s.wf = true → f ∈ regFields k → u < 1024 →
    (s.setFld f u v).fld f u = v % 2 ^ f.width ∧ s.keepsFields (s.setFld f u v) [(f, u)] ∧ s.onlyRegs (s.setFld f u v) ∧
      (s.setFld f u v).wf = true) ∧
  (∀ (s : State) (addr : Nat) (v : Word) (src : Src) (k : RegKind) (u : Nat), s.wf = true → regAt addr = some (k, u) →
    plainRegister k = true → s.accepts src k u = true →
    ∃ t, exec (.registerWrite addr v src) s = .next t ∧ s.onlyRegsLog t ∧
      (∀ f ∈ regFields k, (f, u) ≠ (mgtCperrLocked, 0) → (f, u) ≠ (mgtLogStatusDropped, 0) →
        (f.access = .rw → t.fld f u = fldGet f v) ∧
        (f.access = .ro → t.fld f u = s.fld f u) ∧
        (f.access = .w1c → ∀ i, (t.fld f u).testBit i = ((s.fld f u).testBit i && !(fldGet f v).testBit i)) ∧
        (f.access = .rwl → t.fld f u = if s.blocked f then s.fld f u else fldGet f v)) ∧
      (∀ j, j ≠ k → ∀ g ∈ regFields j, ∀ w, w < 1024 → (g, w) ≠ (mgtCperrLocked, 0) → (g, w) ≠ (mgtLogStatusDropped, 0) →
        t.fld g w = s.fld g w) ∧
      ((∀ f ∈ regFields k, s.refusesFld f u v = false) → t.log = s.log ∧ (k ≠ .mgtCperr → t.fld mgtCperrLocked 0 = s.fld mgtCperrLocked 0)) ∧
      ((∃ f ∈ regFields k, s.refusesFld f u v = true) → k ≠ .mgtCperr →
        t.fld mgtCperrLocked 0 = min (s.fld mgtCperrLocked 0 + 1) 65535))

/-- Which writes of a register have no effect of their own (R9, R354, R368, R377, R384, R395, R423): before CP_ALIVE nothing changes; the TAP
below Intrusive is refused, and counted in CPERR.STATE, but for DBG.CTRL; a bank of an absent resource discards, and its read returns
zero; in Lockdown, or while ZPEND is set, a write outside PWR, SEC/DBG and MGT is recorded and counted, in every power state; else, outside
the AON island, a write in Sleep or Hibernate counts in CPERR.STATE alone.
A write at an address that names no register is discarded and counted (R419). -/
def Obligations.DiscardedAndUnmappedWrites : Prop :=
  (∀ (s : State) (addr : Nat) (v : Word) (src : Src) (k : RegKind) (u : Nat), regAt addr = some (k, u) →
    (s.alive = false → exec (.registerWrite addr v src) s = .next s) ∧
    (s.alive = true → src = .tap → s.debugLevel < 2 → k ≠ .dbgCtrl → exec (.registerWrite addr v src) s = .next (s.dbgRefuse.bump mgtCperrState 0 1)) ∧
    (regAbsent s.conf k u = true → s.read k u = 0 ∧ (src = .cp → exec (.registerWrite addr v src) s = .next s)) ∧
    (s.alive = true → src = .cp → regAbsent s.conf k u = false → s.security ≠ secLockdown → s.flag secStateZpend 0 = false → 2 ≤ s.power →
      regAon k = false → exec (.registerWrite addr v src) s = .next (s.bump mgtCperrState 0 1)) ∧
    (s.alive = true → src = .cp → regAbsent s.conf k u = false →
      (s.security = secLockdown ∨ s.flag secStateZpend 0 = true) → regBlock k ≠ 11 → regBlock k ≠ 12 → regBlock k ≠ 14 →
      exec (.registerWrite addr v src) s = .next ((s.logEv 0x0202 (regBlock k) 0 (regAddr k u)).bump mgtCperrState 0 1))) ∧
  (∀ (s : State) (addr : Nat) (v : Word), s.wf = true → regAt addr = none → s.alive = true →
    ∃ t, exec (.registerWrite addr v .cp) s = .next t ∧
      t.fld mgtCperrUnmapped 0 = min (s.fld mgtCperrUnmapped 0 + 1) 65535 ∧ s.keepsFields t [(mgtCperrUnmapped, 0)] ∧ s.onlyRegs t)

/-- An accepted write of a register that acts on one command bit (R424): with two of them at 1 none acts, the event 0x0209 is recorded with the
address and the value's low 40 bits, and CPERR.STATE counts; with one alone it is that command.
An accepted write of PWR.THROT, PWR.PACE or PWR.THERM (R348, R352, R353): each field under its access code, and the caps it sets act at once on
every clock that runs. One of SEC.POLICY (R371, R439): ZERO_MEM is written under PRESENCE, and the record is to be written when it changes; without
PRESENCE a changed value is discarded and counted. One of CAL.STAGE (R389) stages the word that CAL.SEL names. -/
def Obligations.WritesOfCommandRegisters : Prop :=
  (∀ (s : State) (addr : Nat) (v : Word) (src : Src) (k : RegKind) (u : Nat), s.wf = true → regAt addr = some (k, u) → s.accepts src k u = true →
    (k ∈ [RegKind.cfgCtrl, .seqCtrl, .snpCtrl, .pwrReset] →
      ∀ f ∈ regFields k, ∀ g ∈ regFields k, f ≠ g → f.access = .wo → g.access = .wo → fldGet f v = 1 → fldGet g v = 1 →
        ∃ t, exec (.registerWrite addr v src) s = .next t ∧ s.onlyRegsLog t ∧
          t.fld mgtCperrState 0 = min (s.fld mgtCperrState 0 + 1) 65535 ∧ s.keepsFields t [(mgtCperrState, 0), (mgtLogStatusDropped, 0)] ∧
          t.log = (s.logEv 0x0209 (regBlock k) 0 (regAddr k u + 2 ^ 24 * (v.toNat % 2 ^ 40))).log) ∧
    (∀ c f, (f, c) ∈ [(cfgCtrlAdmit, Instr.admit_ src), (cfgCtrlDispatch, .dispatch src), (cfgCtrlUnload, .unload src),
        (seqCtrlPreempt, .preempt u src), (seqCtrlResume, .resume u src), (snpCtrlRestore, .restore src), (snpCtrlLocalHalt, .localHalt src),
        (pwrResetCold, .coldReset false src), (pwrResetWarm, .warmReset src), (pwrResetRtmRelease, .rtmRelease src)] →
      f.kind = k → fldGet f v = 1 → (∀ g ∈ regFields k, g.access = .wo → g ≠ f → fldGet g v ≠ 1) →
      exec (.registerWrite addr v src) s = exec c s)) ∧
  (∀ (s : State) (addr : Nat) (v : Word) (src : Src) (k : RegKind), s.wf = true → regAt addr = some (k, 0) →
    k ∈ [RegKind.pwrThrot, .pwrPace, .pwrTherm] → s.accepts src k 0 = true →
    ∃ t, exec (.registerWrite addr v src) s = .next t ∧ t = { s with regs := t.regs, pwr := { s.pwr with updN := t.pwr.updN } } ∧
      (∀ f ∈ regFields k, (f.access = .rw → t.fld f 0 = fldGet f v) ∧ (f.access = .ro → t.fld f 0 = s.fld f 0) ∧
        (f.access = .w1c → ∀ i, (t.fld f 0).testBit i = ((s.fld f 0).testBit i && !(fldGet f v).testBit i))) ∧
      (∀ c, c < Config.clusters s.conf → t.clusterN c = if s.clockOn c then min (s.clusterN c) (t.nLimit c) else s.clusterN c) ∧
      t.pwr.updN = (if s.clocksOn && !s.pwr.updGated then min s.pwr.updN t.capLimit else s.pwr.updN) ∧
      s.keepsFields t ((regFields k).map (·, 0) ++ (List.range 8).map (pwrClkNM1, ·))) ∧
  (∀ (s : State) (addr : Nat) (v : Word) (src : Src), s.wf = true → regAt addr = some (.secPolicy, 0) → s.accepts src .secPolicy 0 = true →
    (s.flag secStatePresence 0 = true →
      ∃ t, exec (.registerWrite addr v src) s = .next t ∧ t.fld secPolicyZeroMem 0 = fldGet secPolicyZeroMem v ∧
        t = { s with regs := t.regs, sec := { s.sec with recPend := t.sec.recPend } } ∧ s.keepsFields t [(secPolicyZeroMem, 0)] ∧
        t.sec.recPend = (s.sec.recPend || decide (fldGet secPolicyZeroMem v ≠ s.fld secPolicyZeroMem 0))) ∧
    (s.flag secStatePresence 0 = false →
      ∃ t, exec (.registerWrite addr v src) s = .next t ∧ s.onlyRegsLog t ∧ s.keepsFields t [(mgtCperrLocked, 0), (mgtLogStatusDropped, 0)] ∧
        t.fld mgtCperrLocked 0 = (if fldGet secPolicyZeroMem v = s.fld secPolicyZeroMem 0 then s.fld mgtCperrLocked 0
          else min (s.fld mgtCperrLocked 0 + 1) 65535))) ∧
  (∀ (s : State) (addr : Nat) (v : Word) (src : Src), regAt addr = some (.calStage, 0) → s.accepts src .calStage 0 = true →
    exec (.registerWrite addr v src) s =
      .next { s with sec := { s.sec with calStage := cellSet (fun _ => 0) s.sec.calStage (s.fld calSelWord 0) v } })

/-! ## The event log, counters, telemetry, the strap -/

/-- An event reaches the log's writer (R431): a repeat adds 1 to the newest entry's REPEAT, up to 65,535, and to nothing else; into a
full queue it is lost and counted; otherwise it takes the next SEQ, with TIME, its place and ARG, behind the entries already queued. -/
def Obligations.EventReachesTheLog : Prop :=
  ∀ (s : State) (code block unit side arg : Nat), s.wf = true →
    (s.logRepeats code block unit side = true → s.logSide code block unit side arg = { s with log := s.log.fold } ∧
      ∃ e, s.log.newest = some e ∧ s.log.fold.newest = some { e with rep := min (e.rep + 1) 65535 } ∧
        s.log.fold.queue.length = s.log.queue.length ∧ s.log.fold.ring.length = s.log.ring.length) ∧
    (s.logRepeats code block unit side = false → 32 ≤ s.log.queue.length →
      s.logSide code block unit side arg = s.bump mgtLogStatusDropped 0 1) ∧
    (s.logRepeats code block unit side = false → s.log.queue.length < 32 →
      ∃ e, s.logSide code block unit side arg =
          { s with log := { s.log with queue := s.log.queue ++ [e], lastSeq := seqNext s.log.lastSeq } } ∧
        e.seq = seqNext s.log.lastSeq ∧ e.code = code ∧ e.rep = 0 ∧ e.time = s.fld mgtTimeTime 0 ∧ e.block = block ∧
        e.unit = unit ∧ e.side = side ∧ e.arg = arg)

/-- CLR_CPERR, CLR_ERRSUM and CLR_PEAK (R437): each clears its counters, or every PEAK and MAX field of the MGT block, and nothing else. -/
def Obligations.MgtClears : Prop :=
  ∀ (s : State) (src : Src), s.wf = true → s.accepts src .mgtCtrl 0 = true →
    (∃ t, exec (.clrCperr src) s = .next t ∧ (∀ f ∈ regFields .mgtCperr, t.fld f 0 = 0) ∧
      s.keepsFields t ((regFields .mgtCperr).map (·, 0)) ∧ s.onlyRegs t) ∧
    (∃ t, exec (.clrErrsum src) s = .next t ∧ (∀ f ∈ regFields .mgtErrsum, t.fld f 0 = 0) ∧
      s.keepsFields t ((regFields .mgtErrsum).map (·, 0)) ∧ s.onlyRegs t) ∧
    (∃ t, exec (.clrPeak src) s = .next t ∧ t.fld mgtPwrTotalPeak 0 = 0 ∧ (∀ k, k < 40 → t.fld mgtTempMax k = 0) ∧
      (∀ c, c < Config.clusters s.conf → t.fld mgtClpwrPeak c = 0) ∧
      s.keepsFields t ((mgtPwrTotalPeak, 0) :: (List.range 40).map (mgtTempMax, ·) ++ (List.range 8).map (mgtClpwrPeak, ·)) ∧ s.onlyRegs t)

/-- TELEMETRY_UPDATE (R436, R386): while the controller runs, the block's average, its peak and its energy, which wraps at 2^38; each cluster's average, which reads
0 in Sleep and Hibernate, its peak and its energy, which wraps at 2^44; each present sensor's reading and the highest of its readings; an absent
sensor's fields stay. A halted controller updates nothing.
FEED_ID_CHANGE (R426, R407): FEED_NOW follows the pins, FEED_ID stays; where the two differ, CHANGED is set and the event recorded; a level
that the pins have already shown changes nothing. -/
def Obligations.TelemetryAndFeedId : Prop :=
  (∀ (s : State) (p : PowerSample) (temps : List Int), s.wf = true → s.alive = true → p.clusters.length = 8 → temps.length = 40 →
    (s.mcHalted = true → exec (.telemetryUpdate p temps) s = .next s) ∧
    (s.mcHalted = false →
      ∃ t, exec (.telemetryUpdate p temps) s = .next t ∧ s.onlyRegs t ∧ t.fld mgtPwrTotalAvg 0 = min p.total 8191 ∧
        t.fld mgtPwrTotalPeak 0 = max (min p.total 8191) (s.fld mgtPwrTotalPeak 0) ∧
        t.fld mgtPwrTotalEnergy 0 = (s.fld mgtPwrTotalEnergy 0 + p.energy) % 2 ^ 38 ∧
        (∀ c, c < Config.clusters s.conf → t.fld mgtClpwrAvg c = (if 2 ≤ s.power then 0 else min (p.clusters.getD c (0, 0)).1 1023) ∧
          t.fld mgtClpwrPeak c = max (t.fld mgtClpwrAvg c) (s.fld mgtClpwrPeak c) ∧
          t.fld mgtClpwrEnergy c = (s.fld mgtClpwrEnergy c + (p.clusters.getD c (0, 0)).2) % 2 ^ 44) ∧
        (∀ k, k < 40 → Config.sensorPresent s.conf k = true → t.fld mgtTempTemp k = twos 10 (temps.getD k 0) ∧
          t.fld mgtTempMax k = twos 10 (max (temps.getD k 0) (signed 10 (s.fld mgtTempMax k)))) ∧
        s.keepsFields t ((regFields .mgtPwrTotal).map (·, 0) ++ (List.range 8).flatMap (fun c => (regFields .mgtClpwr).map (·, c)) ++
          ((List.range 40).filter (Config.sensorPresent s.conf)).flatMap fun k => [(mgtTempTemp, k), (mgtTempMax, k)]))) ∧
  (∀ (s : State) (level : BitVec 4), s.wf = true → s.aonRuns = true → s.fld idStrapFeedNow 0 ≠ level.toNat →
    ∃ t, exec (.feedIdChange level) s = .next t ∧ s.onlyRegsLog t ∧ t.fld idStrapFeedNow 0 = level.toNat ∧
      t.fld idStrapFeedId 0 = s.fld idStrapFeedId 0 ∧
      s.keepsFields t [(idStrapFeedNow, 0), (idStrapChanged, 0), (mgtLogStatusDropped, 0)] ∧
      (s.fld idStrapFeedId 0 = level.toNat → t.log = s.log ∧ t.fld idStrapChanged 0 = s.fld idStrapChanged 0) ∧
      (s.fld idStrapFeedId 0 ≠ level.toNat → t.fld idStrapChanged 0 = 1 ∧
        t.log = (((s.setFld idStrapFeedNow 0 level.toNat).setFld idStrapChanged 0 1).logEv 0x0503 0 0
          (s.fld idStrapFeedId 0 + 16 * level.toNat)).log)) ∧
  (∀ (s : State) (level : BitVec 4), s.fld idStrapFeedNow 0 = level.toNat → exec (.feedIdChange level) s = .next s)

/-! ## Clocks, voltage, heat -/

/-- THROTTLE_ASSERT and THERM_ALM_ASSERT (R348, R352, R353): the status bits and counts, and in the same state N of every cluster whose clock runs,
and UPD's, stand no higher than the caps now allow, which is 1 for THERM_ALM; a clock that does not run keeps its N, and no other field changes.
THROTTLE_RELEASE and THERM_ALM_RELEASE (R352, R353): the status bit falls; N of no cluster changes in that step. The level of the input outlasts
a reset (log entry 91).
THERMAL_SAMPLE and HARDWARE_COMPARATOR_TRIP (R353, R386): the hottest present sensor shows in HOTTEST and TEMP, of equal ones the lowest (log
entry 135); HOT's own bit is set from TJ_THROTTLE and clears below it less 5 °C; at TJ_TRIP TRIP is set; caps that fall act at once. The comparator
caps every running clock at 1 while the controller is halted, which then samples nothing; with a running controller it does nothing. -/
def Obligations.CapsOfTheClocksAndHeat : Prop :=
  ((∀ s : State, s.wf = true → s.aonRuns = true →
    (s.flag pwrThrotActive 0 = true → exec .throttleAssert s = .next { s with pins := { s.pins with throttle := true } }) ∧
    (s.flag pwrThrotActive 0 = false →
      ∃ t, exec .throttleAssert s = .next t ∧
        t = { s with regs := t.regs, pins := { s.pins with throttle := true }, pwr := { s.pwr with updN := t.pwr.updN } } ∧
        t.pwr.updN = (if s.clocksOn && !s.pwr.updGated then min s.pwr.updN t.capLimit else s.pwr.updN) ∧ t.fld pwrThrotActive 0 = 1 ∧ t.fld pwrThrotSeen 0 = 1 ∧ t.fld pwrThrotCount 0 = min (s.fld pwrThrotCount 0 + 1) (2 ^ pwrThrotCount.width - 1) ∧
        (s.flag pwrThrotSeen 0 = false → t.fld mgtIrqPendThrottle 0 = 1) ∧
        (∀ c, c < Config.clusters s.conf → t.clusterN c = if s.clockOn c then min (s.clusterN c) (t.nLimit c) else s.clusterN c) ∧
        s.keepsFields t ([(pwrThrotActive, 0), (pwrThrotSeen, 0), (pwrThrotCount, 0), (mgtIrqPendThrottle, 0)] ++ (List.range 8).map (pwrClkNM1, ·))) ∧
    (s.flag pwrThermHostAlm 0 = true → exec .thermAlmAssert s = .next { s with pins := { s.pins with thermAlm := true } }) ∧
    (s.flag pwrThermHostAlm 0 = false →
      ∃ t, exec .thermAlmAssert s = .next t ∧
        t = { s with regs := t.regs, pins := { s.pins with thermAlm := true }, pwr := { s.pwr with updN := t.pwr.updN } } ∧
        t.pwr.updN = (if s.clocksOn && !s.pwr.updGated then min s.pwr.updN 1 else s.pwr.updN) ∧
        t.fld pwrThermHostAlm 0 = 1 ∧ t.fld mgtIrqPendTherm 0 = 1 ∧ t.thermalCap = 1 ∧
        (∀ c, c < Config.clusters s.conf → t.clusterN c = if s.clockOn c then 1 else s.clusterN c) ∧
        s.keepsFields t ([(pwrThermHostAlm, 0), (mgtIrqPendTherm, 0)] ++ (List.range 8).map (pwrClkNM1, ·)))) ∧
  (∀ s : State, s.wf = true →
    (∃ t, exec .throttleRelease s = .next t ∧ t.fld pwrThrotActive 0 = 0 ∧ s.keepsFields t [(pwrThrotActive, 0)] ∧
      t = { s with regs := t.regs, pins := { s.pins with throttle := false } }) ∧
    (∃ t, exec .thermAlmRelease s = .next t ∧ t.fld pwrThermHostAlm 0 = 0 ∧ s.keepsFields t [(pwrThermHostAlm, 0)] ∧
      t = { s with regs := t.regs, pins := { s.pins with thermAlm := false } }))) ∧
  (∀ s : State, s.wf = true → s.alive = true →
    (∀ (r : List Int) (k : Nat), s.mcHalted = false → r.length = 40 → k < 40 → Config.sensorPresent s.conf k = true →
      (∀ j, j < 40 → Config.sensorPresent s.conf j = true → r.getD j 0 < r.getD k 0 ∨ (r.getD j 0 = r.getD k 0 ∧ k ≤ j)) →
      ∃ t, exec (.thermalSample r) s = .next t ∧
        t = { s with regs := t.regs, log := t.log, pwr := { s.pwr with updN := t.pwr.updN, trip := decide (s.tjTrip ≤ r.getD k 0) } } ∧
        t.fld pwrThermHottest 0 = k ∧ t.fld pwrThermTemp 0 = twos 10 (r.getD k 0) ∧
        t.fld pwrThermHot 0 = (if s.tjThrottle ≤ r.getD k 0 then 1 else if r.getD k 0 < s.tjThrottle - 20 then 0 else s.fld pwrThermHot 0) ∧
        t.fld pwrThermTrip 0 = (if s.tjTrip ≤ r.getD k 0 then 1 else s.fld pwrThermTrip 0) ∧
        (∀ c, c < Config.clusters s.conf → t.clusterN c = if s.clockOn c then min (s.clusterN c) (t.nLimit c) else s.clusterN c) ∧
        s.keepsFields t ([(pwrThermHottest, 0), (pwrThermTemp, 0), (pwrThermHot, 0), (pwrThermTrip, 0), (mgtIrqPendTherm, 0),
          (mgtLogStatusDropped, 0)] ++ (List.range 8).map (pwrClkNM1, ·))) ∧
    (∀ r, s.mcHalted = true → r.length = 40 → exec (.thermalSample r) s = .next s) ∧
    (∀ b, s.mcHalted = true →
      ∃ t, exec (.hardwareComparatorTrip b) s = .next t ∧
        t = { s with regs := t.regs, pwr := { s.pwr with comparator := b, updN := t.pwr.updN } } ∧
        (b = true → t.thermalCap = 1 ∧ ∀ c, c < Config.clusters s.conf → s.clockOn c = true → t.clusterN c = 1) ∧
        (∀ c, c < Config.clusters s.conf → t.clusterN c = if s.clockOn c then min (s.clusterN c) (t.nLimit c) else s.clusterN c) ∧
        s.keepsFields t ((List.range 8).map (pwrClkNM1, ·))) ∧
    (∀ b, s.mcHalted = false → exec (.hardwareComparatorTrip b) s = .next s))

/-- DROOP_EVENT and DROOP_END (R348, R351): an event is counted and halves N, rounding down, to no less than 1, of the cluster, or of
every cluster for DROOP_ALM, where the clock runs and is not halved already; the end lifts the halving and no register changes.
FRACTION_STEP (R348): N of a running cluster below what its caps allow rises by one, and so does that of a running UPD; nothing else changes. -/
def Obligations.TheFractionMoves : Prop :=
  (∀ s : State, s.wf = true →
    (∀ c, s.aonRuns = true → c < Config.clusters s.conf → c < s.pwr.clusters.length →
      ∃ t, exec (.droopEvent (some c)) s = .next t ∧ t = { s with regs := t.regs, pwr := { s.pwr with clusters := s.pwr.clusters.set c { droop := true } } } ∧
        t.fld pwrPaceDroopSeen 0 = 1 ∧ t.fld pwrPaceDroopCnt 0 = min (s.fld pwrPaceDroopCnt 0 + 1) (2 ^ pwrPaceDroopCnt.width - 1) ∧
        t.clusterN c = (if s.clockOn c && !(s.cluster c).droop then max 1 (s.clusterN c / 2) else s.clusterN c) ∧
        s.keepsFields t [(pwrPaceDroopSeen, 0), (pwrPaceDroopCnt, 0), (pwrClkNM1, c)]) ∧
    (s.aonRuns = true →
      ∃ t, exec (.droopEvent none) s = .next t ∧ t.fld pwrPaceHostDroopSeen 0 = 1 ∧
        t.fld pwrPaceDroopCnt 0 = min (s.fld pwrPaceDroopCnt 0 + 1) (2 ^ pwrPaceDroopCnt.width - 1) ∧
        t = { s with regs := t.regs, pwr := { s.pwr with clusters := t.pwr.clusters } } ∧
        (∀ c, c < Config.clusters s.conf → (c < s.pwr.clusters.length → (t.cluster c).droop = true) ∧
          t.clusterN c = if s.clockOn c && !(s.cluster c).droop then max 1 (s.clusterN c / 2) else s.clusterN c) ∧
        s.keepsFields t ([(pwrPaceHostDroopSeen, 0), (pwrPaceDroopCnt, 0)] ++ (List.range 8).map (pwrClkNM1, ·))) ∧
    (∀ c, exec (.droopEnd c) s = .next { s with pwr := { s.pwr with clusters := s.pwr.clusters.set c { droop := false } } })) ∧
  (∀ s : State, s.wf = true → s.alive = true → s.power = 0 →
    (∀ c, c < Config.clusters s.conf → s.flag pwrClkGated c = false → s.clusterN c < s.nLimit c →
      ∃ t, exec (.fractionStep (some c)) s = .next t ∧ t.clusterN c = s.clusterN c + 1 ∧ s.keepsFields t [(pwrClkNM1, c)] ∧ s.onlyRegs t) ∧
    (s.pwr.updGated = false → s.pwr.updN < s.capLimit → exec (.fractionStep none) s = .next { s with pwr := { s.pwr with updN := s.pwr.updN + 1 } }) ∧
    (∀ c, s.nLimit c ≤ s.clusterN c → exec (.fractionStep (some c)) s = .next s))

/-- VGRP_WRITE, CLUSTER_FREQ_WRITE and VOK_CHANGE (R349): a VREQ, read into its range, below Vmin of the group is discarded and recorded,
else stored; F is read into its range, which ends at 64 without a valid calibration set; VOK follows the regulator.
CLUSTER_IDLE_GATE and UNIT_IDLE_GATE (R350): an idle cluster's clock is gated in Run while GATE_IDLE is 1 and NOGATE 0; idle UPD and COD
gate without a condition of their own. -/
def Obligations.ClockRegisters : Prop :=
  (∀ (s : State) (v : Word) (src : Src), s.wf = true →
    (∀ g, g < 4 → s.accepts src .pwrVgrp g = true →
      (max 10 (min (fldGet pwrVgrpVreq v) 60) < s.minv g →
        exec (.vgrpWrite g v src) s = .next (s.logEv 0x0205 11 g (fldGet pwrVgrpVreq v + 256 * s.minv g))) ∧
      (s.minv g ≤ max 10 (min (fldGet pwrVgrpVreq v) 60) →
        ∃ t, exec (.vgrpWrite g v src) s = .next t ∧ t.fld pwrVgrpVreq g = max 10 (min (fldGet pwrVgrpVreq v) 60) ∧
          s.keepsFields t [(pwrVgrpVreq, g)] ∧ t = { s with regs := t.regs, pwr := { s.pwr with prevVreq := t.pwr.prevVreq } })) ∧
    (∀ c, c < 8 → s.accepts src .pwrClk c = true →
      ∃ t, exec (.clusterFreqWrite c v src) s = .next t ∧
        t.fld pwrClkF c = max 16 (min (fldGet pwrClkF v) (if s.flag calStatusValid 0 then 80 else 64)) ∧
        t.fld pwrClkNogate c = fldGet pwrClkNogate v ∧ s.keepsFields t [(pwrClkF, c), (pwrClkNogate, c)] ∧ s.onlyRegs t) ∧
    (∀ g b, s.aonRuns = true → g < Config.vgroups s.conf →
      ∃ t, exec (.vokChange g b) s = .next t ∧ t.flag pwrVgrpVok g = b ∧ s.keepsFields t [(pwrVgrpVok, g)] ∧
        t = { s with regs := t.regs, pins := { s.pins with vok := s.pins.vok.set g b } })) ∧
  (∀ s : State, s.wf = true → s.alive = true → s.power = 0 →
    (∀ c, c < Config.clusters s.conf → (∀ k, k < Config.cores s.conf → k / 16 = c → s.coreIdle k = true) →
      s.flag pwrPaceGateIdle 0 = true → s.flag pwrClkNogate c = false →
      ∃ t, exec (.clusterIdleGate c) s = .next t ∧ t.fld pwrClkGated c = 1 ∧ s.keepsFields t [(pwrClkGated, c)] ∧ s.onlyRegs t) ∧
    (∀ c, (s.flag pwrPaceGateIdle 0 = false ∨ s.flag pwrClkNogate c = true) → exec (.clusterIdleGate c) s = .next s) ∧
    (s.snp.active = false → exec (.unitIdleGate true) s = .next { s with pwr := { s.pwr with codGated := true } }) ∧
    ((∀ u ∈ s.upd.units, u.cur = none) → exec (.unitIdleGate false) s = .next { s with pwr := { s.pwr with updGated := true } }))

/-! ## Power states, resets, start-up -/

/-- POWER_STATE_REQUEST (R354, R355, R372, R386): a write of TARGET 4 to 7 is discarded (Table 12.11), any other is stored; in Run, with nothing that holds it, Doze preempts the contexts at work and
starts entering, but is refused while an admission runs; Sleep and Hibernate start where admission and snapshot allow, else are refused,
with REFUSED, POWER when REFUSED rises, and the event 0x0206; Doze wakes to Run, where another state waits; from Sleep or Hibernate Run starts
and any other state is refused; a held request waits; the present state does no more. -/
def Obligations.PowerRequests : Prop :=
  ∀ (s : State) (src : Src), s.wf = true → s.accepts src .pwrCtrl 0 = true →
    (∀ t, 4 ≤ t → t < 8 → exec (.powerStateRequest t src) s = .next s) ∧
    (∀ t, t < 4 → (s.pwr.trans.isSome = true ∨ s.pwr.warm = true ∨ s.flag secStateBusy 0 = true ∨ s.mcHalted = true) →
      exec (.powerStateRequest t src) s = .next { s.setFld pwrCtrlTarget 0 t with pwr := { s.pwr with waiting := some t } }) ∧
    (s.pwr.trans = none → s.pwr.warm = false → s.flag secStateBusy 0 = false → s.mcHalted = false →
      (s.fld pwrStatusState 0 = 0 → s.admState ≠ admAdmitting →
        ∃ u, exec (.powerStateRequest 1 src) s = .next u ∧ u.fld pwrCtrlTarget 0 = 1 ∧ u.fld pwrStatusState 0 = 4 ∧ u.pwr.trans = some 1 ∧
          u.pwr.fromState = 0 ∧ u.pwr.mcPreempted = s.dozeContexts ∧ s.keepsMemory u ∧
          (∀ c, c < Config.ctx s.conf → u.ctxState c =
            if s.ctxState c = ctxRunning ∨ s.ctxState c = ctxRestarting then ctxPreempting else s.ctxState c)) ∧
      (∀ t, t = 2 ∨ t = 3 → s.fld pwrStatusState 0 = 0 → s.maySleep = true →
        exec (.powerStateRequest t src) s = .next
          { (s.setFld pwrCtrlTarget 0 t).setFld pwrStatusState 0 4 with pwr := { s.pwr with trans := some t, fromState := 0 } }) ∧
      (∀ t, t = 2 ∨ t = 3 → s.fld pwrStatusState 0 = 0 → s.maySleep = false →
        ∃ u, exec (.powerStateRequest t src) s = .next u ∧ s.onlyRegsLog u ∧ u.fld pwrCtrlTarget 0 = t ∧ u.fld pwrStatusRefused 0 = 1 ∧
          (s.flag pwrStatusRefused 0 = false → u.fld mgtIrqPendPower 0 = 1) ∧ u.log = (s.logEv 0x0206 11 0 t).log ∧
          s.keepsFields u [(pwrCtrlTarget, 0), (pwrStatusRefused, 0), (mgtIrqPendPower, 0), (mgtLogStatusDropped, 0)]) ∧
      (∀ t, t < 4 → t ≠ s.fld pwrStatusState 0 →
        (s.fld pwrStatusState 0 = 0 ∧ t = 1 ∧ s.admState = admAdmitting) ∨ ((s.fld pwrStatusState 0 = 2 ∨ s.fld pwrStatusState 0 = 3) ∧ t ≠ 0) →
        ∃ u, exec (.powerStateRequest t src) s = .next u ∧ s.onlyRegsLog u ∧ u.fld pwrCtrlTarget 0 = t ∧ u.fld pwrStatusRefused 0 = 1 ∧
          (s.flag pwrStatusRefused 0 = false → u.fld mgtIrqPendPower 0 = 1) ∧ u.log = (s.logEv 0x0206 11 0 t).log ∧
          s.keepsFields u [(pwrCtrlTarget, 0), (pwrStatusRefused, 0), (mgtIrqPendPower, 0), (mgtLogStatusDropped, 0)]) ∧
      (∀ t, t < 4 → t = s.fld pwrStatusState 0 → exec (.powerStateRequest t src) s = .next (s.setFld pwrCtrlTarget 0 t)) ∧
      (∀ t, t < 4 → t ≠ 1 → s.fld pwrStatusState 0 = 1 →
        exec (.powerStateRequest t src) s = .next
          { (s.setFld pwrCtrlTarget 0 t).setFld pwrStatusState 0 5 with
            pwr := { s.pwr with trans := some 0, fromState := 1, waiting := if t = 0 then none else some t } }) ∧
      (s.fld pwrStatusState 0 = 2 ∨ s.fld pwrStatusState 0 = 3 →
        exec (.powerStateRequest 0 src) s = .next
          { (s.setFld pwrCtrlTarget 0 0).setFld pwrStatusState 0 5 with
            pwr := { s.pwr with trans := some 0, fromState := s.fld pwrStatusState 0 } }))

/-- POWER_TRANSITION_DONE (R354, R355, R357), with no request that waits: where their conditions still hold, Sleep keeps every memory, its ports
are dark and RING_BYP is asserted, and Hibernate unloads and loses every SRAM space but not attached memory; where they no longer hold the request
is refused and the engine is back in Run (log entry 20); the return from Hibernate with a bad rail sets RAIL_FAULT, with POWER when it rises,
and stays; from Sleep, or with good rails, the engine stands in Run.
DOZE_WAKE (R356), with no request that waits: Run, WAKE_SRC names the cause, MC_PREEMPT falls, and of the contexts that the controller had
preempted none stays so; where none of their moves waits, no other context changes state and no memory changes. -/
def Obligations.PowerTransitionsAndDoze : Prop :=
  (∀ s : State, s.wf = true → s.pwr.waiting = none →
    (s.pwr.trans = some 2 → s.maySleep = true →
      ∃ t, exec (.powerTransitionDone true) s = .next t ∧ t.fld pwrStatusState 0 = 2 ∧ t.pwr.trans = none ∧ s.keepsMemory t ∧
        t.flag mapRingBypAsserted 0 = true ∧ (∀ n, n < 16 → t.fld furLinkState n = 0) ∧ t.image = s.image ∧ t.ctxs = s.ctxs) ∧
    (s.pwr.trans = some 2 ∨ s.pwr.trans = some 3 → s.maySleep = false → s.pwr.mcPreempted = [] →
      ∃ t, exec (.powerTransitionDone true) s = .next t ∧ t.fld pwrStatusState 0 = 0 ∧ t.pwr.trans = none ∧ t.fld pwrStatusRefused 0 = 1 ∧
        s.keepsMemory t ∧ t.image = s.image ∧ t.ctxs = s.ctxs) ∧
    (s.pwr.trans = some 3 → s.maySleep = true →
      ∃ t, exec (.powerTransitionDone true) s = .next t ∧ t.fld pwrStatusState 0 = 3 ∧ t.pwr.trans = none ∧ t.mem = s.mem ∧ t.keg = [] ∧
        t.obuf = [] ∧ t.ubuf = [] ∧ t.bad = [] ∧ t.image = none ∧ t.admState = admUnloaded ∧ t.flag mapRingBypAsserted 0 = true) ∧
    (s.pwr.trans = some 0 → s.pwr.fromState = 3 →
      ∃ t, exec (.powerTransitionDone false) s = .next t ∧ s.keepsMemory t ∧ t.fld pwrStatusState 0 = 3 ∧ t.pwr.trans = none ∧
        t.fld pwrStatusRailFault 0 = 1 ∧ t.fld pwrStatusRailsOk 0 = 0 ∧
        (s.flag pwrStatusRailFault 0 = false → t.fld mgtIrqPendPower 0 = 1)) ∧
    (s.pwr.trans = some 0 → (s.pwr.fromState = 2 ∨ s.pwr.fromState = 3) → s.flag secStateZpend 0 = false →
      ∃ t, exec (.powerTransitionDone true) s = .next t ∧ s.keepsMemory t ∧ t.fld pwrStatusState 0 = 0 ∧ t.pwr.trans = none ∧
        (∀ c, c < Config.clusters s.conf → t.fld pwrClkGated c = 0))) ∧
  (∀ (s : State) (w : WakeCause), s.wf = true → s.alive = true → s.power = 1 → s.pwr.waiting = none →
    (w = .targetWrite → s.pwr.trans = some 0) → (s.pwr.trans = none ∨ s.pwr.trans = some 0) →
    ∃ t, exec (.dozeWake w) s = .next t ∧ t.fld pwrStatusState 0 = 0 ∧ t.fld pwrStatusWakeSrc 0 = wakeSrc w ∧
      t.fld pwrStatusMcPreempt 0 = 0 ∧ t.pwr.trans = none ∧ t.pwr.mcPreempted = [] ∧
      ((∀ m ∈ s.chain.moves, m.ctx ∉ s.pwr.mcPreempted) → s.keepsMemory t ∧
        (∀ c, c < 64 → c ∈ s.pwr.mcPreempted → t.ctxState c ≠ ctxPreempted ∨ (s.ctx c).before % 8 = ctxPreempted) ∧
        ∀ c, c < 64 → c ∉ s.pwr.mcPreempted.map (· % 1024) → t.ctxState c = s.ctxState c))

/-- No reset writes attached memory, and a byte of a write in flight alone may be the one before it (R360); each takes the logic to its reset
(R359): COLD_RESET by write or by RESET_N, WARM_RESET in Run or Doze, POWER_ON_RESET. TEST_RESET resets the TAP alone. A cold reset counts and keeps
the entries of the event log's ring; a warm reset keeps the AON registers but for the status, reset, ring and security words and the count of lost
events (ZPEND of the memory step it cuts off: log entry 22); RING_BYP is released and the retimer works, but in Lockdown RING_BYP stays asserted; in
Sleep or Hibernate a warm reset is discarded and recorded.
WARM_RESET_DONE and RTM_RELEASE (R361), with no request that waits: Run, with the clocks running, and the retimer as before; the release ends its
work. POR_RELEASE and RESET_N_RELEASE sample the strap and start the boot (R358, R426); FIRMWARE_VERIFY_END starts firmware (R380);
CALIBRATION_LOAD ends the boot: CP_ALIVE, and a set tamper cell forces Lockdown whatever the record says (R362, R375). What the nonvolatile store
keeps and the levels of the board inputs that a reset leaves rest on log entries 3 and 91. -/
def Obligations.ResetsAndStartUp : Prop :=
  ((∀ (s : State) (src : Src), s.wf = true →
    (s.accepts src .pwrReset 0 = true →
      ∃ t, exec (.coldReset false src) s = .next t ∧ s.resetKeeps t ∧ t.keg = [] ∧ t.obuf = [] ∧ t.ubuf = [] ∧ t.image = none ∧
        t.admState = admUnloaded ∧ t.boot = .rom ∧ t.fld pwrResetLast 0 = 1 ∧
        t.fld pwrResetCount 0 = min (s.fld pwrResetCount 0 + 1) (2 ^ pwrResetCount.width - 1) ∧
        t.log.ring.map (·.seq) = s.log.ring.map (·.seq)) ∧
    (s.boot ≠ .porHeld → s.boot ≠ .coldHeld →
      ∃ t, exec (.coldReset true src) s = .next t ∧ s.resetKeeps t ∧ t.keg = [] ∧ t.image = none ∧ t.boot = .coldHeld ∧ t.alive = false) ∧
    (s.accepts src .pwrReset 0 = true → s.power ≤ 1 →
      ∃ t, exec (.warmReset src) s = .next t ∧ s.resetKeeps t ∧ t.keg = [] ∧ t.obuf = [] ∧ t.ubuf = [] ∧ t.image = none ∧ t.pwr.warm = true ∧
        t.admState = admUnloaded ∧ t.flag mapRingBypAsserted 0 = decide (s.security = secLockdown) ∧
        t.flag mapRingRtmActive 0 = decide (s.security ≠ secLockdown) ∧ t.fld pwrResetLast 0 = 2 ∧
        ∀ k, regAon k = true → k ∉ [RegKind.pwrStatus, .pwrReset, .mapRing, .secState, .mgtLogStatus] → ∀ u, t.word k u = s.word k u) ∧
    (s.accepts src .pwrReset 0 = true → 2 ≤ s.power → exec (.warmReset src) s = .next (s.logEv 0x0206 11 0 8)) ∧
    (∃ t, exec .powerOnReset s = .next t ∧ s.resetKeeps t ∧ t.keg = [] ∧ t.regs = [] ∧ t.boot = .porHeld ∧ t.log = {} ∧ t.image = none ∧
      t.pending = s.pending ∧ t.pins = s.pins) ∧
    exec .testReset s = .next { s with tap := {} }) ∧
  (∀ (s : State) (src : Src), s.wf = true →
    (s.pwr.warm = true → s.pwr.waiting = none → s.flag secStateZpend 0 = false →
      ∃ t, exec .warmResetDone s = .next t ∧ t.fld pwrStatusState 0 = 0 ∧ t.pwr.warm = false ∧ t.pwr.trans = none ∧ s.keepsMemory t ∧
        t.fld mapRingRtmActive 0 = s.fld mapRingRtmActive 0 ∧ (∀ c, c < Config.clusters s.conf → t.fld pwrClkGated c = 0)) ∧
    (s.accepts src .pwrReset 0 = true → s.flag mapRingRtmActive 0 = true →
      ∃ t, exec (.rtmRelease src) s = .next t ∧ t.flag mapRingRtmActive 0 = false ∧ s.keepsMemory t ∧ t.pwr = s.pwr ∧
        (s.security ≠ secLockdown → ∀ n ∈ s.rtmPorts, t.fld furLinkState n = linkTraining ∨ t.fld furLinkState n = linkLoopback)) ∧
    (s.accepts src .pwrReset 0 = true → s.flag mapRingRtmActive 0 = false → exec (.rtmRelease src) s = .next s))) ∧
  (∀ (s : State) (feed : BitVec 4), s.wf = true →
    (s.boot = .porHeld → ∃ t, exec (.porRelease feed) s = .next t ∧ t.boot = .rom ∧ t.fld idStrapFeedId 0 = feed.toNat ∧
      t.fld idStrapFeedNow 0 = feed.toNat ∧ t.fld idStrapChanged 0 = 0 ∧ s.keepsMemory t) ∧
    (s.boot = .coldHeld → ∃ t, exec (.resetNRelease feed) s = .next t ∧ t.boot = .rom ∧ t.fld idStrapFeedId 0 = feed.toNat ∧
      t.fld idStrapFeedNow 0 = feed.toNat ∧ t.fld idStrapChanged 0 = 0 ∧ t.log = s.log ∧ s.keepsMemory t) ∧
    (s.boot = .rom → ∃ t, exec .firmwareVerifyEnd s = .next t ∧ t.boot = .firmware ∧ t.sec = s.sec ∧ s.keepsMemory t ∧
      (s.sec.slot = none → t.fld secFwSource 0 = 1 ∧ t.fld secFwActiveVer 0 = 0)) ∧
    (s.boot = .firmware → ∃ t, exec .calibrationLoad s = .next t ∧ t.alive = true ∧ s.keepsMemory t ∧
      (s.sec.tamperCell = true → t.security = secLockdown)))

/-! ## Security, presence, tamper, debug -/

/-- SEC.CMD (R369, R372, R373, R381, R389; what a zeroisation clears, log entries 22 and 156): while BUSY a command is answered BUSY; LOCKDOWN in Open or Sealed takes the engine to Lockdown with debug
level None, and in Lockdown is refused; INSTALL outside Lockdown, in Run with nothing admitted, and FEED_STRICT in every state start;
CAL_DISCARD reloads the staging buffer at once.
SECURITY_COMMAND_END (R369, R371, R373, R381, R382, R389), while the controller runs: SEAL gives Sealed with debug None; UNSEAL clears the
tamper cell and unloads, and is Open at once in Sleep and Hibernate, else when its zeroisation ends; FEED_SHARE and FEED_STRICT set and
clear SHARED_FEED; CAL_WRITE clears LOST and stores the staged set, stamped; INSTALL and ROLLBACK end with the result of the check. BUSY
falls.
ZEROISE_DONE (R376): zero data and good check bytes in every unit of the regions, as CFG.SPCAP and CFG.REGION stood when the zeroisation began,
when memory is to be cleared, no other byte of attached memory changed; ZDONE; UNSEAL's zeroisation ends in Open; with none in progress nothing changes. -/
def Obligations.SecurityCommandsAndZeroisation : Prop :=
  (∀ (s : State) (src : Src), s.wf = true → s.accepts src .secCmd 0 = true →
    (s.flag secStateBusy 0 = true →
      (∀ arg, exec (.install arg src) s = .next (s.cmdResult 2 false 6)) ∧ exec (.lockdown src) s = .next (s.cmdResult 1 false 6) ∧
        exec (.feedStrict src) s = .next (s.cmdResult 3 false 6) ∧ exec (.calDiscard src) s = .next (s.cmdResult 4 false 6)) ∧
    (s.flag secStateBusy 0 = false →
      (s.security = secLockdown → exec (.lockdown src) s = .next (s.cmdResult 1 false 2)) ∧
      (s.security ≠ secLockdown →
        ∃ t, exec (.lockdown src) s = .next t ∧ t.security = secLockdown ∧ t.debugLevel = 0 ∧ (s.power ≤ 2 → t.image = none) ∧ s.resetKeeps t ∧
          t.sec.recPend = true ∧ t.fld secCmdstatCode 0 = 1 ∧ t.fld secCmdstatResult 0 = 1) ∧
      (∀ arg, s.security ≠ secLockdown → s.fld pwrStatusState 0 = 0 → s.admState = admUnloaded →
        exec (.install arg src) s = .next { s.setFld secStateBusy 0 1 with sec := { s.sec with cmd := some ⟨2, false, arg⟩ } }) ∧
      (∀ arg, (s.security = secLockdown ∨ s.fld pwrStatusState 0 ≠ 0 ∨ s.admState ≠ admUnloaded) →
        exec (.install arg src) s = .next (s.cmdResult 2 false 2)) ∧
      exec (.feedStrict src) s = .next { s.setFld secStateBusy 0 1 with sec := { s.sec with cmd := some ⟨3, false, 0⟩ } } ∧
      (∃ t, exec (.calDiscard src) s = .next t ∧ t.sec = { s.sec with calStage := if s.flag calStatusValid 0 then s.sec.calLive else [] } ∧
        t.fld secCmdstatCode 0 = 4 ∧ t.fld secCmdstatResult 0 = 1 ∧ s.keepsMemory t))) ∧
  ((∀ (s : State) (arg : Nat), s.wf = true → s.mcHalted = false → s.pwr.waiting = none →
    (s.sec.cmd = some ⟨1, true, arg⟩ →
      ∃ t, exec .securityCommandEnd s = .next t ∧ t.security = secSealed ∧ t.debugLevel = 0 ∧ t.flag secStateBusy 0 = false ∧
        t.fld secPcmdCode 0 = 0 ∧ t.fld secCmdstatCode 0 = 1 ∧ t.fld secCmdstatResult 0 = 1 ∧ t.sec.cmd = none ∧ s.keepsMemory t) ∧
    (s.sec.cmd = some ⟨2, true, arg⟩ →
      ∃ t, exec .securityCommandEnd s = .next t ∧ t.sec.tamperCell = false ∧ t.fld secTamperCell 0 = 0 ∧ t.flag secStateBusy 0 = false ∧
        t.fld secCmdstatResult 0 = 1 ∧ t.sec.cmd = none ∧ s.resetKeeps t ∧ (s.power ≤ 2 → t.image = none ∧ t.keg = []) ∧
        (2 ≤ s.power → t.security = secOpen) ∧
        (s.power ≤ 1 → t.security = s.security ∧ t.sec.zero = some ⟨s.flag secPolicyZeroMem 0 || s.zeroOwed, true⟩ ∧ t.sec.zeroMap = s.zeroMapNow)) ∧
    (s.sec.cmd = some ⟨3, true, arg⟩ →
      ∃ t, exec .securityCommandEnd s = .next t ∧ t.fld calStatusLost 0 = 0 ∧ t.sec.calStore = t.sec.calStage ∧ t.sec.calLive = s.sec.calLive ∧
        t.sec.calStore = calStamp s.sec.calStage (min (calCount s.sec.calStore + 1) 65535) (calDigest s.sec.calStage) ∧
        t.fld secCmdstatResult 0 = 1 ∧ t.sec.cmd = none ∧ s.keepsMemory t) ∧
    (s.sec.cmd = some ⟨4, true, arg⟩ →
      ∃ t, exec .securityCommandEnd s = .next t ∧ t.flag secPolicySharedFeed 0 = true ∧ t.flag secStateBusy 0 = false ∧ t.sec.cmd = none ∧
        t.security = s.security ∧ s.keepsMemory t) ∧
    (s.sec.cmd = some ⟨3, false, arg⟩ →
      ∃ t, exec .securityCommandEnd s = .next t ∧ t.flag secPolicySharedFeed 0 = false ∧ t.flag secStateBusy 0 = false ∧ t.sec.cmd = none ∧
        t.security = s.security ∧ s.keepsMemory t) ∧
    (∀ b, s.sec.cmd = some ⟨if b then 5 else 2, b, arg⟩ →
      ∃ t, exec .securityCommandEnd s = .next t ∧ t.fld secCmdstatResult 0 = (s.installPatch (s.readPatch arg) b).2 ∧
        t.flag secStateBusy 0 = false ∧ t.sec.cmd = none ∧ t.security = s.security ∧ s.keepsMemory t)) ∧
  (∀ s : State, s.wf = true →
    (s.sec.zero = none → exec .zeroiseDone s = .next s) ∧
    (∀ z, s.sec.zero = some z →
      ∃ t, exec .zeroiseDone s = .next t ∧ t.fld secStateZdone 0 = 1 ∧ t.sec.zero = none ∧ t.keg = s.keg ∧ t.obuf = s.obuf ∧
        (z.thenOpen = true → t.security = secOpen) ∧ (z.thenOpen = false → t.security = s.security) ∧
        (z.mem = false → t.mem = s.mem) ∧
        (z.mem = true → ∀ a, (∃ e, (s.setFld cfgSpcapCapGib 0 s.sec.zeroMap.cap).keyAddr a = some e ∧
            ∃ r ∈ s.sec.zeroMap.regions, 2 ^ 26 * r.1 ≤ e ∧ e < 2 ^ 26 * (r.1 + r.2)) → cellGet byteZero t.mem a = 0) ∧
        (z.mem = true → ∀ a, (∀ e, (s.setFld cfgSpcapCapGib 0 s.sec.zeroMap.cap).keyAddr a = some e →
            ∀ r ∈ s.sec.zeroMap.regions, e < 2 ^ 26 * r.1 ∨ 2 ^ 26 * (r.1 + r.2) ≤ e) →
          cellGet byteZero t.mem a = cellGet byteZero s.mem a))))

/-- SEC.PCMD (R371, R372, R439): SEAL, UNSEAL, CAL_WRITE, FEED_SHARE and ROLLBACK start under PRESENCE in the states that allow them: BUSY, and PCMD
reads the command; without PRESENCE a write that would change the register is counted and recorded, while BUSY it is answered BUSY, with or
without PRESENCE, and in the wrong state WRONG_STATE. CMDSTAT then shows the refused command's code (log entry 90).
PRESENCE_ASSERT and PRESENCE_RELEASE (R370, R371; not under a held reset, log entry 91): STATE.PRESENCE follows; a presence command that has not committed aborts with PRESENCE_LOST,
and a command without presence goes on. -/
def Obligations.PresenceAndItsCommands : Prop :=
  (∀ (s : State) (src : Src) (code : Nat) (c : Instr) (arg : Nat), s.wf = true → s.accepts src .secPcmd 0 = true → arg < 2 ^ 24 →
    (code, c) ∈ [(1, Instr.seal src), (2, .unseal src), (3, .calWrite src), (4, .feedShare src), (5, .rollback arg src)] →
    (s.flag secStatePresence 0 = true → s.flag secStateBusy 0 = false →
      (code = 1 → s.security = secOpen) → (code = 2 → s.security ≠ secOpen) → (3 ≤ code → s.security ≠ secLockdown) →
      ∃ t, exec c s = .next t ∧ t.fld secPcmdCode 0 = code ∧ t.flag secStateBusy 0 = true ∧
        (∃ a, t.sec = { s.sec with cmd := some ⟨code, true, a⟩ } ∧ (code = 5 → a = arg)) ∧
        s.keepsFields t [(secPcmdCode, 0), (secPcmdArg, 0), (secStateBusy, 0)] ∧ t = { s with regs := t.regs, sec := t.sec }) ∧
    (s.flag secStatePresence 0 = false → s.flag secStateBusy 0 = false → s.fld secPcmdCode 0 = 0 →
      ∃ t, exec c s = .next t ∧ s.onlyRegsLog t ∧ t.fld mgtCperrLocked 0 = min (s.fld mgtCperrLocked 0 + 1) 65535 ∧
        s.keepsFields t [(mgtCperrLocked, 0), (mgtLogStatusDropped, 0)]) ∧
    (s.flag secStateBusy 0 = true → (s.flag secStatePresence 0 = true → exec c s = .next (s.cmdResult code true 6)) ∧
      ∃ t, exec c s = .next t ∧ s.onlyRegsLog t ∧ t.fld secCmdstatCode 0 = code ∧ t.fld secCmdstatResult 0 = 6) ∧
    (s.flag secStatePresence 0 = true → s.flag secStateBusy 0 = false →
      (code = 1 ∧ s.security ≠ secOpen) ∨ (code = 2 ∧ s.security = secOpen) ∨ (3 ≤ code ∧ s.security = secLockdown) →
      ∃ t, exec c s = .next t ∧ t.fld secCmdstatCode 0 = code ∧ t.fld secCmdstatResult 0 = 2 ∧ t.sec = s.sec ∧ t.security = s.security)) ∧
  (∀ s : State, s.wf = true →
    (s.aonRuns = true → ∃ t, exec .presenceAssert s = .next t ∧ t.fld secStatePresence 0 = 1 ∧ s.keepsFields t [(secStatePresence, 0)] ∧ s.onlyRegs t) ∧
    ((∀ c, s.sec.cmd = some c → c.presence = false) →
      ∃ t, exec .presenceRelease s = .next t ∧ t.fld secStatePresence 0 = 0 ∧ s.keepsFields t [(secStatePresence, 0)] ∧ s.onlyRegs t) ∧
    (∀ c, s.sec.cmd = some c → c.presence = true → s.pwr.waiting = none →
      ∃ t, exec .presenceRelease s = .next t ∧ t.fld secStatePresence 0 = 0 ∧ t.fld secCmdstatResult 0 = 3 ∧ t.flag secStateBusy 0 = false ∧
        t.fld secPcmdCode 0 = 0 ∧ t.sec = { s.sec with cmd := none } ∧ t.security = s.security ∧ s.keepsMemory t))

/-- TAMPER (R374): in every power state but Off each event sets SEEN and counts; in Sealed it writes the tamper cell, also while start-up has not
read the record yet (log entry 66), and from the end of the boot on it takes the engine to Lockdown with debug None; in Open and Lockdown it writes
nothing to the store. -/
def Obligations.Tamper : Prop :=
  ∀ s : State, s.wf = true → s.boot ≠ .porHeld →
    ∃ t, exec .tamper s = .next t ∧ t.fld secTamperSeen 0 = 1 ∧
      t.fld secTamperCount 0 = min (s.fld secTamperCount 0 + 1) (2 ^ secTamperCount.width - 1) ∧
      (s.sec.cmd = none ∨ s.pwr.waiting = none → s.resetKeeps t) ∧ (s.sealedNow = true → t.sec.tamperCell = true) ∧
      (s.alive = true → s.security = secSealed →
        t.security = secLockdown ∧ t.debugLevel = 0 ∧ t.fld secTamperCell 0 = 1 ∧ t.sec.recPend = true) ∧
      (s.sealedNow = false → t.sec = { s.sec with cmd := none } ∧ t.security = s.security ∧ t.fld secTamperCell 0 = s.fld secTamperCell 0)

/-- DEBUG_REQUEST (R383, Table 13.7): None and a lower level always; in Open every level is granted; in Lockdown no other; in Sealed Observe to the
control port alone and Intrusive under PRESENCE, whatever the level in force; each is recorded, and a grant of Intrusive counts; a refused request sets
REFUSED and leaves the level; 3 does nothing.
MC_HALT, MC_STEP and SCAN (R384, R385, R386, R391): at Intrusive the controller halts, which caps every clock that runs, or runs on; a step runs
one of its instructions, whose effect is open (Config.mcStep), while it is halted; BYPASS, IDCODE and SAMPLE work whenever the engine has power; a scan
in Open, Intrusive, Run and UNLOADED sets SCANNED (log entry 25); without any of the four it is refused. -/
def Obligations.DebugAndControllerDebug : Prop :=
  (∀ (s : State) (l : Nat) (src : Src), s.wf = true → s.accepts src .dbgCtrl 0 = true →
    exec (.debugRequest 3 src) s = .next s ∧
    (l < 3 → (l = 0 ∨ l < s.debugLevel ∨ s.security = secOpen ∨ (s.security = secSealed ∧ l = 1 ∧ src = .cp) ∨
        (s.security = secSealed ∧ l = 2 ∧ s.flag secStatePresence 0 = true)) →
      ∃ t, exec (.debugRequest l src) s = .next t ∧ t.debugLevel = l ∧ t.fld dbgCtrlReq 0 = l ∧ t.fld dbgStatusRefused 0 = s.fld dbgStatusRefused 0 ∧
        t.fld dbgStatusGrants 0 = (if l = 2 then min (s.fld dbgStatusGrants 0 + 1) (2 ^ dbgStatusGrants.width - 1)
          else s.fld dbgStatusGrants 0) ∧ s.onlyRegsLog t ∧ t.log = (s.logEv 0x0606 12 0 (l + if src = .tap then 4 else 0)).log) ∧
    (l < 3 → l ≠ 0 → s.debugLevel ≤ l → (s.security = secLockdown ∨ (s.security = secSealed ∧ l = 1 ∧ src = .tap) ∨
        (s.security = secSealed ∧ l = 2 ∧ s.flag secStatePresence 0 = false)) →
      ∃ t, exec (.debugRequest l src) s = .next t ∧ t.debugLevel = s.debugLevel ∧ t.fld dbgStatusRefused 0 = 1 ∧
        t.fld dbgStatusGrants 0 = s.fld dbgStatusGrants 0 ∧ s.onlyRegsLog t ∧
        t.log = (s.logEv 0x0208 12 0 (l + if src = .tap then 4 else 0)).log)) ∧
  (∀ (s : State) (src : Src), s.wf = true → s.accepts src .dbgCtrl 0 = true → s.debugLevel = 2 →
    (∃ t, exec (.mcHalt true src) s = .next t ∧ t.mcHalted = true ∧ t.flag dbgCtrlMcHalt 0 = true ∧ s.keepsMemory t ∧
      (∀ c, c < Config.clusters s.conf → t.clusterN c = if s.clockOn c then min (s.clusterN c) (t.nLimit c) else s.clusterN c) ∧
      (s.thermalOn = false → t.fld mgtIrqPendTherm 0 = 1) ∧
      s.keepsFields t ([(dbgCtrlMcHalt, 0), (dbgStatusMcHalted, 0), (mgtIrqPendTherm, 0)] ++ (List.range 8).map (pwrClkNM1, ·))) ∧
    (s.pwr.waiting = none → (s.onChain = false ∨ s.flag mapChainIsHead 0 = false) →
      ∃ t, exec (.mcHalt false src) s = .next t ∧ t.mcHalted = false ∧ t.flag dbgCtrlMcHalt 0 = false ∧ t.pwr = { s.pwr with comparator := false } ∧ s.keepsFields t [(dbgCtrlMcHalt, 0), (dbgStatusMcHalted, 0)] ∧ s.keepsMemory t) ∧
    (s.mcHalted = true → exec (.mcStep src) s = .next { s with mcState := Config.mcStep s.mcState }) ∧
    (s.mcHalted = false → exec (.mcStep src) s = .next s)) ∧
  (∀ (s : State) (op : ScanOp), s.alive = true → op ∈ [ScanOp.scan, .extest, .wrapper] →
    (s.security = secOpen → s.debugLevel = 2 → s.power = 0 → s.admState = admUnloaded →
      exec (.scan op) s = .next { s.setFld dbgStatusScanned 0 1 with free := s.free + 1, tap := { s.tap with instr := op } }) ∧
    (s.security ≠ secOpen ∨ s.debugLevel ≠ 2 ∨ s.power ≠ 0 ∨ s.admState ≠ admUnloaded → exec (.scan op) s = .next s.dbgRefuse)) ∧
  (∀ s : State, s.boot ≠ .porHeld →
    exec (.scan .bypass) s = .next { s with tap := ⟨.bypass, 0⟩ } ∧
    (∃ w : Word, exec (.scan .idcode) s = .next { s with tap := ⟨.idcode, w⟩ } ∧ w.toNat % 2 = 1 ∧
      w.toNat / 2 ^ 12 % 2 ^ 16 = Config.part s.conf % 2 ^ 16) ∧
    ∃ w, exec (.scan .sample) s = .next { s with free := s.free + 1, tap := ⟨.sample, w⟩ })

/-! ## Images: admission, dispatch, unload -/

/-- ADMIT (R298, R385): from UNLOADED the check starts, with the image's bytes read over the narrow path and counted (log entry 120), unless a
scan has destroyed the logic's state, when the write is discarded and counted; in any other state the write is discarded and recorded.
DISPATCH (R302, R399): from LOADED or HALTED the run starts anew: DISPATCHING, contexts IDLE, no token counted, no micro-batch, no
measurement, SE as the first step uses it, the first credits of classes 0 and 3 granted, no memory changed; in any other state
discarded and recorded.
UNLOAD (R304): from LOADED or HALTED the image goes, with the registers that admission set (UPD.NORM: log entry 77; the ports stay up: log entry
47); no memory changes; in any other state discarded and recorded.
ADMISSION_END (R282, R299), once the reads of the image have returned, of the image that lies in the image store, its tables taken from its bytes
(log entry 8): with a failure CFG.ADMIT alone reports, of the failures the lowest
code, and MASK has one bit for every code that failed; without one the image is LOADED, its trackers, holder entries and contexts
stand as the image gives them, and no memory changes. -/
def Obligations.AdmissionDispatchUnload : Prop :=
  ((∀ (s : State) (src : Src), s.accepts src .cfgCtrl 0 = true →
    (s.admState = admUnloaded → s.flag dbgStatusScanned 0 = false → s.wf = true →
      ∃ t, exec (.admit_ src) s = .next t ∧ t.admState = admAdmitting ∧
        t = { s with regs := t.regs, log := t.log, sp := t.sp, imgBad := false } ∧
        s.keepsFields t [(cfgAdmitState, 0), (layNarrowBytes, 0), (layStashHole, 0), (layStashHoleCnt, 0), (mgtLogStatusDropped, 0)]) ∧
    (s.admState = admUnloaded → s.flag dbgStatusScanned 0 = true → exec (.admit_ src) s = .next s.cperrState) ∧
    (s.admState ≠ admUnloaded → exec (.admit_ src) s = .next (s.logEv 0x0203 1 0 (256 * s.admState)))) ∧
  (∀ (s : State) (src : Src), s.wf = true → s.accepts src .cfgCtrl 0 = true →
    (s.admState = admLoaded ∨ s.admState = admHalted →
      ∃ t, exec (.dispatch src) s = .next t ∧ t.admState = admDispatching ∧ s.keepsMemory t ∧ t.image = s.image ∧ t.epoch = s.epoch ∧
        t.probe = false ∧ t.toks = [] ∧ t.held = [] ∧ t.mbs = [] ∧ (∀ c ∈ s.usedCtx, t.ctxState c = ctxIdle) ∧
        t.fld mapStatusHalted 0 = 0 ∧ t.fld snpStatusLocalHalt 0 = 0 ∧ t.fx.credits = [128, 0, 0, 64] ∧
        t.trk = s.trk.map (fun e => ({ e.atDispatch with inval := false } : Track).forStep
          ((s.trk.map Track.atDispatch).any Track.wantsProbe)) ∧ t.log = s.log ∧
        s.keepsKinds t [.cfgAdmit, .mapStatus, .mapSlots, .snpStatus, .seqStatus, .arrStatus, .accStatus, .accDrain, .layStatus, .updStatus,
          .sclStatus, .mgtIrqPend]) ∧
    (s.admState ≠ admLoaded → s.admState ≠ admHalted → exec (.dispatch src) s = .next (s.logEv 0x0203 1 0 (1 + 256 * s.admState)))) ∧
  (∀ (s : State) (src : Src), s.wf = true → s.accepts src .cfgCtrl 0 = true →
    (s.admState = admLoaded ∨ s.admState = admHalted →
      ∃ t, exec (.unload src) s = .next t ∧ t.admState = admUnloaded ∧ t.image = none ∧ s.keepsMemory t ∧ t.trk = [] ∧ t.toks = [] ∧
        t.chain = {} ∧ t.log = s.log ∧ t.fur = s.fur ∧ t.snp = s.snp ∧ t.word .cfgImgid 0 = 0 ∧
        t.word .mapChain 0 = 0 ∧ (∀ c, c < Config.ctx s.conf → t.ctxState c = 0) ∧
        s.keepsKinds t [.cfgAdmit, .cfgImgid, .cfgMstat, .arrCfg, .accCfg, .seqStatus, .layCfg, .sclCfg, .updCfg, .mapChain, .mapSlots,
          .mapHead, .furCfg, .snpCfg, .snpSched, .sclStatus, .arrStatus, .accStatus, .accDrain, .layStatus, .updStatus, .updNorm,
          .mapStatus]) ∧
    (s.admState ≠ admLoaded → s.admState ≠ admHalted → exec (.unload src) s = .next (s.logEv 0x0203 1 0 (2 + 256 * s.admState))))) ∧
  (∀ (s : State) (img : Image), s.wf = true → s.admState = admAdmitting → s.mcHalted = false → s.storeReads = false → 128 ≤ img.bytes.length →
    min (headerOf img.bytes).bytes 268435456 ≤ img.bytes.length →
    s.region0Bytes (4096 * s.fld cfgImageOffset 0) img.bytes.length = img.bytes →
    let i := readImage img
    (s.admissionFails i ≠ [] →
      ∃ t, exec (.admissionEnd img) s = .next t ∧ s.onlyRegsLog t ∧ t.admState = admUnloaded ∧ t.fld mgtIrqPendAdmit 0 = 1 ∧
        (∃ f ∈ s.admissionFails i, t.fld cfgAdmitCode 0 = f.code ∧ ∀ g ∈ s.admissionFails i, f.code ≤ g.code) ∧
        (∀ k, k < 10 → (t.fld cfgAdmitMask 0).testBit k = (s.admissionFails i).any fun f => f.code == k + 1) ∧
        s.keepsFields t ((regFields .cfgAdmit).map (·, 0) ++ [(mgtIrqPendAdmit, 0), (mgtLogStatusDropped, 0)])) ∧
    (s.admissionFails i = [] →
      ∃ t, exec (.admissionEnd img) s = .next t ∧ t.admState = admLoaded ∧ t.fld cfgAdmitCode 0 = 0 ∧ t.fld cfgAdmitMask 0 = 0 ∧
        t.image = some i ∧ t.trk = i.track.map trackNew ∧ t.chain.holders = i.holders ∧ t.fld mgtIrqPendAdmit 0 = 1 ∧
        t.fld cfgImgidImageId 0 = (headerOf img.bytes).imageId % 2 ^ 32 ∧ t.fld mapChainRank 0 = (headerOf img.bytes).rank % 2 ^ 10 ∧
        (∀ c ∈ i.contexts, t.ctxState c.ctx = ctxIdle) ∧ s.keepsMemory t ∧ t.epoch = s.epoch ∧
        s.keepsKinds t [.cfgAdmit, .cfgImgid, .cfgMstat, .arrCfg, .accCfg, .seqStatus, .layCfg, .sclCfg, .updCfg, .mapChain, .mapSlots, .furCfg,
          .snpCfg, .snpSched, .snpStatus, .snpSlota, .snpSlotb, .updNorm, .mgtIrqPend, .mgtLogStatus, .furLink, .mapStatus, .layStash, .layNarrow]))

/-! ## Mode changes -/

/-- MODE_PROPOSAL, PROPOSAL_ARRIVAL, MODE_ACK and MODE_NAK (R306 to R308): a proposal goes to the head in RUNNING alone; the head starts one
at a time with PREPARE for the next step, queues up to 16, the one in hand among them (log entry 76), and refuses the 17th, which its proposer
records; it gathers the acknowledgements of the pending
proposal, and aborts it at the first NAK.
PREPARE, COMMIT and ABORT (R307 to R309): an entry that the mode table lacks, or a second re-shard, is answered NAK and staged
nowhere; any other is staged, PENDING shows it, and it is answered ACK; COMMIT marks it for the boundary; ABORT drops it, with
LAST_RESULT 2, ABORTS and COMMIT_ABORT. -/
def Obligations.ProposalsAndModeCommit : Prop :=
  (∀ (s : State) (src : Src) (rank entry target : Nat), s.wf = true →
    (s.accepts src .cfgMprop 0 = true → s.admState = admRunning →
      exec (.modeProposal entry false src) s = .next (s.post (.proposal s.rank (entry % 65536)))) ∧
    (s.accepts src .cfgMprop 0 = true → s.admState ≠ admRunning → exec (.modeProposal entry false src) s = .next s) ∧
    (s.mayWiden entry = true → exec (.modeProposal entry true src) s = .next (s.post (.proposal s.rank entry))) ∧
    (s.headRuns = true → 16 ≤ s.proposalCount → rank ≠ s.rank →
      exec (.proposalArrival rank entry false) s = .next (s.post (.refusedProposal rank entry))) ∧
    (∀ refused, (refused = true ∧ s.onChain = true) ∨ (refused = false ∧ s.headRuns = true ∧ 16 ≤ s.proposalCount) →
      ∃ t, exec (.proposalArrival s.rank entry refused) s = .next t ∧ s.onlyRegsLog t ∧ t.fld cfgMstatEntry 0 = entry % 65536 ∧
        t.fld cfgMstatLastResult 0 = 3 ∧ t.fld mgtIrqPendMode 0 = 1 ∧
        s.keepsFields t [(cfgMstatEntry, 0), (cfgMstatLastResult, 0), (mgtIrqPendMode, 0), (mgtLogStatusDropped, 0)]) ∧
    (rank ≠ s.rank → exec (.proposalArrival rank entry true) s = .next s) ∧
    (s.headRuns = true → s.proposalCount < 16 → s.chain.pending.isSome = true →
      exec (.proposalArrival rank entry false) s = .next { s with chain := { s.chain with proposals := s.chain.proposals ++ [(rank, entry)] } }) ∧
    (s.headRuns = true → s.chain.pending = none → s.chain.proposals = [] →
      exec (.proposalArrival rank entry false) s = .next { s with chain := { s.chain with
        pending := some ⟨rank, entry, (s.epoch.toNat + 1) % 2 ^ 32, []⟩
        sent := s.chain.sent ++ [.prepare entry ((s.epoch.toNat + 1) % 2 ^ 32)] } }) ∧
    (∀ p, s.headRuns = true → s.chain.pending = some p → p.entry = entry → p.target = target →
      (∃ t, exec (.modeAck rank entry target) s = .next t ∧ t = { s with chain := { s.chain with pending := t.chain.pending } } ∧
        ∃ q, t.chain.pending = some q ∧ q.entry = entry ∧ q.target = target ∧ rank ∈ q.acks ∧ ∀ r, r ≠ rank → (r ∈ q.acks ↔ r ∈ p.acks)) ∧
      (s.chain.proposals = [] →
        exec (.modeNak rank entry target) s = .next { s with chain := { s.chain with
          pending := none, sent := s.chain.sent ++ [.abort entry] } })) ∧
    (s.headRuns = true → (∀ p, s.chain.pending = some p → p.entry ≠ entry ∨ p.target ≠ target) →
      exec (.modeAck rank entry target) s = .next s ∧ exec (.modeNak rank entry target) s = .next s)) ∧
  (∀ (s : State) (entry target : Nat), s.wf = true → s.works = true → s.admState = admRunning →
    (s.modeEntry entry = none ∨ s.reshardStaged = true →
      exec (.prepare entry target) s = .next { s with chain := { s.chain with
        prepared := some entry, sent := s.chain.sent ++ [.nak s.rank entry target] } }) ∧
    ((s.modeEntry entry).isSome = true → s.reshardStaged = false →
      ∃ t, exec (.prepare entry target) s = .next t ∧ t.fld cfgMstatPending 0 = 1 ∧ t.fld cfgMstatEntry 0 = entry % 65536 ∧
        t = { s with regs := t.regs, chain := { s.chain with
          prepared := some entry, staged := some (entry, target), committed := none, sent := s.chain.sent ++ [.ack s.rank entry target] } } ∧
        s.keepsFields t [(cfgMstatPending, 0), (cfgMstatEntry, 0)]) ∧
    (∀ e, s.chain.staged = some e → exec .commit s = .next { s with chain := { s.chain with committed := some e.1 } }) ∧
    (s.chain.staged = none → exec .commit s = .next s) ∧
    (∃ t, exec .abort s = .next t ∧ t.fld cfgMstatPending 0 = 0 ∧ t.fld cfgMstatLastResult 0 = 2 ∧ t.fld cfgMstatCommitAbort 0 = 1 ∧
      t.fld cfgMstatAborts 0 = min (s.fld cfgMstatAborts 0 + 1) 65535 ∧ t.fld mgtIrqPendMode 0 = 1 ∧
      t = { s with regs := t.regs, log := t.log, chain := { s.chain with staged := none, committed := none, prepared := none } } ∧
      s.keepsFields t ((regFields .cfgMstat).map (·, 0) ++ [(mgtIrqPendMode, 0), (mgtLogStatusDropped, 0)])))

/-! ## Preemption, tokens, the tracker's commands -/

/-- PREEMPT, CONTEXT_PREEMPTED and RESUME (R120, R314 to R316): a running or restarting context becomes PREEMPTING; once its units have
stopped its FILLING tiles are written to its save area and freed and it is PREEMPTED; RESUME takes it back to the state it was
preempted in, unless what it reads back is bad; the moves that waited go on, and where none does, nothing else changes but its tiles,
its faults and its sides. In other states nothing changes.
The record and the moment are log entries 41 and 103.
DOORBELL and TOKEN_MESSAGE (R21, R293, R295, R296): a raise of a token that its source may raise adds one to its count, or, at 65,535, leaves
it with TOKOVF set, and is sent where TOKENS wires it; no other count changes; any other token is discarded with its event. A message acts
only while MEM runs (log entry 136). -/
def Obligations.PreemptionAndTokens : Prop :=
  (∀ (s : State) (ctx : Nat) (src : Src), s.wf = true → ctx < 64 →
    (s.accepts src .seqCtrl ctx = true →
      (s.ctxState ctx = ctxRunning ∨ s.ctxState ctx = ctxRestarting →
        ∃ t, exec (.preempt ctx src) s = .next t ∧ t.ctxState ctx = ctxPreempting ∧ s.keepsFields t [(seqStatusState, ctx)] ∧
          t = { s with regs := t.regs, ctxs := t.ctxs } ∧
          (ctx < s.ctxs.length → t.ctx ctx = { s.ctx ctx with before := s.ctxState ctx }) ∧ ∀ c, c ≠ ctx → t.ctx c = s.ctx c) ∧
      (s.ctxState ctx ≠ ctxRunning → s.ctxState ctx ≠ ctxRestarting → exec (.preempt ctx src) s = .next s) ∧
      (s.ctxState ctx = ctxPreempted →
        ∃ t, exec (.resume ctx src) s = .next t ∧ (ctx < s.ctxs.length → (t.ctx ctx).before = 0 ∧ (t.ctx ctx).saved = []) ∧
          ((∀ m ∈ s.chain.moves, m.ctx ≠ ctx) → s.keepsMemory t ∧ (∀ c, c ≠ ctx → t.ctx c = s.ctx c) ∧
            s.keepsKinds t [.seqStatus, .seqFault, .arrStatus, .mgtIrqPend, .mgtLogStatus] ∧
            (∀ n, (∀ p ∈ (s.ctx ctx).saved, p.1 ≠ n) → t.tile n = s.tile n) ∧
            ((s.ctx ctx).saved = [] ∨ (∀ a, (s.readLoc (some ⟨0, a⟩)).2 = false) →
              t.ctxState ctx = (if (s.ctx ctx).before = 0 then ctxRunning else (s.ctx ctx).before % 8)))) ∧
      (s.ctxState ctx ≠ ctxPreempted → exec (.resume ctx src) s = .next s)) ∧
    (s.ctxState ctx = ctxPreempting → s.mayRest ctx = true →
      let tiles := (((s.ctxSideList ctx).flatMap fun x => [sideNo x.1 x.2 * 2, sideNo x.1 x.2 * 2 + 1]).filter fun n =>
        (s.tile n).state == .filling).map fun n => (n, s.tile n)
      let ws := bytesAt 0 (s.saveArea ctx) (s.saveBytes ctx tiles) false
      ∃ t, exec (.contextPreempted ctx) s = .next t ∧ t.ctxState ctx = ctxPreempted ∧ t.mem = (s.storeBatch (saveWho ctx) false ws).mem ∧
        (s.saveArea ctx + ws.length ≤ 2 ^ 42 → s.keepsOutside t (writeCodes ws)) ∧ t.toks = s.toks ∧ t.chain = s.chain ∧
        s.keepsFields t [(seqStatusState, ctx), (layStashHole, 0), (layStashHoleCnt, 0), (mgtLogStatusDropped, 0)] ∧
        (∀ n, t.tile n = if (s.tile n).state = .filling ∧ ∃ x ∈ s.ctxSideList ctx, sideNo x.1 x.2 = n / 2 then {} else s.tile n) ∧
        (ctx < s.ctxs.length → ∀ n, (s.tile n).state = .filling → (∃ x ∈ s.ctxSideList ctx, sideNo x.1 x.2 = n / 2) →
          (n, s.tile n) ∈ (t.ctx ctx).saved))) ∧
  (∀ (s : State) (ctx tok rank : Nat) (v : Word) (src : Src), s.wf = true → ctx < 64 → tok < 4096 →
    (s.accepts src .seqDoorbell ctx = true → fldGet seqDoorbellToken v = tok →
      ((∀ d, s.tokDecl ctx tok = some d → d.source ≠ .doorbell) → exec (.doorbell ctx v src) s = .next (s.logEv 0x0204 2 ctx tok)) ∧
      (∀ d, s.tokDecl ctx tok = some d → d.source = .doorbell →
        ∃ t, exec (.doorbell ctx v src) s = .next t ∧ (∀ c x, 4096 * c + x ≠ 4096 * ctx + tok → t.tok c x = s.tok c x) ∧
          t.tok ctx tok = (if s.tok ctx tok = 65535 then 65535 else s.tok ctx tok + 1) ∧
          (s.tok ctx tok = 65535 → t.fld seqStatusTokovf ctx = 1) ∧
          t = { s with regs := t.regs, log := t.log, toks := t.toks, chain := { s.chain with sent := t.chain.sent } } ∧
          (∀ i, s.image = some i → t.chain.sent = s.chain.sent ++
            (i.wiring.filter fun w => w.ctx == ctx && w.tok == tok).map fun w => .token w.rank w.toCtx w.toTok) ∧
          s.keepsFields t [(seqStatusTokovf, ctx), (mgtLogStatusDropped, 0)])) ∧
    (s.onChain = false → exec (.tokenMessage rank ctx tok) s = .next s) ∧
    (s.onChain = true →
      ((∀ d, s.tokDecl ctx tok = some d → d.source ≠ .remote) ∨ s.usedCtx.contains ctx = false →
        exec (.tokenMessage rank ctx tok) s = .next (s.logEv 0x030A 2 ctx (rank + 1024 * tok))) ∧
      (∀ d, s.tokDecl ctx tok = some d → d.source = .remote → s.usedCtx.contains ctx = true →
        ∃ t, exec (.tokenMessage rank ctx tok) s = .next t ∧ (∀ c x, 4096 * c + x ≠ 4096 * ctx + tok → t.tok c x = s.tok c x) ∧
          t.tok ctx tok = (if s.tok ctx tok = 65535 then 65535 else s.tok ctx tok + 1) ∧
          t = { s with regs := t.regs, log := t.log, toks := t.toks, chain := { s.chain with sent := t.chain.sent } } ∧
          s.keepsFields t [(seqStatusTokovf, ctx), (mgtLogStatusDropped, 0)])))

/-- INVAL, INVAL_ALL and CLR_FLAGS (R182, R183, R193): the Peck of the selected entry, or of every one, is emptied, with the event, a probe is
required and its initial SE is given up, and nothing else of an entry changes; without such an entry nothing happens; CLR_FLAGS clears
FLAGGED of every entry.
AMAX_RECORD (R25, R163, R164, R401): a record of TYPE 4 waits for the next layer-done, one of an unknown TYPE is discarded and recorded.
LAYER_DONE attributes what waits (log entry 15): in the current step of a running engine it folds the magnitude, without its sign, into the pending measurement of the tensor, an infinity or a NaN sets NF alone; in the next step
it is kept apart; in any other it is discarded, and shown in LATE. -/
def Obligations.TrackerCommandsAndAmaxRecords : Prop :=
  (∀ (s : State) (src : Src), s.wf = true → s.accepts src .sclCtrl 0 = true →
    ((s.trk.any fun e => e.stat.tnum == s.fld sclSelTnum 0) = true →
      ∃ t, exec (.inval src) s = .next t ∧ t = { s with regs := t.regs, log := t.log, trk := t.trk } ∧
        s.keepsFields t [(mgtLogStatusDropped, 0)] ∧
        t.trk = s.trk.map fun e =>
          if e.stat.tnum = s.fld sclSelTnum 0 then
            { e with peck := List.replicate 16 peckEmpty, holdInit := false, noInit := true, inval := true } else e) ∧
    ((s.trk.any fun e => e.stat.tnum == s.fld sclSelTnum 0) = false → exec (.inval src) s = .next s) ∧
    (∃ t, exec (.invalAll src) s = .next t ∧ t = { s with regs := t.regs, log := t.log, trk := t.trk } ∧
      s.keepsFields t [(mgtLogStatusDropped, 0)] ∧
      t.trk = s.trk.map fun e => { e with peck := List.replicate 16 peckEmpty, holdInit := false, noInit := true, inval := true }) ∧
    exec (.clrFlags src) s = .next { s with trk := s.trk.map fun e => { e with flagged := false } }) ∧
  (∀ (s : State) (type tnum n : Nat) (x : F32), s.fxOn = true → s.fx.credits.getD 3 0 = n + 1 →
    ∃ t, exec (.amaxRecord type tnum x) s = .next t ∧ t.fx.amax = (if type = 4 then s.fx.amax ++ [(tnum, x)] else s.fx.amax) ∧
      (type = 4 → t = { s with fx := { s.fx with credits := t.fx.credits, amax := t.fx.amax } }) ∧
      (type ≠ 4 → t.log = (s.logEv 0x0302 15 0 (type + 2 ^ 63)).log ∧
        t = { s with regs := t.regs, log := t.log, fx := { s.fx with credits := t.fx.credits } }) ∧
      t.fx.credits.getD 3 0 = if s.fxGrants = true then min 64 (n + 1) else n) ∧
  (∀ (s : State) (step mb layer n : Nat), s.wf = true → s.fxOn = true → s.fx.credits.getD 3 0 = n + 1 → s.curStep < 2 ^ 32 →
    let folded := fun (p : Pend) (x : F32) => if fFinite x then (⟨max p.amax (x.toNat % 2 ^ 31), p.nf, false⟩ : Pend) else ⟨p.amax, true, false⟩
    ∃ t, exec (.layerDone step mb layer) s = .next t ∧ t.fx.amax = [] ∧
      (step = s.curStep → s.admState ≠ admDispatching → t.trk = s.trk.map fun e => s.fx.amax.foldl (fun e a =>
        if e.stat.tnum = a.1 ∧ e.used = true then { e with pend := folded e.pend a.2 } else e) e) ∧
      (step = (s.curStep + 1) % 2 ^ 32 → t.trk = s.trk.map fun e => s.fx.amax.foldl (fun e a =>
        if e.stat.tnum = a.1 ∧ e.used = true then { e with next := folded e.next a.2 } else e) e) ∧
      (step ≠ s.curStep ∨ s.admState = admDispatching → step ≠ (s.curStep + 1) % 2 ^ 32 → t.trk = s.trk ∧
        ((∃ a ∈ s.fx.amax, ∃ e ∈ s.trk, e.stat.tnum = a.1 ∧ e.used = true) → t.fld sclStatusLate 0 = 1)))

/-! ## Ports, ring, restore and halt commands; slow reads -/

/-- RETRAIN, CLR_CNT, JOIN, LEAVE and RING_LOCK (R272, R274, R279, R423): a retrain starts bring-up of the port anew; CLR_CNT clears the FEC and
retry counts; JOIN, with LOOP_OK alone, and LEAVE switch RING_BYP and train every port that runs through the bypass; RING_LOCK sets
LOCK, after which BYP_PORTS and RTM_PAIR do not change.
A port that the retimer drives stays as it is (R361).
RESTORE, LOCAL_HALT and HALT (R257, R302, R330, R334, R339): a restore in HALTED or LOADED, one in progress too, begins its SCAN, whose report goes
out when what it reads has come (log entry 87), once every used port is UP and no snapshot is being sealed, and else waits for that; LOCAL_HALT and the
head's HALT stop a dispatching or running engine: HALTED, with its interrupt, no staged change left, no snapshot in progress but one that is being
sealed, and no byte of memory changed; LOCAL_HALT is shown. LOOP_OK rests on log entry 30. -/
def Obligations.PortRingRestoreAndHaltCommands : Prop :=
  (∀ (s : State) (port : Nat) (v : Word) (src : Src), s.wf = true →
    (s.accepts src .furCtrl port = true → port < s.fur.length →
      ((s.retimed port).isSome = true → exec (.retrain port src) s = .next s) ∧
      (s.retimed port = none → ∃ t, exec (.retrain port src) s = .next t ∧ t.port port = { stage := 1, dark := false, inject := (s.port port).inject } ∧ (∀ n, n ≠ port → t.port n = s.port n) ∧
        t.fld furLinkState port = (if s.loopsBack port then linkLoopback else linkTraining) ∧
        (∀ n, (t.fld mapStatusDownPorts 0).testBit n = ((s.fld mapStatusDownPorts 0).testBit n && n != port)) ∧
        t = { s with regs := t.regs, fur := t.fur } ∧ s.keepsFields t [(furLinkState, port), (mapStatusDownPorts, 0)]) ∧
      (∃ t, exec (.clrCnt port src) s = .next t ∧ (∀ f ∈ regFields .furFec ++ regFields .furRetry, t.fld f port = 0) ∧ s.onlyRegs t ∧
        s.keepsFields t ((regFields .furFec ++ regFields .furRetry).map (·, port)))) ∧
    (s.accepts src .mapRing 0 = true → s.fur.length = 16 →
      (s.loopOk = false → exec (.join src) s = .next s) ∧
      (s.loopOk = true → s.flag mapRingBypAsserted 0 = true → ∃ t, exec (.join src) s = .next t ∧ t.flag mapRingBypAsserted 0 = false ∧
        t = { s with regs := t.regs, fur := t.fur } ∧
        (∀ n, n < 16 → (s.fld mapRingBypPorts 0).testBit n = true → n < Config.fports s.conf → s.retimed n = none →
          t.fld furLinkState n = linkTraining ∧ (t.port n).stage = 1) ∧
        (∀ n, n < 16 → (s.fld mapRingBypPorts 0).testBit n = false → t.fld furLinkState n = s.fld furLinkState n ∧ t.port n = s.port n) ∧
        s.keepsFields t ((mapRingBypAsserted, 0) :: (mapStatusDownPorts, 0) :: (List.range 16).map (furLinkState, ·))) ∧
      (s.flag mapRingBypAsserted 0 = true → exec (.leave src) s = .next s) ∧
      (s.flag mapRingBypAsserted 0 = false → ∃ t, exec (.leave src) s = .next t ∧ t.flag mapRingBypAsserted 0 = true ∧
        t = { s with regs := t.regs, fur := t.fur } ∧
        (∀ n, n < 16 → (s.fld mapRingBypPorts 0).testBit n = true → n < Config.fports s.conf → s.retimed n = none →
          t.fld furLinkState n = linkLoopback ∧ (t.port n).stage = 1) ∧
        s.keepsFields t ((mapRingBypAsserted, 0) :: (mapStatusDownPorts, 0) :: (List.range 16).map (furLinkState, ·))) ∧
      (fldGet mapRingJoin v = 0 → fldGet mapRingLeave v = 0 →
        ∃ t, exec (.ringLock v src) s = .next t ∧ t.flag mapRingLock 0 = true ∧ s.onlyRegsLog t ∧
          (s.flag mapRingLock 0 = false → t.fld mapRingBypPorts 0 = fldGet mapRingBypPorts v ∧ t.fld mapRingRtmPair 0 = fldGet mapRingRtmPair v ∧
            s.keepsFields t [(mapRingLock, 0), (mapRingBypPorts, 0), (mapRingRtmPair, 0)]) ∧
          (s.flag mapRingLock 0 = true → s.keepsFields t [(mgtCperrLocked, 0), (mgtLogStatusDropped, 0)])))) ∧
  (∀ (s : State) (src : Src) (step fault : Nat), s.wf = true →
    (s.accepts src .snpCtrl 0 = true →
      (∀ b, s.bushel = some b → s.mayRestore = true →
        ∃ t, exec (.restore src) s = .next t ∧ s.keepsMemory t ∧ t.admState = s.admState ∧ t.fld snpStatusFilled 0 = 0 ∧
          s.keepsFields t [(snpStatusFilled, 0), (snpStatusPhase, 0), (layNarrowBytes, 0), (layStashHole, 0), (layStashHoleCnt, 0),
            (mgtLogStatusDropped, 0)] ∧
          (s.snp.sealing = none → t.snp.active = false ∧
            ((s.usedPorts.all fun n => s.linkState n == linkUp) = true →
              t.fld snpStatusPhase 0 = 4 ∧ t.snp.restore.waiting = false ∧
                NetMsg.scan s.rank s.slotSteps s.mirrorSteps ∈ t.chain.sent ++ t.chain.answers.map (·.2))) ∧
          ((s.usedPorts.all fun n => s.linkState n == linkUp) = false ∨ s.snp.sealing.isSome = true →
            t.snp.restore.waiting = true ∧ t.chain = s.chain ∧ t.sp = s.sp)) ∧
      (s.bushel = none ∨ s.mayRestore = false → exec (.restore src) s = .next s) ∧
      (s.admState = admRunning ∨ s.admState = admDispatching →
        ∃ t, exec (.localHalt src) s = .next t ∧ t.admState = admHalted ∧ t.fld mapStatusHalted 0 = 1 ∧ t.fld mgtIrqPendHalt 0 = 1 ∧
          t.fld snpStatusLocalHalt 0 = 1 ∧ s.keepsMemory t ∧ t.toks = s.toks ∧ t.chain.staged = none ∧
          (s.snp.sealing = none → t.snp.active = false) ∧ (s.snp.sealing.isSome = true → t.snp = s.snp) ∧
          s.keepsKinds t [.cfgAdmit, .cfgMstat, .mapStatus, .mapHead, .mapReshard, .snpStatus, .mgtIrqPend, .mgtLogStatus]) ∧
      (s.admState ≠ admRunning → s.admState ≠ admDispatching → exec (.localHalt src) s = .next s)) ∧
    (s.onChain = true → s.admState = admRunning ∨ s.admState = admDispatching →
      ∃ t, exec (.halt step fault) s = .next t ∧ t.admState = admHalted ∧ t.fld mapStatusHalted 0 = 1 ∧ t.fld mgtIrqPendHalt 0 = 1 ∧
        s.keepsMemory t ∧ t.toks = s.toks ∧ t.chain.staged = none ∧ (s.snp.sealing = none → t.snp.active = false) ∧
        (s.snp.sealing.isSome = true → t.snp = s.snp) ∧ t.fld snpStatusLocalHalt 0 = s.fld snpStatusLocalHalt 0 ∧
        s.keepsKinds t [.cfgAdmit, .cfgMstat, .mapStatus, .mapHead, .mapReshard, .snpStatus, .mgtIrqPend, .mgtLogStatus]))

/-- SLOW_READ_RETURN (R384, R395, R396, R419): a read is accepted, which the TAP may make in its operation set alone; a status register, an absent or
sleeping bank and an address that names no register, which is counted, answer at once with the read's tag; a slow register waits, and the oldest read
that waits answers under the selection in force when it was accepted; nothing else changes. That one command brings both phases is the model's
choice (log entry 88).
LOG_SELECT and LOG_ENTRY_LOADED (R432): a selection stores SEQ and drops LOADED in the same cycle, and LOG_E0 to LOG_E3 keep what they
show; its end raises LOADED, with the entry's fields where the ring holds SEQ, else with ABSENT and four zero registers. -/
def Obligations.SlowReadsAndLogSelection : Prop :=
  ((∀ (s : State) (addr tag : Nat), s.wf = true → s.alive = true → tag < 16 →
    (s.tapReads ((regAt addr).map (·.1)) = false → exec (.slowReadReturn (.accepted addr tag .tap)) s = .next s.dbgRefuse) ∧
    (regAt addr = none → ∃ t, exec (.slowReadReturn (.accepted addr tag .cp)) s = .next t ∧ t.cpRet = some ⟨tag, 0⟩ ∧
      t = { s with regs := t.regs, cpRet := t.cpRet } ∧ t.fld mgtCperrUnmapped 0 = min (s.fld mgtCperrUnmapped 0 + 1) 65535 ∧
      s.keepsFields t [(mgtCperrUnmapped, 0)]) ∧
    (∀ k u, regAt addr = some (k, u) →
      (selectorOf k = none ∨ s.readsZero k u = true →
        exec (.slowReadReturn (.accepted addr tag .cp)) s = .next { s with cpRet := some ⟨tag, s.read k u⟩ } ∧
        (s.tapReads (some k) = true →
          exec (.slowReadReturn (.accepted addr tag .tap)) s = .next { s with tap := { s.tap with data := s.read k u } })) ∧
      ((selectorOf k).isSome = true → s.readsZero k u = false →
        exec (.slowReadReturn (.accepted addr tag .cp)) s = .next { s with slow := s.slow ++ [⟨k, u, tag, .cp, s.selNow k u⟩] }))) ∧
  (∀ (s : State), s.alive = true →
    (s.slow = [] → exec (.slowReadReturn .returned) s = .next s) ∧
    ∀ r l, s.slow = r :: l →
      (r.src = .cp → exec (.slowReadReturn .returned) s = .next { s with slow := l, cpRet := some ⟨r.tag, s.readUnder r.kind r.unit r.sel⟩ }) ∧
      (r.sel = s.selNow r.kind r.unit → s.readUnder r.kind r.unit r.sel = s.read r.kind r.unit))) ∧
  (∀ (s : State) (v : Word) (src : Src), s.wf = true →
    (s.accepts src .mgtLogSel 0 = true →
      ∃ t, exec (.logSelect v src) s = .next t ∧ t.fld mgtLogSelSeq 0 = v.toNat % 2 ^ 32 ∧ t.fld mgtLogSelLoaded 0 = 0 ∧
        s.keepsFields t [(mgtLogSelSeq, 0), (mgtLogSelLoaded, 0)] ∧ s.onlyRegs t) ∧
    (s.fld mgtLogSelLoaded 0 = 0 →
      ∃ t, exec .logEntryLoaded s = .next t ∧ s.onlyRegs t ∧ t.fld mgtLogSelLoaded 0 = 1 ∧
        s.keepsFields t ([(mgtLogSelLoaded, 0), (mgtLogSelAbsent, 0)] ++
          (regFields .mgtLogE0 ++ regFields .mgtLogE1 ++ regFields .mgtLogE2 ++ regFields .mgtLogE3).map (·, 0)) ∧
        (∀ e, s.log.ring.find? (fun e => e.seq == s.fld mgtLogSelSeq 0) = some e →
          t.fld mgtLogSelAbsent 0 = 0 ∧ t.fld mgtLogE0Seq 0 = e.seq % 2 ^ 32 ∧ t.fld mgtLogE0Code 0 = e.code % 2 ^ 16 ∧
            t.fld mgtLogE0Repeat 0 = e.rep % 2 ^ 16 ∧ t.fld mgtLogE1Time 0 = e.time % 2 ^ 56 ∧ t.fld mgtLogE2Block 0 = e.block % 2 ^ 4 ∧
            t.fld mgtLogE2Unit 0 = e.unit % 2 ^ 7 ∧ t.fld mgtLogE3Arg 0 = e.arg % 2 ^ 64) ∧
        (s.log.ring.find? (fun e => e.seq == s.fld mgtLogSelSeq 0) = none →
          t.fld mgtLogSelAbsent 0 = 1 ∧ t.word .mgtLogE0 0 = 0 ∧ t.word .mgtLogE1 0 = 0 ∧ t.word .mgtLogE2 0 = 0 ∧ t.word .mgtLogE3 0 = 0)))

/-! ## Attached memory and the SRAM spaces -/

/-- The SC8 code (R210, R211): a unit written good reads good, one written as poisoned reads as poisoned, and any one symbol in error, of
the data or of the check bytes, is corrected. -/
def Obligations.SymbolCode : Prop :=
  ∀ (d : List Byte), d.length = 64 →
    sc8Data (d ++ sc8Good d) = (d, false) ∧ sc8Check (d ++ sc8Good d) = .good ∧
    sc8Data (d ++ sc8Poison d) = (d, true) ∧ sc8Check (d ++ sc8Poison d) = .poisoned ∧
    ∀ (i : Nat) (v : Byte), i < 68 → v ≠ 0 →
      sc8Check ((d ++ sc8Good d).modify i (· ^^^ v)) = .corrected i v ∧ sc8Data ((d ++ sc8Good d).modify i (· ^^^ v)) = (d, false)

/-- A batch of writes to attached memory and the SRAM spaces (R209, R212): every written byte reads back, nothing outside the units and words it
touches changes, the bytes of those that it does not write read as before, and the canonical form is kept. -/
def Obligations.BatchOfWrites : Prop :=
  ∀ (s : State) (w : Who) (combine : Bool) (ws : List ByteWrite), s.wf = true →
    (∀ x ∈ ws, x.loc.space < 4 ∧ x.loc.key < 2 ^ 42) → ws.Pairwise (fun x y => x.loc ≠ y.loc) →
    (s.storeBatch w combine ws).wf = true ∧ s.keepsOutside (s.storeBatch w combine ws) (writeCodes ws) ∧
      s.keepsFields (s.storeBatch w combine ws) [(layStashHole, 0), (layStashHoleCnt, 0), (mgtLogStatusDropped, 0)] ∧
      (∀ x ∈ ws, (x.loc.space ≠ 0 ∨ ∃ q, s.mapAddr (x.loc.key / 64 * 64) = some q ∧ s.portFailed q.1 = false) →
        ((s.storeBatch w combine ws).readLoc (some x.loc)).1 = x.val) ∧
      ∀ l : Loc, l.space < 4 → l.key < 2 ^ 42 → (∀ x ∈ ws, x.loc ≠ l) →
        ((s.storeBatch w combine ws).readLoc (some l)).1 = (s.readLoc (some l)).1

/-! ## The forward-exchange interface -/

/-- A class 0, 1 or 2 beat without a credit is discarded and recorded (R22); so is, with its credit given back if it has not returned yet, a beat
that waited for its micro-batch when the record that names it names a refused one (R199, log entry 116). No other effect.
FXO_CREDIT (R399, R401): what FX outbound holds leaves in its order as far as its credits reach: a weight beat takes a data credit, any
record a record credit, and what stays behind lacks its own; nothing else changes. -/
def Obligations.DiscardedBeatsAndCredits : Prop :=
  (∀ (s : State) (entry beat : Nat) (last : Bool) (data : List Byte) (cls : Nat) (c : Instr), data.length = 256 → s.fxOn = true →
    (cls, c) ∈ [(0, Instr.stashPush entry beat last data), (1, .recomputeBeat entry beat last data), (2, .seedBeat entry beat last data)] →
    s.fx.credits.getD cls 0 = 0 → exec c s = .next (s.logEv 0x0301 15 0 cls)) ∧
  (∀ (s : State) (step mb layer n : Nat) (b : Beat), s.wf = true → s.fxOn = true → s.fx.credits.getD 3 0 = n + 1 →
    s.mbRefused step mb = true → b.own = none →
    (s.fx.wait0 = [b] → s.fx.pads = [] → s.fx.amax = [] →
      ∃ t, exec (.layerDone step mb layer) s = .next t ∧ t.fx.wait0 = [] ∧ t.fx.wait2 = s.fx.wait2 ∧ s.keepsMemory t ∧
        t.log = (s.logEv 0x0301 15 0 0).log ∧ s.keepsFields t [(layStashPushWait, 0), (mgtLogStatusDropped, 0)] ∧
        t.fx.credits.getD 0 0 = (if s.fxGrants = true ∧ b.paid = false then min 128 (s.fx.credits.getD 0 0 + 1) else s.fx.credits.getD 0 0) ∧
        t.toks = s.toks) ∧
    (s.fx.wait2 = [b] → s.fx.seedPads = [] →
      ∃ t, exec (.seedDone step mb) s = .next t ∧ t.fx.wait2 = [] ∧ t.fx.wait0 = s.fx.wait0 ∧ s.keepsMemory t ∧
        t.log = (s.logEv 0x0301 15 0 2).log ∧ s.keepsFields t [(mgtLogStatusDropped, 0)] ∧
        t.fx.credits.getD 2 0 = (if s.fxGrants = true ∧ b.paid = false then min 32 (s.fx.credits.getD 2 0 + 1) else s.fx.credits.getD 2 0) ∧
        t.toks = s.toks)) ∧
  (∀ (s : State) (beats records : Nat), s.fxOn = true →
    ∃ t, exec (.fxoCredit beats records) s = .next t ∧ t = { s with fx := { s.fx with
        outData := t.fx.outData, outRec := t.fx.outRec, queue := t.fx.queue, out := t.fx.out } } ∧
      t.fx.out ++ t.fx.queue = s.fx.out ++ s.fx.queue ∧ s.fx.out.length ≤ t.fx.out.length ∧
      (∀ l b e d, t.fx.queue.head? = some (.weightBeat l b e d) → t.fx.outData = 0) ∧
      (∀ x, t.fx.queue.head? = some x → (∀ l b e d, x ≠ .weightBeat l b e d) → t.fx.outRec = 0) ∧
      t.fx.outData + t.fx.outRec + t.fx.out.length = s.fx.outData + s.fx.outRec + s.fx.out.length + beats + records)

/-- STASH_PUSH and SEED_BEAT (R25, R26, R197, R202): a beat names no micro-batch, so it waits unwritten for the record that does (log entry 15); its
credit returns as soon as the micro-batch that is expected of it leaves its entry free, and a push that waits for a release shows PUSH_WAIT.
LAYER_DONE and SEED_DONE write the beat that waits (R196, R197, R202, R400), where no padding and no token comes in: one beyond its entry is discarded and
recorded; one whose entry another micro-batch holds waits on; any other is written, a push at the entry's address in the set of its micro-batch, a seed
beat to the elements that its bytes are, and its entry is held.
RECOMPUTE_BEAT (R204, R400): a beat of a stream that a request owes lands in its ring, and one that none owes is discarded and recorded (log entry
14). -/
def Obligations.StashSeedAndRecomputeBeats : Prop :=
  (∀ (s : State) (entry beat : Nat) (last : Bool) (data : List Byte) (n : Nat), s.wf = true → data.length = 256 → s.fxOn = true →
    (s.fx.credits.getD 0 0 = n + 1 →
      let b := (⟨entry, beat, data, none, false⟩ : Beat)
      let free := match s.expected with | some p => !s.pushHeld b p.1 p.2 | none => false
      ∃ t, exec (.stashPush entry beat last data) s = .next t ∧ t = { s with regs := t.regs, fx := { s.fx with
          credits := t.fx.credits, owed := t.fx.owed, wait0 := s.fx.wait0 ++ [{ b with paid := free }] } } ∧
        s.keepsFields t [(layStashPushWait, 0)] ∧
        (free = false → t.fx.credits = s.fx.credits.set 0 n ∧ t.fx.owed = s.fx.owed) ∧
        (∀ p, s.expected = some p → free = true → s.inWindow p.1 p.2 = true →
          t.fx.credits.getD 0 0 = if s.fxGrants = true then min 128 (n + 1) else n) ∧
        (∀ p, s.expected = some p → s.pushHeld b p.1 p.2 = true → t.fld layStashPushWait 0 = 1)) ∧
    (s.fx.credits.getD 2 0 = n + 1 →
      let free := match s.expected with | some p => !s.heldByOther true entry 0 p.1 p.2 | none => false
      ∃ t, exec (.seedBeat entry beat last data) s = .next t ∧ t = { s with fx := { s.fx with
          credits := t.fx.credits, owed := t.fx.owed, wait2 := s.fx.wait2 ++ [⟨entry, beat, data, none, free⟩] } } ∧
        (free = false → t.fx.credits = s.fx.credits.set 2 n ∧ t.fx.owed = s.fx.owed) ∧
        (∀ p, s.expected = some p → free = true → s.inWindow p.1 p.2 = true →
          t.fx.credits.getD 2 0 = if s.fxGrants = true then min 32 (n + 1) else n))) ∧
  (∀ (s : State) (step mb layer n k : Nat) (m : Mb) (x : Bucket) (b : Beat), s.wf = true → s.fxOn = true → s.fx.credits.getD 3 0 = n + 1 →
    s.mbRec step mb = some m → m.bucket = some k → s.buckets[k]? = some x → x.len ≤ m.n → b.own = none → s.tokDecls = [] →
    (s.fx.wait0 = [b] → s.fx.pads = [] → s.fx.amax = [] →
      ((∀ r, stashOf x b.entry = some r → r.bytes ≤ 256 * b.beat) →
        ∃ t, exec (.layerDone step mb layer) s = .next t ∧ s.keepsMemory t ∧ t.fx.wait0 = [] ∧ t.fx.holding = s.fx.holding ∧
          s.keepsFields t [(layStashPushWait, 0), (mgtLogStatusDropped, 0)] ∧ t.log = (s.logEv 0x0302 15 0 (b.entry + 65536 * b.beat)).log) ∧
      (∀ r, stashOf x b.entry = some r → 256 * b.beat < r.bytes →
        (s.heldByOther false b.entry (stashSet x r (m.acc.getD 0)).1 step mb = true →
          ∃ t, exec (.layerDone step mb layer) s = .next t ∧ s.keepsMemory t ∧ t.fx.wait0 = [{ b with own := some (step, mb) }] ∧
            t.fx.holding = s.fx.holding ∧ t.fld layStashPushWait 0 = 1 ∧ s.keepsFields t [(layStashPushWait, 0)]) ∧
        (s.heldByOther false b.entry (stashSet x r (m.acc.getD 0)).1 step mb = false →
          (stashSet x r (m.acc.getD 0)).2 + 256 * b.beat + b.data.length ≤ 2 ^ 42 →
          ∃ t ws, ws = bytesAt (if r.place = .keg then 1 else 0) ((stashSet x r (m.acc.getD 0)).2 + 256 * b.beat) b.data false ∧
            exec (.layerDone step mb layer) s = .next t ∧ s.keepsOutside t (writeCodes ws) ∧
            t.mem = (s.storeBatch Who.engine false ws).mem ∧ t.keg = (s.storeBatch Who.engine false ws).keg ∧
            ⟨false, b.entry, (stashSet x r (m.acc.getD 0)).1, step, mb⟩ ∈ t.fx.holding ∧ t.fx.wait0 = [] ∧
            s.keepsFields t [(layStashPushWait, 0), (layStashHole, 0), (layStashHoleCnt, 0), (mgtLogStatusDropped, 0)] ∧ t.ctxs = s.ctxs))) ∧
    (s.fx.wait2 = [b] → s.fx.seedPads = [] → s.fx.wait0 = [] → s.fx.pads = [] →
      ((∀ r, seedOf x b.entry = some r → r.bytes ≤ 256 * b.beat) →
        ∃ t, exec (.seedDone step mb) s = .next t ∧ s.keepsMemory t ∧ t.fx.wait2 = [] ∧ t.fx.holding = s.fx.holding ∧
          s.keepsFields t [(layStashPushWait, 0), (mgtLogStatusDropped, 0)] ∧ t.log = (s.logEv 0x0302 15 0 (b.entry + 65536 * b.beat)).log) ∧
      (∀ r, seedOf x b.entry = some r → 256 * b.beat < r.bytes → s.descsDiffer [r.desc] = false →
        (s.heldByOther true b.entry 0 step mb = true →
          ∃ t, exec (.seedDone step mb) s = .next t ∧ s.keepsMemory t ∧ t.fx.wait2 = [{ b with own := some (step, mb) }] ∧
            t.fx.holding = s.fx.holding ∧ s.keepsFields t [(layStashPushWait, 0)]) ∧
        (s.heldByOther true b.entry 0 step mb = false →
          ∃ t ws, ws = s.elemWrites (s.desc r.desc) (seedElems (s.desc r.desc) b.beat m.n b.data) ∧
            exec (.seedDone step mb) s = .next t ∧
            t.mem = (s.storeBatch Who.engine false ws.1).mem ∧ t.keg = (s.storeBatch Who.engine false ws.1).keg ∧
            t.obuf = (s.storeBatch Who.engine false ws.1).obuf ∧ t.ubuf = (s.storeBatch Who.engine false ws.1).ubuf ∧
            s.keepsOutside t (writeCodes ws.1) ∧ (ws.2 = [] → t.chain = s.chain) ∧ ⟨true, b.entry, 0, step, mb⟩ ∈ t.fx.holding ∧
            s.keepsFields t [(layStashPushWait, 0), (layStashHole, 0), (layStashHoleCnt, 0), (mgtLogStatusDropped, 0)])))) ∧
  (∀ (s : State) (entry beat : Nat) (last : Bool) (data : List Byte) (n : Nat), s.wf = true → data.length = 256 → s.fxOn = true →
    (s.fx.credits.getD 1 0 = n + 1 →
      let owes := fun (y : Stream) => y.entry == entry && decide (beat < y.beats) && !y.landed.contains beat
      (s.fx.streams.find? owes = none →
        ∃ t, exec (.recomputeBeat entry beat last data) s = .next t ∧ s.keepsMemory t ∧ t.fx.streams = s.fx.streams ∧
          s.keepsFields t [(mgtLogStatusDropped, 0)] ∧ t.log = (s.logEv 0x0302 15 0 (entry + 65536 * beat)).log) ∧
      (∀ st r, s.fx.streams.find? owes = some st → (s.fx.rings.find? fun r => r.ring == st.ring) = some r →
        ∃ t, exec (.recomputeBeat entry beat last data) s = .next t ∧ t.toks = s.toks ∧ t.mbs = s.mbs ∧
          (r.base + r.size + 256 ≤ 2 ^ 42 → (∀ y ∈ s.fx.streams, (s.streamLen y).2.1 ≤ (s.streamLen y).2.2) →
            let ws := bytesAt 1 (r.base + (st.start + 256 * beat) % max 1 r.size) data false
            t.keg = (s.storeBatch Who.engine false ws).keg ∧ t.mem = s.mem ∧ s.keepsOutside t (writeCodes ws) ∧
              s.keepsFields t [(layStashHole, 0), (layStashHoleCnt, 0), (mgtLogStatusDropped, 0)]))))

/-- MICRO_BATCH_OPEN of the current step (R198 to R200, R297): with a bucket that is long enough it is accepted with the next index and the smallest such
bucket's number; a number beyond NMB, no tokens or no bucket refuse it, with its event, its count and its refusal record; one of the next
step, or of the current one while a re-shard runs, is held; one of any other step has no effect but on its credit.
LAYER_DONE and SEED_DONE (R25, R26, R201, R293, R294): the FX tokens are raised at once in a context that runs the micro-batch, else held for
it; a refused micro-batch raises none; LAYER_DONE names the micro-batch of the pushes that wait for one; SEED_DONE marks the seed as
arrived, and one before its micro-batch-open is held (log entry 16); the credit of a record beyond the window of R294 is owed (log entry 110).
Without padding and beats that wait no memory changes. -/
def Obligations.MicroBatchOpensAndAttribution : Prop :=
  (∀ (s : State) (step mb len n : Nat) (i : Image), s.wf = true → s.fxOn = true → s.fx.credits.getD 3 0 = n + 1 →
    s.image = some i →
    (∀ k, s.admState = admRunning → s.chain.reshard = none → step = s.epoch.toNat → s.mbRec step mb = none → len ≠ 0 → mb < i.nmb →
      (i.buckets.findIdx? fun b => decide (len ≤ b.len)) = some k →
      ∃ t, exec (.microBatchOpen step mb len) s = .next t ∧ t.fld layStashBucketLast 0 = k % 2 ^ layStashBucketLast.width ∧
        t.mbs = s.mbs ++ [⟨step, mb, len, some k, some (s.mbs.filter fun m => m.acc.isSome).length, s.fx.earlySeeds.contains (step, mb)⟩] ∧
        t.epoch = s.epoch ∧ t.image = s.image ∧ t.ctxs = s.ctxs ∧
        (s.fx.wait0 = [] → s.fx.wait2 = [] → s.fx.pads = [] → s.fx.seedPads = [] → s.keepsMemory t)) ∧
    (s.admState = admRunning → s.chain.reshard = none → step = s.epoch.toNat → s.mbRec step mb = none →
      (len = 0 ∨ i.nmb ≤ mb ∨ ∀ b ∈ i.buckets, b.len < len) →
      ∃ t, exec (.microBatchOpen step mb len) s = .next t ∧ t.fld cfgAdmitCode 0 = 11 ∧
        t.fld layStashRefused 0 = min (s.fld layStashRefused 0 + 1) (2 ^ layStashRefused.width - 1) ∧
        t.mbs = s.mbs ++ [⟨step, mb, len, none, none, s.fx.earlySeeds.contains (step, mb)⟩] ∧
        t.fx.out ++ t.fx.queue = s.fx.out ++ s.fx.queue ++ [.refusal step mb] ∧
        (s.fx.wait0 = [] → s.fx.wait2 = [] → s.fx.pads = [] → s.fx.seedPads = [] → i.nmb ≤ mb ∨ (∃ m ∈ s.mbs, m.acc.isSome = true) →
          s.keepsMemory t)) ∧
    (step = (s.curStep + 1) % 2 ^ 32 ∨ (step = s.curStep ∧ s.chain.reshard.isSome = true) →
      exec (.microBatchOpen step mb len) s = .next { s with fx := { s.fx with
        credits := s.fx.credits.set 3 n, earlyOpens := s.fx.earlyOpens ++ [(step, mb, len)] } }) ∧
    (step ≠ s.curStep → step ≠ (s.curStep + 1) % 2 ^ 32 →
      ∃ t, exec (.microBatchOpen step mb len) s = .next t ∧ t = { s with fx := { s.fx with credits := t.fx.credits } })) ∧
  (∀ (s : State) (step mb layer n : Nat), s.wf = true → s.fxOn = true → s.fx.credits.getD 3 0 = n + 1 →
    (∃ t, exec (.layerDone step mb layer) s = .next t ∧ (∀ b ∈ t.fx.wait0, b.own.isSome = true) ∧
      (s.inWindow step mb = true → t.fx.credits.getD 3 0 = if s.fxGrants = true then min 64 (n + 1) else n) ∧
      (s.inWindow step mb = false → t.fx.credits.getD 3 0 = n ∧ (3, step, mb) ∈ t.fx.owed) ∧
      (s.fx.wait0 = [] → s.fx.pads = [] →
        (s.mbRefused step mb = true ∨ ∀ m, s.mbRec step mb = some m → ∀ k, m.bucket = some k → ∀ b, s.buckets[k]? = some b → b.len ≤ m.n) →
        s.keepsMemory t) ∧
      (s.mbRefused step mb = true → t.toks = s.toks ∧ t.held = s.held) ∧
      (s.mbRefused step mb = false → (∀ c, (s.ctx c).running = true → (s.ctx c).mbStep ≠ step ∨ (s.ctx c).mbNum ≠ mb) →
        t.toks = s.toks ∧ t.held = s.held ++ (s.tokDecls.filter fun d => d.source == .fx .layerDone layer).map fun d => ⟨d.ctx, step, mb, d.tok⟩) ∧
      (s.mbRefused step mb = false → ∀ d, s.tokDecls.filter (fun d => d.source == .fx .layerDone layer) = [d] → (s.ctx d.ctx).running = true →
        (s.ctx d.ctx).mbStep = step → (s.ctx d.ctx).mbNum = mb →
        t.held = s.held ∧ t.tok d.ctx d.tok = if s.tok d.ctx d.tok = 65535 then 65535 else s.tok d.ctx d.tok + 1)) ∧
    (s.mbRec step mb = none → ∃ t, exec (.seedDone step mb) s = .next t ∧ s.keepsMemory t ∧ t.toks = s.toks ∧ t.held = s.held ∧ t.mbs = s.mbs ∧
      t.fx.earlySeeds = s.fx.earlySeeds ++ [(step, mb)] ∧ t.regs = s.regs) ∧
    (∀ m, s.mbRec step mb = some m → ∃ t, exec (.seedDone step mb) s = .next t ∧ (∀ b ∈ t.fx.wait2, b.own.isSome = true) ∧
      (m.bucket = none → t.toks = s.toks ∧ t.held = s.held ∧ t.mbs = s.mbs ∧ (s.fx.wait2 = [] → s.fx.seedPads = [] → s.keepsMemory t)) ∧
      (m.bucket.isSome = true → t.mbs = (s.mbs.map fun x => if x.step = step ∧ x.mb = mb then { x with seed := true } else x) ∧
        ((∀ c, (s.ctx c).running = true → (s.ctx c).mbStep ≠ step ∨ (s.ctx c).mbNum ≠ mb) → t.toks = s.toks ∧
          t.held = s.held ++ (s.tokDecls.filter fun d => match d.source with | .fx k _ => k == .seed | _ => false).map
            fun d => ⟨d.ctx, step, mb, d.tok⟩))))

/-! ## The sequencer -/

/-- When an entry of kind k issues (R74, R287, R293, R310, R314): the engine works and runs, the context has a micro-batch, is not halted and is
running or restarting, its side is not stopped, the entry is the queue's next and not in flight, its wait is satisfied or the entry is
replayed, and it is no first pass of a tile still to be drained; while the context is preempted only the drains of its COMPLETE tiles issue
(R120). The issue comes as a command (log entry 12), and an entry that a reissue gave back is in flight no more (log entry 45). A pass that reads what a stale access
should have brought issues never (R267). No command that issues another kind, or an entry that may not issue, changes anything.
An image page that disagrees twice (R283), as fetched or as region 0 now holds it: the context that needs it halts with SC8_UNCORR and
fails, whatever the entry; no memory, token, or pointer changes. -/
def Obligations.WhenEntriesIssueAndBadPages : Prop :=
  (∀ (s : State) (c q k i : Nat) (w : BitVec 512) (rep : Bool),
    (s.mayIssue c q k = some (i, w, rep) ↔
      s.alive = true ∧ s.power = 0 ∧ s.admState = admRunning ∧ (s.ctx c).running = true ∧ (s.ctx c).halted = none ∧
        (s.ctxState c = ctxRunning ∨ s.ctxState c = ctxRestarting ∨ (s.ctxState c = ctxPreempting ∧ k = kDrain)) ∧
        s.queueStopped c q = false ∧ (if s.ctxState c = ctxPreempting then s.earlyDrain c q else s.nextEntry c q) = some (i, w, rep) ∧
        entKind w = k ∧ (rep = true ∨ entWaitCnt w = 0 ∨ entWaitCnt w ≤ s.tok c (entWaitTok w)) ∧
        (∀ f, s.flightOf c q i = some f → f.lapsed = true) ∧ s.tileHeld c q w = false) ∧
    (s.mayPass c q = some (i, w, rep) ↔ s.mayIssue c q kPass = some (i, w, rep) ∧ s.staleOperand c q w = false) ∧
    ∀ (b : Bool) (fixed lost : List FixedWord),
      (s.mayPass c q = none → exec (.passIssue c q b) s = .next s) ∧
      ∀ p ∈ [(kPass, Instr.passIssue c q b), (kDrain, .drainIssue c q b), (kMove, .moveIssue c q b fixed lost), (kReduce, .reduceIssue c q b fixed lost),
        (kRaise, .raise c q b), (kWait, .wait c q b), (kRecomp, .recomp c q b), (kEnd, .end_ c q b)],
      s.mayIssue c q p.1 = none → exec p.2 s = .next s) ∧
  (∀ (s : State) (c q i : Nat) (w : BitVec 512) (rep b : Bool) (fixed lost : List FixedWord), s.wf = true → c < 64 → c < s.ctxs.length →
    (b = true ∨ s.pageWrong c q i w = true) →
    ∀ p ∈ [(kPass, Instr.passIssue c q b), (kDrain, .drainIssue c q b), (kMove, .moveIssue c q b fixed lost), (kReduce, .reduceIssue c q b fixed lost),
        (kRaise, .raise c q b), (kWait, .wait c q b), (kRecomp, .recomp c q b), (kEnd, .end_ c q b)],
      s.mayIssue c q p.1 = some (i, w, rep) → (p.1 = kPass → s.staleOperand c q w = false) →
      ∃ t, exec p.2 s = .next t ∧ t.ctxState c = ctxHalted ∧ (t.ctx c).halted = some 7 ∧ (t.ctx c).failed.isSome = true ∧
        t.fld seqFaultName c = 7 ∧ t.fld seqStatusFaulted c = 1 ∧ (t.ctx c).queues = (s.ctx c).queues ∧
        s.keepsKinds t [.seqFault, .seqStatus, .mgtErrsum, .mgtIrqPend, .mgtLogStatus] ∧
        t = { s with regs := t.regs, log := t.log, ctxs := t.ctxs })

/-- PASS_ISSUE, DRAIN_ISSUE and RECOMP (R204, R288, R289, R291, R350; log entry 12): the entry is in flight, and the pointer passes it, or a drain of
a COMPLETE tile that goes before its turn is noted (R120); a pass joins those issued to its side and starts a gated
cluster clock; a RECOMP sends its request, with its stream awaited. No memory changes but by the padding of a recompute stream.
RAISE, WAIT and END (R285, R287, R291, R292, R303): the pointer moves past the entry, its token is raised once where its header says so, no other
queue's pointer moves; END ends the queue, and with the last queue and nothing in flight the context has finished its micro-batch and is
IDLE. Where no FX beat and no padding waits, no memory changes.
MICRO_BATCH_START (R303, R293, R294): an idle context takes its next accepted micro-batch, once its seed has arrived: RUNNING, every queue at its
first entry, its micro-batch tokens at 0 but for raises held for it, no other token changed. Otherwise nothing. -/
def Obligations.MicroBatchesAndEntriesIssue : Prop :=
  (∀ (s : State) (c q i : Nat) (w : BitVec 512) (rep : Bool), s.wf = true → c < 64 → c < s.ctxs.length → q < (s.ctx c).queues.length →
    s.pageWrong c q i w = false →
    (∀ si, s.mayPass c q = some (i, w, rep) → s.queueSide c q = some si → si < s.sides.length → s.flightOf c q i = none →
      ∃ t, exec (.passIssue c q false) s = .next t ∧ ((t.ctx c).q q).ptr = i + 1 ∧ (t.side si).issued = (s.side si).issued ++ [⟨c, q, i, w⟩] ∧
        (t.ctx c).flight = (s.ctx c).flight ++ [{ queue := q, index := i, word := w, replay := rep }] ∧ t.fld pwrClkGated (si / 2 / 16) = 0 ∧
        s.keepsMemory t ∧ s.keepsKinds t [.seqStatus, .pwrClk, .mgtLogStatus] ∧ ∀ d, d ≠ c → t.ctx d = s.ctx d) ∧
    (s.mayIssue c q kDrain = some (i, w, rep) →
      ∃ t, exec (.drainIssue c q false) s = .next t ∧
        (s.nextEntry c q = some (i, w, rep) → ((t.ctx c).q q).ptr = i + 1) ∧
        (∀ n, s.nextEntry c q = some n → n.1 ≠ i → ((t.ctx c).q q).ptr = ((s.ctx c).q q).ptr ∧ i ∈ ((t.ctx c).q q).early) ∧
        t.flightOf c q i = some { queue := q, index := i, word := w, replay := rep } ∧
        (s.flightOf c q i = none → (t.ctx c).flight = (s.ctx c).flight ++ [{ queue := q, index := i, word := w, replay := rep }]) ∧ t.fld pwrClkGated (entCore w / 16) = 0 ∧
        s.keepsMemory t ∧ s.keepsKinds t [.seqStatus, .pwrClk, .mgtLogStatus] ∧ t.tiles = s.tiles ∧ ∀ d, d ≠ c → t.ctx d = s.ctx d) ∧
    (∀ b r g, s.mayIssue c q kRecomp = some (i, w, rep) → s.flightOf c q i = none → s.buckets[(s.ctx c).bucket]? = some b →
      (b.stash.find? fun r => r.entry == recompEntry w && r.place == .recomp) = some r → (b.rings.find? fun r => r.ring == recompRing w) = some g →
      ∃ t, exec (.recomp c q false) s = .next t ∧ ((t.ctx c).q q).ptr = i + 1 ∧
        t.fx.out ++ t.fx.queue = s.fx.out ++ s.fx.queue ++ [.recompute (s.ctx c).mbStep (s.ctx c).mbNum (recompEntry w) (recompRing w)] ∧
        ((∀ y : Stream, y ∈ s.fx.streams ∨ (y.step = (s.ctx c).mbStep ∧ y.mb = (s.ctx c).mbNum) → (s.streamLen y).2.1 ≤ (s.streamLen y).2.2) →
          s.keepsMemory t ∧ (t.ctx c).flight = (s.ctx c).flight ++ [{ queue := q, index := i, word := w, replay := rep }] ∧
          (∃ x ∈ t.fx.streams, x.ctx = c ∧ x.queue = q ∧ x.index = i ∧ x.beats = r.bytes / 256 ∧ x.landed = []) ∧
          s.keepsKinds t [.seqStatus, .mgtLogStatus]))) ∧
  ((∀ (s : State) (c q i : Nat) (w : BitVec 512) (rep : Bool), s.wf = true → c < 64 → c < s.ctxs.length → q < (s.ctx c).queues.length →
    s.pageWrong c q i w = false →
    (∀ k y, (k, y) ∈ [(kRaise, Instr.raise c q false), (kWait, .wait c q false), (kEnd, .end_ c q false)] →
      s.mayIssue c q k = some (i, w, rep) →
      ∃ t, exec y s = .next t ∧ ((t.ctx c).q q).ptr = i + 1 ∧ ((t.ctx c).q q).ended = decide (k = kEnd) ∧
        (∀ p, p ≠ q → (t.ctx c).q p = (s.ctx c).q p) ∧
        (∀ d x, 4096 * d + x ≠ 4096 * c + entRaiseTok w → t.tok d x = s.tok d x) ∧
        t.tok c (entRaiseTok w) = (if entRaiseEn w = true ∧ (rep = false ∨ ((s.ctx c).q q).raised.contains i = false) then
          (if s.tok c (entRaiseTok w) = 65535 then 65535 else s.tok c (entRaiseTok w) + 1) else s.tok c (entRaiseTok w)) ∧
        (s.fx.wait0 = [] → s.fx.wait2 = [] → s.fx.pads = [] → s.fx.seedPads = [] → s.keepsMemory t ∧
          s.keepsKinds t [.seqStatus, .layStash, .mgtLogStatus] ∧ (∀ d, d ≠ c → t.ctx d = s.ctx d) ∧ (t.ctx c).flight = (s.ctx c).flight)) ∧
    (s.mayIssue c q kEnd = some (i, w, rep) → s.fx.wait0 = [] → s.fx.wait2 = [] → s.fx.pads = [] → s.fx.seedPads = [] → (s.ctx c).flight = [] → (∀ p, p ≠ q → p < (s.ctx c).queues.length → ((s.ctx c).q p).ended = true) →
      ∃ t, exec (.end_ c q false) s = .next t ∧ (t.ctx c).running = false ∧ (t.ctx c).finished = (s.ctx c).finished + 1 ∧ t.ctxState c = ctxIdle)) ∧
  (∀ (s : State) (c : Nat), s.wf = true → c < 64 → c < s.ctxs.length →
    (s.nextMb c = none → exec (.microBatchStart c) s = .next s) ∧
    (∀ m, s.works = true → s.admState = admRunning → s.usedCtx.contains c = true → s.ctxState c = ctxIdle → (s.ctx c).running = false →
      (s.mbs.find? fun m => m.acc == some (s.ctx c).finished && m.seed && m.step == s.epoch.toNat) = some m →
      ∃ t, exec (.microBatchStart c) s = .next t ∧ t.ctxState c = ctxRunning ∧ (t.ctx c).running = true ∧ (t.ctx c).flight = [] ∧
        (t.ctx c).mbStep = m.step ∧ (t.ctx c).mbNum = m.mb ∧ (t.ctx c).bucket = m.bucket.getD 0 ∧ (∀ u ∈ (t.ctx c).queues, u = {}) ∧
        (∀ i, s.image = some i → (t.ctx c).queues.length = ctxQueues i c) ∧ (∀ d, d ≠ c → t.ctx d = s.ctx d) ∧
        ((∀ h ∈ s.held, h.ctx = c → h.step = m.step → h.mb ≠ m.mb) →
          (∀ d ∈ s.tokDecls, d.ctx = c → d.scope = .mb → t.tok c d.tok = 0) ∧
          ∀ e x, (∀ d ∈ s.tokDecls, d.ctx = c → d.scope = .mb → 4096 * e + x ≠ 4096 * c + d.tok) → t.tok e x = s.tok e x) ∧
        s.keepsMemory t ∧ s.keepsKinds t [.seqStatus, .mgtLogStatus])))

/-- MOVE_ISSUE and REDUCE_ISSUE (R28, R145, R290, R291, R310): a move takes a free mover, which LAY.STATUS.BUSY shows, and without one nothing
happens; the reduction of a layer's gradient starts only in the last accepted micro-batch, once its last dW drain is written, with its
slots open; in an earlier one, or in a replay of one that has started, its entry is done at its issue (log entries 36 and 46). What the
symbol code of the Keg corrects or finds beyond correction in what is read comes with the command (log entry 68). -/
def Obligations.MovesAndReductionsIssue : Prop :=
  ∀ (s : State) (c q i : Nat) (w : BitVec 512) (rep : Bool) (fixed lost : List FixedWord), s.wf = true → c < 64 → c < s.ctxs.length →
    q < (s.ctx c).queues.length → s.pageWrong c q i w = false →
    (s.mayIssue c q kMove = some (i, w, rep) →
      (s.freeMover = none → exec (.moveIssue c q false fixed lost) s = .next s) ∧
      (∀ n, s.freeMover = some n → n < 16 → s.moverOf c q i = none →
        ∃ t v, exec (.moveIssue c q false fixed lost) s = .next t ∧ ((t.ctx c).q q).ptr = i + 1 ∧ (t.fld layStatusBusy 0).testBit n = true ∧
          t.mover n = some v ∧ v.ctx = c ∧ v.queue = q ∧ v.index = i ∧ (∀ k, k ≠ n → t.mover k = s.mover k) ∧
          (∃ f, t.flightOf c q i = some f) ∧ ∀ d x, t.tok d x = s.tok d x ∨
            (4096 * d + x = 4096 * c + entRaiseTok w ∧ entRaiseEn w = true ∧ entRaiseAt w = false))) ∧
    (s.mayIssue c q kReduce = some (i, w, rep) →
      let again := rep && (s.chain.reduced.contains (reduceColl w) || s.chain.colls.any fun x => x.num == reduceColl w)
      (s.reduceStarts c (reduceColl w) = none → exec (.reduceIssue c q false fixed lost) s = .next s) ∧
      (s.reduceStarts c (reduceColl w) = some false ∨ (s.reduceStarts c (reduceColl w) = some true ∧ again = true) →
        ∃ t, exec (.reduceIssue c q false fixed lost) s = .next t ∧ ((t.ctx c).q q).ptr = i + 1 ∧ t.chain.colls = s.chain.colls ∧ s.keepsMemory t ∧
          t.flightOf c q i = some { queue := q, index := i, word := w, replay := rep, finished := true }) ∧
      (∀ co, s.reduceStarts c (reduceColl w) = some true → again = false → s.collective (reduceColl w) = some co →
        ∃ t, exec (.reduceIssue c q false fixed lost) s = .next t ∧ ((t.ctx c).q q).ptr = i + 1 ∧
          (∃ st ∈ t.chain.colls, st.num = reduceColl w ∧ st.ctx = c ∧ st.queue = q ∧ st.index = i) ∧
          t.fld mapSlotsOpen 0 = (s.fld mapSlotsOpen 0 + if s.chain.opened.contains co.num then 0 else co.slots) % 2 ^ mapSlotsOpen.width))

/-- ENTRY_COMPLETE (R94, R138, R143, R151, R292, R315; log entries 54 and 59): an entry whose work is done, whose requests are all answered and which no
other engine still holds up leaves the flight and raises its token where its header says so; a pass counts, and the last of a tile completes it; a move gives its mover back; without FX beats
or moves that wait, nothing else in memory or of another context changes. A move with windows left writes them all first. An entry that
is not done, or of a context that is preempted, completes nothing. -/
def Obligations.EntriesComplete : Prop :=
  ∀ (s : State) (c q i : Nat), s.wf = true → c < 64 → c < s.ctxs.length →
    (s.ctxState c = ctxPreempted ∨ s.flightOf c q i = none → exec (.entryComplete c q i) s = .next s) ∧
    (∀ f, s.flightOf c q i = some f → f.finished = true ∨ s.moverOf c q i = none ∨ s.movesStand c = true →
      s.outstanding c q i = true ∨ f.finished = false ∨ f.dead = true ∨ s.ownParts f = true → exec (.entryComplete c q i) s = .next s) ∧
    (∀ f n v k, s.ctxState c ≠ ctxPreempted → s.flightOf c q i = some f → f.finished = false → s.movesStand c = false →
      s.moverOf c q i = some n → s.mover n = some v → v.next = some k →
      ∃ t, exec (.entryComplete c q i) s = .next t ∧ ∀ g, t.flightOf c q i = some g → g.finished = true) ∧
    (∀ f, s.ctxState c ≠ ctxPreempted → s.flightOf c q i = some f → f.finished = true → f.dead = false → s.outstanding c q i = false →
      s.ownParts f = false →
      ∃ t, exec (.entryComplete c q i) s = .next t ∧ t.flightOf c q i = none ∧
        (∀ d x, 4096 * d + x ≠ 4096 * c + entRaiseTok f.word → t.tok d x = s.tok d x) ∧
        (entRaiseAt f.word = true → entRaiseEn f.word = true → f.replay = false →
          t.tok c (entRaiseTok f.word) = if s.tok c (entRaiseTok f.word) = 65535 then 65535 else s.tok c (entRaiseTok f.word) + 1) ∧
        (entRaiseAt f.word = false ∨ entRaiseEn f.word = false → t.toks = s.toks) ∧
        (s.fx.wait0 = [] → s.fx.wait2 = [] → s.fx.pads = [] → s.fx.seedPads = [] → (∀ m ∈ s.chain.moves, m.ctx = c → m.need ≠ []) →
          s.keepsMemory t ∧ (∀ d, d ≠ c → t.ctx d = s.ctx d) ∧
          ∀ n, entKind f.word = kMove → n < 16 → s.moverOf c q i = some n → t.movers = s.movers.set n none) ∧
        (∀ si, entKind f.word = kPass → s.queueSide c q = some si → si / 2 < 1024 →
          t.fld arrPerfPasses (si / 2) = (s.fld arrPerfPasses (si / 2) + 1) % 2 ^ 32 ∧
          ((passOf f.word).last = true → (s.tile (si * 2 + entTile f.word)).state = .filling → s.drainDone c q i (entTile f.word) = false →
            (t.tile (si * 2 + entTile f.word)).state = .complete)) ∧
        (∀ n, entKind f.word = kMove → n < 16 → s.moverOf c q i = some n → (∀ m ∈ s.chain.moves, m.ctx = c → m.need ≠ []) →
          (t.fld layStatusBusy 0).testBit n = false))

/-! ## The array and the accumulators -/

/-- PASS_START (R68, R71, R74, R87, R98, R112, R118, R119): with its tile lock free to it and its operands good, the oldest pass issued to a side
enters its tile: on rate 1 every entry takes the chunk sum of its row and column under accept(), at an integer rate the saturated sum;
the pass is in the array, the entry's work is done, memory stays; a tile lock against it stops the side with COLLIDE, a second time for
the same tile with a halt, and a tile still to be drained makes it wait, as do operands that are still to be written. (Log entries 45, 55, 56, 68 and 126 to 128
say how the model reads the order of writes, tile exponents, empty levels, corrected words and passes beyond the tables.) -/
def Obligations.PassesStart : Prop :=
  ∀ (s : State) (core : Nat) (b : Bool) (r : PassRec) (rest : List PassRec), s.wf = true → core < 128 → sideNo core b < s.sides.length →
    sideNo core b * 2 + 1 < s.tiles.length → (s.side (sideNo core b)).issued = r :: rest →
    let p := passOf r.word
    let n := sideNo core b * 2 + entTile r.word
    let tag := s.firstOf r.ctx r.queue r.index (entTile r.word)
    let lock := tileLock (s.tile n) r.ctx r.queue tag p.first
    let lane := fun (a : OpArgs) (i : Nat) => s.readLane core a (decide (1 < p.rate)) (min p.valid (512 * p.rate)) i
    ((s.side (sideNo core b)).poisoned = true ∨ s.passesRun r.ctx = false ∨ s.operandsComing r p = true →
      exec (.passStart core b [] []) s = .next s) ∧
    ((s.side (sideNo core b)).poisoned = false → s.passesRun r.ctx = true → s.operandsComing r p = false →
    (lock = .wait → exec (.passStart core b [] []) s = .next s) ∧
    (lock = .collide → ∃ t, exec (.passStart core b [] []) s = .next t ∧ s.keepsMemory t ∧ (t.side (sideNo core b)).poisoned = true ∧
      t.fld (sideFld accStatusCollideA accStatusCollideB (sideNo core b)) core = 1 ∧ tag ∈ (t.side (sideNo core b)).collided ∧
      (r.ctx < 64 → t.fld seqFaultName r.ctx = 2) ∧
      (r.ctx < 64 → tag ∈ (s.side (sideNo core b)).collided → t.ctxState r.ctx = ctxHalted) ∧
      (tag ∉ (s.side (sideNo core b)).collided → ∀ c, t.ctxState c = s.ctxState c) ∧ t.toks = s.toks) ∧
    (lock = .run → (∀ i, i < p.rows → ∀ c ∈ (lane p.sArgs i).codes, s.bad.contains c = false) →
      (∀ i, i < p.cols → ∀ c ∈ (lane p.tArgs i).codes, s.bad.contains c = false) →
      ∃ t, exec (.passStart core b [] []) s = .next t ∧ s.keepsMemory t ∧ t.toks = s.toks ∧ t.chain = s.chain ∧
        (t.side (sideNo core b)).issued = rest ∧ (t.side (sideNo core b)).inArray = (s.side (sideNo core b)).inArray ++ [r] ∧
        (t.tile n).state = .filling ∧ (t.tile n).k = (if p.first then 1 else (s.tile n).k + 1) ∧
        t.fld arrPerfPasses core = s.fld arrPerfPasses core ∧ (∀ m, m ≠ n → t.tile m = s.tile m) ∧
        (∀ f, s.flightOf r.ctx r.queue r.index = some f → r.ctx < s.ctxs.length →
          t.flightOf r.ctx r.queue r.index = some { f with finished := true }) ∧
        (∀ i c, p.rate = 1 → i < p.rows → c < p.cols → (p.first = true ∨ ((s.tile n).integer = false ∧ cellWf entryZero (s.tile n).entries = true)) →
          cellGet entryZero (t.tile n).entries (entryKey i c) =
            accept (if p.first then {} else cellGet entryZero (s.tile n).entries (entryKey i c))
              (passFloat (min p.valid 512) (lane p.sArgs i).vals (lane p.tArgs c).vals) (if p.first then 0 else (s.tile n).k) p.last) ∧
        (∀ i c, 1 < p.rate → i < p.rows → c < p.cols → (p.first = true ∨ ((s.tile n).integer = true ∧ cellWf entryZero (s.tile n).entries = true)) →
          (cellGet entryZero (t.tile n).entries (entryKey i c)).int =
            (satI32 ((if p.first then 0 else (cellGet entryZero (s.tile n).entries (entryKey i c)).int) +
              passInt (lane p.sArgs i).ints (lane p.tArgs c).ints)).1)))

/-- DRAIN_START and DRAIN_RESUME (R105, R107, R108, R127, R237): a drain that R237 or an earlier write holds, or whose side still drains its other tile, changes
nothing; one that starts reads the rows asked for, counts them and shows whether it adds, and writes only to its destination's units and
its fusion records; with the last row of an overwrite the tile is free and the entry's work is done (log entries 44, 45, 57, 68 and 117). -/
def Obligations.DrainsRead : Prop :=
  ∀ (s : State) (core rows c q : Nat) (b t1 : Bool) (f : Flight), s.wf = true → core < 128 → s.sideOwner core b = some (c, q) → s.works = true →
    s.admState = admRunning → sideNo core b * 2 + 1 < s.tiles.length → c < s.ctxs.length →
    let n := sideNo core b * 2 + (if t1 then 1 else 0)
    (s.tile n).poisoned = false → s.drainFlight c q n = some f → drainAddr f.word % 32 = 0 →
    let a := s.drainAt c q n f
    let other := s.tile (sideNo core b * 2 + (if t1 then 0 else 1))
    let codes := ((List.range (s.tile n).rows).flatMap fun i => (List.range (s.tile n).cols).flatMap fun x =>
        (s.whereIs a.desc a.desc.elem (drainPos i x)).codes) ++
      (if drainFuse f.word then (List.range (s.tile n).rows).map fun i => (drainAddr f.word + 32 * i) % 2 ^ 42 / 64 else [])
    ((s.tile n).state = .complete → s.drainHeld a = true ∨ s.drainBehind a f = true ∨ (other.state = .draining ∧ other.poisoned = false) →
      exec (.drainStart core b t1 rows none []) s = .next s) ∧
    ((s.tile n).state = .complete → s.drainHeld a = false → s.drainBehind a f = false → (other.state ≠ .draining ∨ other.poisoned = true) →
      a.desc.dist = false →
      ∃ t, exec (.drainStart core b t1 rows none []) s = .next t ∧ s.keepsOutside t codes ∧ t.toks = s.toks ∧
        (rows < (s.tile n).rows → (t.tile n).state = .draining ∧ (t.tile n).rowsRead = rows ∧
          (t.tile n).committed = (if a.add then max (s.tile n).committed rows else rows) ∧ (t.tile n).entries = (s.tile n).entries ∧
          t.flag (sideFld accDrainAddA accDrainAddB (sideNo core b)) core = a.add ∧
          t.fld (sideFld accDrainRowsDoneA accDrainRowsDoneB (sideNo core b)) core = rows % 2 ^ accDrainRowsDoneA.width) ∧
        ((s.tile n).rows ≤ rows → t.fld (sideFld accDrainAddA accDrainAddB (sideNo core b)) core = 0 ∧
          (a.add = false → (s.tile n).sat = false → t.tile n = {} ∧ ∃ g, t.flightOf c q f.index = some g ∧ g.finished = true))) ∧
    ((s.tile n).state = .draining → a.add = false → (s.tile n).sat = false → a.desc.dist = false →
      ∃ t, exec (.drainResume core b t1 rows none []) s = .next t ∧ s.keepsOutside t codes ∧ t.toks = s.toks ∧
        ((s.tile n).rowsRead + rows < (s.tile n).rows → (t.tile n).state = .draining ∧ (t.tile n).rowsRead = (s.tile n).rowsRead + rows) ∧
        ((s.tile n).rows ≤ (s.tile n).rowsRead + rows → t.tile n = {}))

/-- SIDE_POISON and REISSUE (R85, R119, R128, R310, R312): an uncorrectable word stops the side, poisons its FILLING tiles and is reported as
SC8_UNCORR, the third time of a tile with a halt; a reissue frees the side's poisoned, FILLING and COMPLETE tiles, empties the side but
for the collisions that it remembers, and the context is RESTARTING. Neither changes memory or a token. -/
def Obligations.PoisonAndReissue : Prop :=
  ∀ (s : State) (core c q : Nat) (b : Bool) (r : PassRec) (cause : PoisonCause), s.wf = true → core < 128 → s.sideOwner core b = some (c, q) →
    c < 64 → c < s.ctxs.length → sideNo core b < s.sides.length → sideNo core b * 2 + 1 < s.tiles.length → s.works = true →
    ((s.side (sideNo core b)).poisoned = true → exec (.sidePoison core b cause) s = .next s) ∧
    ((s.side (sideNo core b)).poisoned = false → ((s.side (sideNo core b)).inArray ++ (s.side (sideNo core b)).issued).head? = some r →
      ∃ t, exec (.sidePoison core b cause) s = .next t ∧ (t.side (sideNo core b)).poisoned = true ∧ s.keepsMemory t ∧ t.toks = s.toks ∧
        t.fld (sideFld arrStatusStoppedA arrStatusStoppedB (sideNo core b)) core = 1 ∧
        t.fld (sideFld arrStatusPoisonA arrStatusPoisonB (sideNo core b)) core = 1 ∧ t.fld seqFaultName c = 7 ∧
        (∀ k, k < 2 → (s.tile (sideNo core b * 2 + k)).state = .filling → (t.tile (sideNo core b * 2 + k)).poisoned = true) ∧
        (2 ≤ s.tileFaultCount c (sideNo core b) (s.faultTile (sideNo core b)) → t.ctxState c = ctxHalted) ∧
        (s.tileFaultCount c (sideNo core b) (s.faultTile (sideNo core b)) < 2 → t.ctxState c = s.ctxState c ∧ t.fld seqFaultAction c = 2)) ∧
    (s.admState = admRunning → (s.side (sideNo core b)).poisoned = true → (s.ctx c).halted = none → s.ctxState c ≠ ctxPreempted →
      s.outstanding c saveQueue 0 = false →
      ∃ t, exec (.reissue core b) s = .next t ∧ t.side (sideNo core b) = { collided := (s.side (sideNo core b)).collided } ∧
        s.keepsMemory t ∧ t.toks = s.toks ∧
        t.fld seqStatusRestarts c = min (s.fld seqStatusRestarts c + 1) (2 ^ seqStatusRestarts.width - 1) ∧
        t.ctxState c = (if s.ctxState c = ctxRunning then ctxRestarting else s.ctxState c) ∧
        (∀ k, k < 2 → (t.tile (sideNo core b * 2 + k)).state = (if (s.tile (sideNo core b * 2 + k)).state = .draining ∧
            (s.tile (sideNo core b * 2 + k)).poisoned = false then .draining else .free) ∧
          (t.tile (sideNo core b * 2 + k)).committed = (s.tile (sideNo core b * 2 + k)).committed) ∧
        (∀ m, m / 2 ≠ sideNo core b → t.tile m = s.tile m) ∧ s.keepsFields t [(seqStatusRestarts, c), (seqStatusState, c)])

/-! ## Moves, stack ports, the narrow path -/

/-- The windows of a layout copy that does not convert (R136 to R140): where its elements and padding lie in memory of this engine, at places
all different from one another and from the source's, and no recompute stream waits for room in its ring, every element's destination
then holds its source's bytes, every padding position the padding value, and nothing outside the units of its destination changes. -/
def Obligations.LayoutCopies : Prop :=
  ∀ (s : State) (m : MoveArgs) (w : Who) (o : MoveOut), s.wf = true → m.kind = 0 → m.add = false → s.converts m = false → m.src.dist = false →
    m.dst.dist = false → s.fx.streams = [] →
    let e := m.src.elem
    let dsts := (s.copyItems m).flatMap (fun i => match i.dst with | .here l => l | .away _ => []) ++
      (copyPads m).flatMap fun p => s.elemLocs m.dst e p
    let srcs := (s.copyItems m).flatMap fun i => match i.src with | .here l => l | .away _ => []
    let r := ((s.windowsFrom m 0).foldl (State.moveWindow m w) (s, o)).1
    dsts.Nodup → (∀ x ∈ dsts, x ∉ srcs) →
    (∀ x ∈ dsts, ∃ l, x = some l ∧ (l.space ≠ 0 ∨ ∃ q, s.mapAddr (l.key / 64 * 64) = some q ∧ s.portFailed q.1 = false)) →
    (∀ i ∈ s.copyItems m, ∀ a b, i.src = .here a → i.dst = .here b → (r.readLocs b).1 = (s.readLocs a).1) ∧
      (∀ p ∈ copyPads m, (r.readLocs (s.elemLocs m.dst e p)).1 = padBytes e m.dst.padKind) ∧
      s.keepsOutside r (locCodes dsts)

/-- STACK_READ_RESPONSE, STACK_WRITE_RESPONSE and STACK_PORT_TIMEOUT (R209, R211, R214, R215): a tag that is not outstanding sets BADTAG
alone; an answered request is no longer outstanding (log entries 19 and 59 to 61); coded data waits for its check bytes; with them a corrected unit counts in CORR, a
poisoned one in POISON_RD, and memory stays; ERR sets CTRL_ERR, and after ERR on a write only its units are open; a timeout fails the
port, with its interrupt, whose units then all read as poisoned. -/
def Obligations.StackResponses : Prop :=
  ∀ (s : State) (port tag : Nat) (units : List (List Byte)), s.wf = true → s.spOn port = true → port < s.sp.length →
    let pt := s.sp.getD port {}
    (∀ e, pt.rd.find? (fun r => r.tag == tag) = none →
      exec (.stackReadResponse port tag e units) s = .next (s.setFld laySpstatBadtag port 1)) ∧
    (∀ e, pt.wr.find? (fun r => r.tag == tag) = none →
      exec (.stackWriteResponse port tag e) s = .next (s.setFld laySpstatBadtag port 1)) ∧
    (pt.rdWait = [] → pt.wrWait = [] → s.noneWaits = true →
      (∀ r, pt.rd.find? (fun r => r.tag == tag) = some r →
        (r.covers = [] → 64 * r.unit < s.portData → (∀ x ∈ pt.sides, x.1 ≠ r.batch) →
          ∃ t, exec (.stackReadResponse port tag false units) s = .next t ∧ s.keepsMemory t ∧ t.regs = s.regs ∧
            (t.sp.getD port {}).rd = (pt.rd.filter fun x => x.tag != tag) ∧
            (t.sp.getD port {}).halves = pt.halves ++ (((r.units.zip r.reader.dsts).zip units).filter fun u =>
              s.coded (s.unmapAddr port (64 * u.1.1))).map fun u => ⟨r.batch, u.1.1, u.2, r.reader, u.1.2⟩) ∧
        (∀ b h, units = [b] → r.covers ≠ [] → (pt.halves.filter fun h => h.batch == r.batch && r.covers.contains h.unit) = [h] →
          s.coded (s.unmapAddr port (64 * h.unit)) = true →
          let x := sc8Check (h.data ++ (b.drop ((s.portData + 4 * h.unit) % 64)).take 4)
          (x = .good → ∃ t, exec (.stackReadResponse port tag false units) s = .next t ∧ s.keepsMemory t ∧ t.regs = s.regs) ∧
          ((∃ k y, x = .corrected k y) → ∃ t, exec (.stackReadResponse port tag false units) s = .next t ∧ s.keepsMemory t ∧
            t.fld laySperrCorrCnt port = min (s.fld laySperrCorrCnt port + 1) 65535) ∧
          (x = .poisoned → h.dsts = [] → ∃ t, exec (.stackReadResponse port tag false units) s = .next t ∧ s.keepsMemory t ∧
            t.fld laySperrPoisonRd port = min (s.fld laySperrPoisonRd port + 1) 65535)) ∧
        ∃ t, exec (.stackReadResponse port tag true units) s = .next t ∧ t.fld laySpstatCtrlErr port = 1) ∧
      ∀ r, pt.wr.find? (fun r => r.tag == tag) = some r →
        (∃ t, exec (.stackWriteResponse port tag false) s = .next t ∧ s.keepsMemory t ∧ t.regs = s.regs ∧
          (t.sp.getD port {}).wr = pt.wr.filter fun x => x.tag != tag) ∧
        (∃ t, exec (.stackWriteResponse port tag true) s = .next t ∧ t.fld laySpstatCtrlErr port = 1 ∧ t.free = s.free + 64 * r.count ∧
          ((∀ u ∈ r.units, 64 * u < s.portData) → s.keepsOutside t (r.units.map fun u => s.unmapAddr port (64 * u) / 64)))) ∧
    (s.portFailed port = false → s.noneWaits = true → (pt.rd ≠ [] ∨ pt.wr ≠ []) →
      ∃ t, exec (.stackPortTimeout port) s = .next t ∧ t.fld laySpstatTimeout port = 1 ∧ t.portFailed port = true ∧ t.fld mgtIrqPendStack 0 = 1 ∧
        t.sp.getD port {} = {} ∧ ∀ a p, s.mapAddr (a / 64 * 64) = some (port, p) → (t.readUnit a).2 = true)

/-- NARROW_PATH_ACCESS (R147, R158, R385): from the debug port below Intrusive refused, with no effect on memory; served, it copies every position that
both descriptors have, byte for byte, and counts the bytes; memory outside the units of its destination stays, where no recompute
stream waits for room in its ring. What the symbol code of the Keg corrects or finds beyond correction comes with the command (log entry 68). -/
def Obligations.NarrowPath : Prop :=
  ∀ (s : State) (o : NarrowOwner) (src dst : BitVec 512) (fixed lost : List FixedWord), s.wf = true → s.alive = true →
    let v := (s.kegCorrected fixed).kegLost lost
    (o = .debug → s.narrowOn o = false → exec (.narrowPathAccess o src dst fixed lost) s = .next s.dbgRefuse) ∧
    (o ≠ .debug → s.narrowOn o = false → exec (.narrowPathAccess o src dst fixed lost) s = .next s) ∧
    (s.narrowOn o = true →
      let d := descOf src
      let e := descOf dst
      let ps := (positions rowMajor d.ext).filter fun p => inExt e.ext (p.map Int.ofNat)
      let ws := ps.flatMap fun p => writesAt (v.elemLocs e (narrowElem d) p) (v.readLocs (v.elemLocs d (narrowElem d) p)).1
        (v.readLocs (v.elemLocs d (narrowElem d) p)).2
      v.mem = s.mem ∧ v.keg = s.keg ∧ (lost = [] → v.bad = s.bad) ∧
      ∃ t, exec (.narrowPathAccess o src dst fixed lost) s = .next t ∧
        t.fld layNarrowBytes 0 = (s.fld layNarrowBytes 0 + ps.length * d.esize) % 2 ^ 32 ∧
        t.mem = (v.storeBatch Who.engine false ws).mem ∧ t.toks = s.toks ∧
        (s.fx.streams = [] → t.keg = (v.storeBatch Who.engine false ws).keg ∧ t.obuf = (v.storeBatch Who.engine false ws).obuf ∧
          t.ubuf = (v.storeBatch Who.engine false ws).ubuf ∧ v.keepsOutside t (writeCodes ws) ∧ t.ctxs = s.ctxs))

/-! ## Collectives -/

/-- COLLECTIVE_SEGMENT and REDUCTION_COMPLETE (R28, R103, R258, R259): a segment whose collective is not open waits, with no memory written; once it is
open one of a reduction goes into its slot (log entry 123); with the last values of a last halving stage each held element is one node of
itself and what arrived, and the result is delivered; a completed collective gives its slots back. -/
def Obligations.Collectives : Prop :=
  ∀ (s : State) (g : Segment) (num : Nat) (c : Collective) (st : CollSt), s.wf = true →
    let wait := { s.chain with segs := s.chain.segs ++ [g] }
    (s.works = false ∨ s.admState ≠ admRunning → exec (.collectiveSegment g) s = .next s) ∧
    (s.works = true → s.admState = admRunning → (∀ x ∈ s.chain.colls, x.num ≠ g.coll) →
      (s.collective g.coll = none → exec (.collectiveSegment g) s = .next { s with chain := wait }) ∧
      (s.collective g.coll = some c → collReduces c = false ∨ s.chain.opened.contains c.num = false →
        exec (.collectiveSegment g) s = .next { s with chain := wait }) ∧
      (s.collective g.coll = some c → g.vals.length ≤ segValues c.width →
        let a := c.staging + 65536 * (g.first / segValues c.width)
        a < 2 ^ 42 →
        ∃ t, exec (.collectiveSegment g) s = .next t ∧ t.chain = wait ∧ t.toks = s.toks ∧ t.ctxs = s.ctxs ∧
          s.keepsOutside t ((List.range 1024).map fun u => a / 64 + u))) ∧
    (s.works = true → s.admState = admRunning → s.collective g.coll = some c → s.chain.colls.find? (fun x => x.num == g.coll) = some st → st.finished = false →
      ∀ k src, ((collPhases c)[st.phase]? = some (.swap k src) ∨ (collPhases c)[st.phase]? = some (.take k src)) →
      (segAll (s.chain.segs ++ [g]) c.num k src st.cur.length = none →
        ∃ t, exec (.collectiveSegment g) s = .next t ∧ t.chain = wait ∧ t.toks = s.toks ∧ t.ctxs = s.ctxs) ∧
      (∀ vs, segAll (s.chain.segs ++ [g]) c.num k src st.cur.length = some vs → (collPhases c).length = st.phase + 1 →
        ∃ t x, exec (.collectiveSegment g) s = .next t ∧ t.chain.colls.find? (fun x => x.num == g.coll) = some x ∧ x.finished = true ∧
          x.cur = (combineHeld c.width st.cur vs).1 ∧ t.toks = s.toks ∧ t.chain.segs = segDrop (s.chain.segs ++ [g]) c.num k src ∧
          ∀ f, s.flightOf st.ctx st.queue st.index = some f → st.ctx < s.ctxs.length →
            t.flightOf st.ctx st.queue st.index = some { f with finished := true })) ∧
    (s.collective num = some c → s.chain.colls.find? (fun x => x.num == num) = some st → c.num = num →
      (st.finished = false → exec (.reductionComplete num) s = .next s) ∧
      (st.finished = true → ∃ t, exec (.reductionComplete num) s = .next t ∧ t.fld mapSlotsOpen 0 = s.fld mapSlotsOpen 0 - c.slots ∧
        t.chain.colls = s.chain.colls.filter (fun x => x.num ≠ num) ∧ t.chain.reduced = num :: s.chain.reduced ∧ num ∉ t.chain.opened ∧
        s.keepsMemory t ∧ s.keepsKinds t [.mapSlots, .seqStatus, .mgtLogStatus] ∧ (c.layer = none → t.toks = s.toks ∧ t.upd = s.upd)))

/-! ## The update units -/

/-- UPDATE_LAYER_START and UPDATE_BLOCK_DONE (R222, R223, R225 to R229, R329, R350): an idle unit takes the first layer in token order that it may work on, with
its clock, and where a page of its descriptors is wrong its context halts (log entry 109); a block that its unit finishes with good inputs and is not its slice's last writes what each element's update gives, counts
its elements, leaves everything else in memory, and the next block follows; a block that a capture still has to copy waits. The units'
work comes as commands (log entries 59 and 68). -/
def Obligations.UpdateWork : Prop :=
  ∀ (s : State) (u : Nat) (t : UnitSt), s.wf = true → s.works = true → s.admState = admRunning → s.probe = false → s.upd.units[u]? = some t →
    (u < Config.units s.conf → t.cur = none → s.upd.skipped = false →
      (s.pickLayer u t = none → exec (.updateLayerStart u) s = .next s) ∧
      (∀ l k b n r, s.pickLayer u t = some (l, k, b, n) → s.layerRecs[l]? = some r → s.descsDiffer (layerDescs r) = true → r.ctx < 64 →
        r.ctx < s.ctxs.length →
        ∃ x, exec (.updateLayerStart u) s = .next x ∧ x.ctxState r.ctx = ctxHalted ∧ (x.ctx r.ctx).halted = some 7 ∧ x.upd = s.upd ∧
          s.keepsMemory x) ∧
      (∀ l k b n, s.pickLayer u t = some (l, k, b, n) → (∀ r, s.layerRecs[l]? = some r → s.descsDiffer (layerDescs r) = false) →
        let y : UnitSt := { t with cur := some l, slice := k, block := b, normPass := n, paused := t.paused.filter fun p => p.1 != l }
        ∃ x, exec (.updateLayerStart u) s = .next x ∧ x.pwr.updGated = false ∧
          x = { s with pwr := x.pwr, upd := { s.upd with units := s.upd.units.set u y } })) ∧
    (∀ l r x sl is, t.cur = some l → s.layerAt l = some (r, x) → r.slices[t.slice]? = some sl → t.normPass = false → s.updCtxOpen r.ctx = true →
      (s.ctx r.ctx).halted = none → s.ctxState r.ctx ≠ ctxPreempted → blockOf sl t.block = (is, false) →
      let es := is.map (s.updElem r (s.layerCoef r x) (s.rxDelta r) [])
      let ws := es.flatMap (·.writes)
      (s.blockWaits t r sl = true →
        ∃ y, exec (.updateBlockDone u 0 0 []) s = .next y ∧ s.keepsMemory y ∧ y.regs = s.regs ∧ y.upd = s.upd ∧ y.toks = s.toks ∧
          ∀ v ∈ s.blockUnits r is, v ∈ y.snp.updHeld) ∧
      (s.blockWaits t r sl = false → (∀ e ∈ es, e.bad = false) →
        ∃ y, exec (.updateBlockDone u 0 0 []) s = .next y ∧ y.mem = (s.storeBatch Who.engine false ws).mem ∧
          (s.fx.streams = [] → s.keepsOutside y (writeCodes ws)) ∧
          y.fld updPerfElements 0 = (s.fld updPerfElements 0 + is.length) % 2 ^ 48 ∧ y.toks = s.toks ∧
          ∃ z, y.upd.units[u]? = some z ∧ z.cur = some l ∧ z.block = t.block + 1 ∧ z.slice = t.slice))

/-- PARTIAL_NORM and CLIP_TOKEN (R230 to R234, R386): the head holds the pairs, and with the last one sends the factor of the tree's norm, but while
debug halts its controller; the
clip token releases held updates, shows its verdict, and in mode EXACT its factor; under policy SKIP a non-finite verdict skips the
step. -/
def Obligations.ClipProtocol : Prop :=
  ∀ (s : State) (rank : Nat) (p : Pair) (c : F32) (nf : Bool), s.wf = true → s.works = true → s.admState = admRunning →
    (s.flag mapChainIsHead 0 = true → rank < s.chainSize →
      ((∃ k, k < s.chainSize ∧ k ≠ rank ∧ ∀ x ∈ s.chain.partials, x.1 ≠ k) →
        exec (.partialNorm rank p) s = .next { s with chain := { s.chain with
          partials := (rank, p) :: s.chain.partials.filter fun x => x.1 != rank } }) ∧
      (s.mcHalted = true → exec (.partialNorm rank p) s = .next { s with chain := { s.chain with
          partials := (rank, p) :: s.chain.partials.filter fun x => x.1 != rank } }) ∧
      (s.mcHalted = false → (∀ k, k < s.chainSize → k = rank ∨ ∃ x ∈ s.chain.partials, x.1 = k) →
        let n := normOf (treeT ((List.range s.chainSize).map fun k =>
          if k = rank then p else ((s.chain.partials.find? fun x => x.1 == k).map (·.2)).getD Pair.zero))
        exec (.partialNorm rank p) s = .next { s with
          upd := { s.upd with norm := some n }
          chain := { s.chain with partials := [], sent := s.chain.sent ++ [.clip (clipFactor n s.upd.clipMax).1 (clipFactor n s.upd.clipMax).2] } })) ∧
    (s.holdMode = true → s.upd.released = false →
      ∃ t, exec (.clipToken c nf) s = .next t ∧ t.upd.released = true ∧ t.flag updClipVerdictNf 0 = nf ∧ s.keepsMemory t ∧
        (s.fld updCfgClipMode 0 = clipExact → t.fld updClipFactor 0 = c.toNat ∧ t.fld updClipValid 0 = 1 ∧ t.fld updClipSource 0 = 1) ∧
        (s.fld updCfgClipMode 0 ≠ clipExact → t.fld updClipFactor 0 = s.fld updClipFactor 0) ∧
        (nf = true → s.flag updCfgNfPolicy 0 = true → t.upd.skipped = true ∧ t.fld updStatusSkipped 0 = 1 ∧
          t.fld updPerfSkips 0 = min (s.fld updPerfSkips 0 + 1) 65535 ∧ (∀ x ∈ t.upd.units, x = {}) ∧
          t.fx.out ++ t.fx.queue = s.fx.out ++ s.fx.queue ++
            (List.range s.layerRecs.length).map fun l => FxOut.weightsReady ((s.epoch.toNat + 1) % 2 ^ 32) l) ∧
        (nf = false ∨ s.flag updCfgNfPolicy 0 = false → t.upd.skipped = s.upd.skipped ∧ t.fx = s.fx) ∧
        s.keepsKinds t [.updClip, .updStatus, .updPerf, .seqStatus, .mgtLogStatus]) ∧
    ((s.holdMode = false ∨ s.upd.released = true) → exec (.clipToken c nf) s = .next s)

/-- NARROW_WEIGHT_EMISSION and WEIGHTS_SEND (R30, R168, R170, R181, R235, R236, R239, R263, R400): a layer whose every slice is written and answered, with the
measurement of every other engine of its data cut, is emitted once, with the SE of the largest master of the cut, and its shard goes to
those engines, by the ranges of the channels where the image gives them; a BQn layer writes no memory then. WEIGHTS_SEND gathers pieces;
with the last the whole layer goes out in beats, with the SE of an F8 one, and weights-ready of the next step, once, and is kept where the
image says so (log entry 144). -/
def Obligations.NarrowWeights : Prop :=
  ∀ (s : State) (l : Nat) (peers : List (Nat × Meas)) (pieces : List (Nat × List Byte)) (r : LayerRec) (x : LayerSt), s.wf = true →
    s.layerAt l = some (r, x) →
    (s.works = true → s.admState = admRunning → s.probe = false → s.upd.skipped = false → allSlices r x.written = true → x.emitted = false →
      s.layerBusy l = false → x.token = true → s.updCtxOpen r.ctx = true → (∀ k ∈ s.dataPeers, ∃ p ∈ peers, p.1 = k) →
      ∃ t y, exec (.narrowWeightEmission l peers) s = .next t ∧ t.upd.layers[l]? = some y ∧ y.emitted = true ∧ y.masters = [] ∧ y.sent = x.sent ∧
        y.seSent = (weightSe ((s.track r.wt).getD (trackZero r.wt)) (combineMeas x peers).amax).1 ∧
        (let own := [(s.pieceAt s.coordD s.coordS, t.narrowBytes r)]
        y.gathered = own ∧ (s.gatherOf l = none → t.chain.sent = s.chain.sent ++
            (if s.dataPeers = [] then [] else [.weights s.dataPeers l none own]) ++
            (if s.cutD = 1 ∧ s.seqPeers ≠ [] then [.weights s.seqPeers l none own] else [])) ∧
          ∀ g, s.gatherOf l = some g → s.dataPeers ≠ [] → ∀ x ∈ g.data,
            .weights s.dataPeers l (some (.data, x.channel)) (own.map fun p => (p.1, rangeBytes (s.desc r.dn).elem x p.2)) ∈ t.chain.sent) ∧
        t.toks = s.toks ∧
        (s.wtBq r = true → s.keepsMemory t ∧ t.regs = s.regs) ∧
        (s.fx.streams = [] → s.keepsOutside t ((shardIndices r).flatMap fun i => locCodes (s.shardLocs (s.desc r.dn) (i - firstMin r))))) ∧
    (s.upd.skipped = true ∨ allSlices r x.written = false ∨ x.emitted = true ∨ s.layerBusy l = true ∨ x.token = false ∨
        s.updCtxOpen r.ctx = false ∨ (∃ k ∈ s.dataPeers, ∀ p ∈ peers, p.1 ≠ k) ∨ (s.probe = true ∧ s.probeReads r = false) →
      exec (.narrowWeightEmission l peers) s = .next s) ∧
    (s.works = true → s.admState = admRunning → x.emitted = true → x.sent = false → s.probe = false →
      let all := x.gathered ++ pieces.filter fun p => !x.gathered.any fun y => y.1 == p.1
      (holdsPieces all s.allPieces = true →
        ∃ t, exec (.weightsSend l pieces) s = .next t ∧
          ((s.gatherOf l).bind (·.keep) = none → t.regs = s.regs ∧ s.keepsMemory t) ∧
          (∀ base, (s.gatherOf l).bind (·.keep) = some base →
            t.mem = (s.storeBatch Who.engine false (bytesAt 0 base (layerBytes all s.allPieces) false)).mem) ∧
          t.upd.layers = s.upd.layers.set l { x with sent := true, gathered := [] } ∧
          t.fx.out ++ t.fx.queue = s.fx.out ++ s.fx.queue ++ (weightBeats l (layerBytes all s.allPieces) ++
            (if s.wtBq r then [] else [.scale r.wt x.seSent]) ++ [.weightsReady ((s.epoch.toNat + 1) % 2 ^ 32) l])) ∧
      (holdsPieces all s.allPieces = false →
        ∃ t, exec (.weightsSend l pieces) s = .next t ∧ t.regs = s.regs ∧ s.keepsMemory t ∧ t.fx = s.fx ∧
          t.upd.layers = s.upd.layers.set l { x with gathered := all })) ∧
    ((x.emitted = false ∨ x.sent = true ∨ s.probe = true) → exec (.weightsSend l pieces) s = .next s)

/-! ## Steps and epochs -/

/-- STEP_COMPLETE_REPORT (R31, R257, R312; log entry 31): once, when no context can go on after a fault, as a failed report with STEP_FAILED; when every condition of R31
holds and nothing failed, as the complete report; else nothing.
STEP_REPORT at the head (R256, R257, R386): a report of another step, or a ready report while the Chain runs, is discarded and recorded; a good one
that is not the last is held and counted; the first failed one sends halt in place of the epoch token (log entry 32), and a failed one of the
same step that comes after it still counts for FIRST_FAIL; with the last good one the epoch token of the next step goes out, with the combined
measurements, but while debug halts the head's controller, which holds its Chain. -/
def Obligations.StepReports : Prop :=
  (∀ s : State, s.wf = true → s.works = true → s.admState = admRunning → s.chain.reported = false → s.chain.reshard = none →
    (∀ f, s.stepFault = some f →
      ∃ t, exec .stepCompleteReport s = .next t ∧ t.fld mapStatusStepFailed 0 = 1 ∧ s.keepsKinds t [.mapStatus] ∧
        t = { s with regs := t.regs, chain := { s.chain with
          reported := true, sent := s.chain.sent ++ [.report ⟨s.rank, s.epoch.toNat, false, some f, [], none, false⟩] } }) ∧
    (s.stepFault = none → s.stepComplete = true → s.chain.stepFailed = none → (∀ c ∈ s.usedCtx, (s.ctx c).failed = none) →
      exec .stepCompleteReport s = .next { s with chain := { s.chain with
        reported := true, probeAsk := false, sent := s.chain.sent ++ [.report s.completeReport] } }) ∧
    (s.stepFault = none → s.stepComplete = false → exec .stepCompleteReport s = .next s)) ∧
  (∀ (s : State) (r : StepReport), s.wf = true → s.onChain = true → s.flag mapChainIsHead 0 = true → r.rank < s.chainSize → s.admState = admRunning →
    (r.ready = true ∨ r.step ≠ s.epoch.toNat → exec (.stepReport r) s = .next (s.logEv 0x0309 8 0 (r.rank + 1024 * r.step))) ∧
    (r.ready = false → r.step = s.epoch.toNat → r.failed = none → (∃ k, k < s.chainSize ∧ k ≠ r.rank ∧ ∀ x ∈ s.chain.reports, x.rank ≠ k) →
      ∃ t, exec (.stepReport r) s = .next t ∧ t.chain = { s.chain with reports := r :: s.chain.reports.filter fun x => x.rank != r.rank } ∧
        t.fld mapHeadReported 0 = (r :: s.chain.reports.filter fun x => x.rank != r.rank).length % 2 ^ 11 ∧ s.onlyRegs { t with chain := s.chain } ∧
        (r.probe = true → t.fld mapHeadProbeNext 0 = 1) ∧ s.keepsFields t [(mapHeadReported, 0), (mapHeadProbeNext, 0)]) ∧
    (∀ f, r.ready = false → r.step = s.epoch.toNat → r.failed = some f → s.chain.failRank = none →
      ∃ t, exec (.stepReport r) s = .next t ∧ t.chain.sent = s.chain.sent ++ [.halt s.epoch.toNat f] ∧ t.chain.failRank = some (r.rank, f) ∧
        t.fld mapHeadFailedRpt 0 = 1 ∧ t.fld mapHeadFirstFail 0 = r.rank % 2 ^ 10 ∧ s.keepsMemory t) ∧
    (r.ready = false → r.step = s.epoch.toNat → r.failed = none → s.mcHalted = true →
      ∃ t, exec (.stepReport r) s = .next t ∧ t.chain.sent = s.chain.sent ∧ t.epoch = s.epoch ∧ r ∈ t.chain.reports) ∧
    (r.ready = false → r.step = s.epoch.toNat → r.failed = none → s.chain.failRank = none → s.chain.pending = none → s.probe = false →
      s.mcHalted = false → (∀ k, k < s.chainSize → k = r.rank ∨ ∃ x ∈ s.chain.reports, x.rank = k) →
      ∃ t e, exec (.stepReport r) s = .next t ∧ t.chain.sent = s.chain.sent ++ [.epoch e] ∧ e.step = (s.epoch.toNat + 1) % 2 ^ 32 ∧
        (e.probe = true ↔ r.probe = true ∨ ∃ x ∈ s.chain.reports, x.rank ≠ r.rank ∧ x.probe = true) ∧ t.chain.reports = [] ∧
        (∀ m ∈ e.meas, m = combineReports (r :: s.chain.reports.filter fun x => x.rank != r.rank) m.tnum) ∧ s.keepsMemory t ∧
        t.fld mapHeadReported 0 = 0 ∧ t.fld mapHeadProbeNext 0 = 0)) ∧
  (∀ (s : State) (r : StepReport), s.wf = true → s.onChain = true → s.flag mapChainIsHead 0 = true → r.rank < s.chainSize → r.ready = false →
    s.admState ≠ admRunning →
    (∀ f, s.admState = admHalted → r.step = s.epoch.toNat → r.failed = some f →
      ∃ t, exec (.stepReport r) s = .next t ∧ t.fld mapHeadFailedRpt 0 = 1 ∧ t.chain.sent = s.chain.sent ∧
        t.fld mapHeadFirstFail 0 = (match s.chain.failRank with | some x => min x.1 r.rank | none => r.rank) % 2 ^ 10 ∧
        s.keepsFields t [(mapHeadFailedRpt, 0), (mapHeadFirstFail, 0)]) ∧
    (s.admState ≠ admHalted ∨ r.step ≠ s.epoch.toNat → exec (.stepReport r) s = .next (s.logEv 0x0309 8 0 (r.rank + 1024 * r.step))))

/-- EPOCH_TOKEN (R31, R172, R265, R297, R302, R309; log entries 34, 64 and 86): for an engine that has reported, or that dispatches: RUNNING in the token's step, with its
probe flag; no micro-batch is open; a committed change shows as applied unless the step is a probe; every tracker's counts move to LAST;
of updated tensors the closed step's tags are expected; without snapshots, early opens, re-shards and changes no memory changes. Any other
engine discards it. -/
def Obligations.EpochTokens : Prop :=
  ∀ (s : State) (k : EpochTok), s.wf = true → s.onChain = true →
    ((s.admState = admRunning → s.chain.reported = false ∨ s.chain.reshard.isSome = true) → (s.admState = admDispatching → s.chain.readySent = false) →
      exec (.epochToken k) s = .next s) ∧
    ((s.admState = admRunning ∧ s.chain.reported = true ∧ s.chain.reshard = none) ∨ (s.admState = admDispatching ∧ s.chain.readySent = true) →
      ∃ t, exec (.epochToken k) s = .next t ∧ t.epoch = BitVec.ofNat 32 k.step ∧ t.probe = k.probe ∧ t.admState = admRunning ∧
        t.flag sclStatusProbeActive 0 = k.probe ∧ t.chain.reported = false ∧ t.upd.released = false ∧ t.upd.skipped = false ∧
        (s.fx.earlyOpens = [] → t.mbs = []) ∧
        (s.admState = admRunning → k.probe = false → s.chain.committed.isSome = true → t.fld cfgMstatPending 0 = 0 ∧ t.fld cfgMstatLastResult 0 = 1) ∧
        (s.admState = admRunning → s.probe = false → s.upd.skipped = false → s.chain.committed = none → s.chain.tags = t.chain.tags ∧
          t.chain.expects = s.chain.expects.map fun x => (x.1, s.epoch.toNat)) ∧
        (s.chain.committed = none → (∀ i, s.image = some i → i.reshard = []) → s.fx.earlyOpens = [] → s.bushel = none →
          s.readsOpen (· == markJournal) = false → s.keepsMemory t ∧
          t.fld mgtIrqPendEpoch 0 = 1 ∧ (s.admState = admRunning → ∀ (i : Nat) (e : Track), s.trk[i]? = some e → ∃ f : Track, t.trk[i]? = some f ∧ f.stat = e.stat ∧
            f.ovfLast = e.ovf ∧ f.unfLast = e.unf ∧ f.spillLast = e.spill ∧ f.ovf = 0 ∧ f.unf = 0 ∧ f.spill = 0)))

/-! ## Furlong frames and timers -/

/-- FRAME_RECEIVE (R248 to R251, R253, R258, R275): a failed frame has no effect but its counts and a NAK, and the 16th failure of one SEQ in
a row a retrain; of a good one the link fields act; an IDLE frame does no more; a frame in order is delivered or kept for its outbound
port, or leaves at once where that port is between frames and none of its channel and route waits, and its credit goes back once no buffer
holds it: one for this engine waits while MEM stands or, a segment, until its slot opens; the 8th frame that waits brings an
acknowledgement; one out of order brings one NAK until the expected frame arrives; of a frame already on its way out that proves failed a
stomp leaves (log entries 26, 69 and 155). Behind the retimer of a warm reset the frame leaves on the other side. -/
def Obligations.FramesArrive : Prop :=
  ∀ (s : State) (n : Nat) (f : Frame) (cut : Bool), s.wf = true → n < s.fur.length → f.data.length = 5120 →
    (∀ m, s.retimed n = some m → exec (.frameReceive n f cut) s = .next (s.modPort m fun p => { p with txOut := p.txOut ++ [f] })) ∧
    (s.retimed n = none → s.portUp n = false → exec (.frameReceive n f cut) s = .next s) ∧
    (s.retimed n = none → s.portUp n = true → ((s.port n).rxBuf.filter fun f => s.isLocal n f && s.mayDeliver f) = [] →
      let p := s.port n
      let light := s.lightFec n
      let rep := if frAckValid f then dropAcked p.replay (frAck f) else p.replay
      let cr := p.credits.modify (frCreditVc f) (· + frCredit f)
      let fails := if frIdle f then p.sameFail else if p.failSeq = frSeq f then p.sameFail + 1 else 1
      let fine := (kindVcs (frKind f)).contains (frVc f)
      let out := s.routeOf n (frDest f)
      (frFailed light f = true →
        (cut = false →
          ∃ t, exec (.frameReceive n f cut) s = .next t ∧ s.keepsMemory t ∧ t.toks = s.toks ∧ (t.port n).rxExpect = p.rxExpect ∧
            (t.port n).replay = p.replay ∧ (t.port n).credits = p.credits ∧ (t.port n).rxBuf = p.rxBuf ∧ (t.port n).rxNaked = true ∧
            (t.port n).txOut = p.txOut ++ [p.idle true 0 0] ∧ t.fld furRetryNakTx n = min (s.fld furRetryNakTx n + 1) 65535 ∧
            t.fld furRetryCrcErr n = min (s.fld furRetryCrcErr n + if frCrc f = frameCrc f.control f.data then 0 else 1) 65535 ∧
            t.fld furRetryStomps n = min (s.fld furRetryStomps n + if frStomp light f then 1 else 0) 65535 ∧
            t.fld furFecUncorrCw n = min (s.fld furFecUncorrCw n + fecUncorrectable light f) 65535 ∧
            (fails < 16 → (t.port n).sameFail = fails ∧ s.keepsKinds t [.furFec, .furRetry]) ∧
            (16 ≤ fails → p.retrainTimes = [] → t.linkState n = linkRetrain ∧ t.fld furLinkCause n = 8)) ∧
        (∀ m, cut = true → out = some m → m ≠ n → m < s.fur.length → frIdle f = false → fine = true → s.mayLeave m f = true →
          s.queued n f = false →
          ∃ t, exec (.frameReceive n f cut) s = .next t ∧ (t.port m).txOut = (s.port m).txOut ++ [stompFrame ((s.port m).outBits f) f.data] ∧
            (t.port m).replay = (s.port m).replay ∧ (t.port m).txSeq = (s.port m).txSeq ∧ s.keepsMemory t)) ∧
      (frFailed light f = false → frNak f = true → frIdle f = true →
        ∃ t, exec (.frameReceive n f cut) s = .next t ∧ s.keepsMemory t ∧ (t.port n).replay = rep ∧
          (t.port n).txOut = p.txOut ++ rep.map (fun g => sealFrame (p.linkFields false 0 0 (putBits g.control 19 1 1)) g.data) ∧
          t.fld furRetryReplays n = min (s.fld furRetryReplays n + rep.length) 65535) ∧
      (frFailed light f = false → frNak f = false →
        (frIdle f = true ∨ (frSeq f ≠ p.rxExpect ∧ p.rxNaked = true ∧ cut = false) →
          ∃ t, exec (.frameReceive n f cut) s = .next t ∧ t.port n = { p with replay := rep, credits := cr } ∧ s.keepsKinds t [.furFec] ∧
            s.keepsMemory t) ∧
        (frIdle f = false → frSeq f ≠ p.rxExpect → p.rxNaked = false → cut = false →
          ∃ t, exec (.frameReceive n f cut) s = .next t ∧
            t.port n = { p with replay := rep, credits := cr, rxNaked := true, sinceAck := 0, txOut := p.txOut ++ [p.idle true 0 0] } ∧
            t.fld furRetryNakTx n = min (s.fld furRetryNakTx n + 1) 65535 ∧ s.keepsKinds t [.furFec, .furRetry] ∧ s.keepsMemory t) ∧
        (frIdle f = false → frSeq f = p.rxExpect → out ≠ some n ∨ cut = false →
          ∃ t, exec (.frameReceive n f cut) s = .next t ∧ s.keepsMemory t ∧ (t.port n).rxExpect = (p.rxExpect + 1) % 4096 ∧
            (t.port n).rxNaked = false ∧ (t.port n).sameFail = 0 ∧ (t.port n).replay = rep ∧ (t.port n).credits = cr ∧
            t.fld furPerfRxFrames n = (s.fld furPerfRxFrames n + 1) % 2 ^ 32 ∧ s.keepsKinds t [.furFec, .furPerf, .mgtLogStatus] ∧
            (fine = true → (out.isSome = true ∧ (cut = false ∨ s.queued n f = true)) ∨
                (out = none ∧ (s.mayDeliver f = false ∨ s.queued n f = true)) →
              (t.port n).rxBuf = p.rxBuf ++ [{ f with errors := [] }] ∧ (p.sinceAck < 7 → (t.port n).txOut = p.txOut) ∧
                (7 ≤ p.sinceAck → (t.port n).txOut = p.txOut ++ [(t.port n).idle false 0 0] ∧ (t.port n).sinceAck = 0)) ∧
            (∀ m, fine = true → out = some m → cut = true → m < s.fur.length → s.mayLeave m f = true → s.queued n f = false →
              (t.port n).rxBuf = p.rxBuf ∧ (t.port n).txOut = p.txOut ++ [(t.port n).idle false (frVc f) 1] ∧
              ∃ g, (t.port m).txOut = (s.port m).txOut ++ [g] ∧ (t.port m).replay = (s.port m).replay ++ [g] ∧ g.data = f.data) ∧
            (frKind f = 0 → frVc f = 1 → s.slotOpen (frStream f) = false → s.mayDeliver f = false) ∧
            (fine = false ∨ (out = none ∧ s.mayDeliver f = true ∧ s.queued n f = false) →
              (t.port n).rxBuf = p.rxBuf ∧ (t.port n).txOut = p.txOut ++ [(t.port n).idle false (frVc f) 1]) ∧
            (fine = true → out = none → s.mayDeliver f = true → s.queued n f = false → frOffset f = 0 →
              t.chain.inbox = s.chain.inbox ++ [⟨frSrc f, frKind f, frVc f, frStream f, frVtag f, 1, f.data.take (frLen f), frLast f⟩]))))

/-- FRAME_FORWARD, ACK_TIMER and ACK_TIMEOUT (R247 to R251, R253; log entries 69 and 132): the engine's messages are cut into frames, a short one into one
frame, the first with its fields, and a remote access begins each with its header; the oldest frame in transit to the port leaves, with a credit of its VC, with its destination and data, the next SEQ of the port
and a correct CRC, and its own credit goes back; without one, a frame of the engine's own that has two credits; the timer sends an
acknowledgement; a timeout retrains the port with cause 8, and the fourth retrain within 10 ms fails it with cause 9. -/
def Obligations.FramesLeave : Prop :=
  (∀ (s : State) (m : NetMsg) (l : List NetMsg) (r q : Nat), s.chain.sent = l ++ [m] → s.chain.packed = l.length → (s.outMsg m).dests = [(r, some q)] →
    r ≠ s.rank → q < s.fur.length →
    let o := s.outMsg m
    let b := o.head ++ o.body.take (65536 - o.head.length)
    o.head.length < 65536 →
    ∃ g gs, (s.packAll.port q).inject = (s.port q).inject ++ g :: gs ∧ (b.length ≤ 5120 → gs = []) ∧ frDest g = r % 2 ^ 10 ∧
      frSrc g = s.rank % 2 ^ 10 ∧ frKind g = (s.outMsg m).kind % 32 ∧ frVc g = (s.outMsg m).vc % 4 ∧ frVtag g = (s.outMsg m).vtag % 2 ^ 16 ∧
      frOffset g = 0 ∧ frLen g = min 5120 b.length ∧ frLast g = decide (b.length ≤ 5120) ∧ frIdle g = false ∧ g.data.take (frLen g) = b.take 5120 ∧
      g.data.length = 5120) ∧
  ∀ (s : State) (n : Nat), s.wf = true → n < s.fur.length → n < 16 →
    exec (.frameForward n) s = exec (.frameForward n) s.packAll ∧
    (s.portUp n = false → exec (.frameForward n) s = .next s.packAll ∧ exec (.ackTimer n) s = .next s ∧ exec (.ackTimeout n) s = .next s) ∧
    (s.portUp n = true → ((s.port n).rxBuf.filter fun f => s.isLocal n f && s.mayDeliver f) = [] →
      let p := s.port n
      (s.chain.packed = s.chain.sent.length →
        (s.maySend n = false ∨ (s.transitFor n = none ∧ s.ownFor n = none) → exec (.frameForward n) s = .next s) ∧
        (∀ i f, s.maySend n = true → s.transitFor n = some (i, f) → i ≠ n →
          0 < p.credits.getD (frVc f) 0 ∧ s.routeOf i (frDest f) = some n ∧
          ∃ t g, exec (.frameForward n) s = .next t ∧ s.keepsMemory t ∧ s.keepsKinds t [.furPerf] ∧ (t.port i).rxBuf = (s.port i).rxBuf.erase f ∧
            (t.port i).txOut = (s.port i).txOut ++ [(s.port i).idle false (frVc f) 1] ∧ (t.port n).txSeq = (p.txSeq + 1) % 4096 ∧
            (t.port n).credits = p.credits.modify (frVc f) (· - 1) ∧ (t.port n).replay = p.replay ++ [g] ∧
            (t.port n).txOut = p.txOut ++ [g] ∧ t.fld furPerfTxFrames n = (s.fld furPerfTxFrames n + 1) % 2 ^ 32 ∧
            g.data = f.data ∧ frDest g = frDest f ∧ frVc g = frVc f ∧ frKind g = frKind f ∧ frSrc g = frSrc f ∧
            frSeq g = p.txSeq % 4096 ∧ ∀ light, frFailed light g = false) ∧
        (∀ f u, s.maySend n = true → s.transitFor n = none → s.ownFor n = some (f, u) →
          2 ≤ p.credits.getD (frVc f) 0 ∧ f ∈ p.inject ∧
          ∃ t g, exec (.frameForward n) s = .next t ∧ s.keepsMemory t ∧ s.keepsKinds t [.furPerf] ∧ (t.port n).inject = p.inject.erase f ∧
            (t.port n).turn = u ∧ (t.port n).credits = p.credits.modify (frVc f) (· - 1) ∧ (t.port n).replay = p.replay ++ [g] ∧
            (t.port n).txOut = p.txOut ++ [g] ∧ g.data = f.data ∧ frDest g = frDest f ∧ frSeq g = p.txSeq % 4096 ∧
            (∀ light, frFailed light g = false) ∧ ∀ k, k ≠ n → t.port k = s.port k)) ∧
      (∃ t, exec (.ackTimer n) s = .next t ∧ t.port n = { p with txOut := p.txOut ++ [p.idle false 0 0], sinceAck := 0 } ∧
        t.regs = s.regs ∧ s.keepsMemory t) ∧
      (p.replay = [] → exec (.ackTimeout n) s = .next s) ∧
      (p.replay ≠ [] → (p.retrainTimes.filter fun t => decide (s.time < t + 1000000)).length < 3 →
        ∃ t, exec (.ackTimeout n) s = .next t ∧ t.linkState n = linkRetrain ∧ t.fld furLinkCause n = 8 ∧
          t.fld furLinkRetrains n = min (s.fld furLinkRetrains n + 1) 65535 ∧ (t.port n).replay = p.replay ∧ s.keepsKinds t [.furLink] ∧
          s.keepsMemory t) ∧
      (p.replay ≠ [] → 3 ≤ (p.retrainTimes.filter fun t => decide (s.time < t + 1000000)).length →
        ∃ t, exec (.ackTimeout n) s = .next t ∧ t.linkState n = linkFailed ∧ t.fld furLinkCause n = 9 ∧
          (t.fld mapStatusDownPorts 0).testBit n = true ∧ s.keepsMemory t))

/-! ## Bring-up and retrains -/

/-- RETRAIN_END and CODEWORD_LOCK_LOSS (R246, R273, R276, R277; log entry 31): a link that comes back to the same peer replays what is unacknowledged; a hello
that disagrees fails the port with R273's cause, a failed retrain with cause 9 (log entry 70); a port used by a running job that fails is
LINK_DOWN to the contexts whose routes use it, and to no other; loss of codeword lock retrains a port that is UP and sends one before its
hello back to stage 2. -/
def Obligations.RetrainsEnd : Prop :=
  ∀ (s : State) (n : Nat), s.wf = true → s.linkOn n = true → n < s.fur.length → n < 16 →
    (s.linkState n ≠ linkRetrain → ∀ o, exec (.retrainEnd n o) s = .next s) ∧
    (s.linkState n = linkRetrain →
      (∀ h, s.retrainCause n h = none → ∃ t, exec (.retrainEnd n (.hello h)) s = .next t ∧ t.linkState n = linkUp ∧
        (t.port n).rxNaked = false ∧ (t.port n).replay = (s.port n).replay ∧ t.fld furLinkSeenRank n = h.rank % 2 ^ 10 ∧
        t.fld furLinkSeenPort n = h.port % 2 ^ 4 ∧
        (t.port n).txOut = (s.port n).txOut ++ (s.port n).replay.map
          (fun g => sealFrame ((s.port n).linkFields false 0 0 (putBits g.control 19 1 1)) g.data) ∧
        (s.snp.restore.waiting = false → s.keepsKinds t [.furLink, .furRetry]) ∧ s.keepsMemory t) ∧
      (∀ o k, (o = .failed ∧ k = 9) ∨ (∃ h, o = .hello h ∧ s.retrainCause n h = some k) →
        ∃ t, exec (.retrainEnd n o) s = .next t ∧ t.linkState n = linkFailed ∧
        t.fld furLinkCause n = k ∧ (t.fld mapStatusDownPorts 0).testBit n = true ∧ s.keepsMemory t ∧
        ((s.fld mapStatusDownPorts 0).testBit n = false → t.fld mgtIrqPendLink 0 = 1) ∧
        (s.loaded = true → s.usedPorts.contains n = true → t.fld mapStatusLinkDown 0 = 1 ∧
          (s.admState = admRunning → ∀ c ∈ s.usedCtx, c < 64 →
            ((s.ctxPorts c).contains n = true → t.fld seqFaultName c = 6 ∧ t.chain.stepFailed.isSome = true) ∧
            ((s.ctxPorts c).contains n = false → t.fld seqFaultName c = s.fld seqFaultName c ∧ t.ctx c = s.ctx c))) ∧
        (s.loaded = false → t.ctxs = s.ctxs ∧ t.chain = s.chain))) ∧
    (s.linkState n = linkUp → (s.port n).retrainTimes = [] →
      ∃ t, exec (.codewordLockLoss n) s = .next t ∧ t.linkState n = linkRetrain ∧ s.keepsKinds t [.furLink] ∧ s.keepsMemory t ∧
        t.fld furLinkRetrains n = min (s.fld furLinkRetrains n + 1) 65535) ∧
    (s.linkState n = linkAligned ∨ s.linkState n = linkHello →
      ∃ t, exec (.codewordLockLoss n) s = .next t ∧ t.linkState n = linkTraining ∧ (t.port n).stage = 2 ∧ (t.port n).helloIn = none ∧
        t.fld furLinkRetrains n = min (s.fld furLinkRetrains n + 1) 65535 ∧ s.keepsKinds t [.furLink] ∧ s.keepsMemory t) ∧
    (s.linkState n ∉ [linkUp, linkAligned, linkHello] → exec (.codewordLockLoss n) s = .next s)

/-- BRINGUP_STAGE_DONE, BRINGUP_STAGE_TIMEOUT and HELLO (R272 to R274, R302): the stages follow one another; a port in loopback has looped after stage 3; after
stage 3 the hello goes out once an image uses the port; the end of stage 5 brings SEQ 0 and credits, and sends this end's; a stage that fails is
tried three times more, with the cause of its stage, that of deskew where stage 3 finds the lanes reordered (R404; log entry 70); a hello that agrees brings the port UP, one that differs fails it with the cause of R273's first
disagreement; with the last used port UP a dispatching engine reports ready (log entries 48 and 72). -/
def Obligations.BringUp : Prop :=
  ∀ (s : State) (n : Nat) (cr : List Nat) (h : Hello) (ro : Bool), s.wf = true → s.linkOn n = true → n < s.fur.length → n < 16 → cr.length = 4 →
    let p := s.port n
    (p.stage = 1 ∨ p.stage = 2 →
      ∃ t, exec (.bringupStageDone n cr) s = .next t ∧ t.port n = { p with stage := p.stage + 1 } ∧ s.keepsKinds t [.furLink] ∧ s.keepsMemory t ∧
        t.linkState n = (if s.loopsBack n then linkLoopback else if p.stage = 2 then linkAligned else linkTraining)) ∧
    (p.stage = 3 → s.loopsBack n = true →
      exec (.bringupStageDone n cr) s = .next (s.modPort n fun q => { q with stage := 4, looped := true })) ∧
    (p.stage = 3 → s.loopsBack n = false → s.linkState n = linkAligned → p.helloIn = none → (s.portRec n).isSome = true →
      s.admState ≠ admDispatching → s.snp.restore.waiting = false →
      ∃ t x, exec (.bringupStageDone n cr) s = .next t ∧ t.linkState n = linkHello ∧ t.chain.sent = s.chain.sent ++ [.linkHello n x] ∧
        x.rank = s.rank ∧ x.port = n ∧ x.chainId = s.fld mapChainChainId 0 ∧ x.imageId = s.fld cfgImgidImageId 0 ∧ s.keepsKinds t [.furLink]) ∧
    (p.stage = 5 → ∃ t, exec (.bringupStageDone n cr) s = .next t ∧ (t.port n).stage = 6 ∧ (t.port n).txSeq = 0 ∧ (t.port n).rxExpect = 0 ∧
      (t.port n).credits = cr ∧ (t.port n).replay = p.replay ∧ (t.port n).txOut = p.txOut ++ (indexed (((s.portRec n).map (·.vcBuf)).getD [])).map
        (fun c => { p with rxExpect := 0, txSeq := 0 }.idle false c.2 c.1) ∧ t.regs = s.regs ∧ s.keepsMemory t) ∧
    (p.stage = 0 ∨ 6 ≤ p.stage → exec (.bringupStageDone n cr) s = .next s ∧ exec (.bringupStageTimeout n ro) s = .next s) ∧
    (∀ k, ((p.stage = 1 ∨ p.stage = 2) ∧ k = 1) ∨ (p.stage = 3 ∧ ro = true ∧ k = 2) → s.linkState n ≠ linkFailed →
      (s.security ≠ secLockdown → s.retimed n = none → p.tries < 3 →
        ∃ t, exec (.bringupStageTimeout n ro) s = .next t ∧ t.port n = { stage := 1, dark := false, tries := p.tries + 1, inject := p.inject } ∧
        t.fld furLinkCause n = k ∧ t.linkState n = (if s.loopsBack n then linkLoopback else linkTraining) ∧ s.keepsMemory t) ∧
      (3 ≤ p.tries → ∃ t, exec (.bringupStageTimeout n ro) s = .next t ∧ t.linkState n = linkFailed ∧ t.fld furLinkCause n = k ∧
        (t.fld mapStatusDownPorts 0).testBit n = true ∧ s.keepsMemory t)) ∧
    (s.linkState n ≠ linkHello → s.linkState n ≠ linkAligned → exec (.hello n h) s = .next s) ∧
    (s.linkState n = linkAligned → s.admState ≠ admDispatching → s.snp.restore.waiting = false →
      ∃ t, exec (.hello n h) s = .next t ∧ t.port n = { p with helloIn := some h } ∧ t.fld furLinkSeenRank n = h.rank % 2 ^ 10 ∧
        t.fld furLinkSeenPort n = h.port % 2 ^ 4 ∧ s.keepsKinds t [.furLink]) ∧
    (∀ r, s.linkState n = linkHello → s.portRec n = some r →
      (∀ c, helloCause s n r h = some c → c < 16 → ∃ t, exec (.hello n h) s = .next t ∧ t.linkState n = linkFailed ∧ t.fld furLinkCause n = c ∧
        (t.fld mapStatusDownPorts 0).testBit n = true ∧ s.keepsMemory t) ∧
      (helloCause s n r h = none → ∃ t, exec (.hello n h) s = .next t ∧ t.linkState n = linkUp ∧ t.fld furLinkCause n = 0 ∧
        (t.port n).stage = 5 ∧ t.fld furLinkSeenRank n = h.rank % 2 ^ 10 ∧ (s.snp.restore.waiting = false → s.keepsKinds t [.furLink]) ∧
        s.keepsMemory t ∧
        (s.admState = admDispatching → s.chain.readySent = false → (∀ m ∈ s.usedPorts, m = n ∨ m < 16 ∧ s.linkState m = linkUp) →
          t.chain.readySent = true)))

/-! ## Remote gather and scatter -/

/-- REMOTE_READ_REQUEST, REMOTE_READ_RESPONSE and STALE_RESPONSE (R150, R203, R214, R265, R266): a request one of whose pieces has another tag is answered
with that tag alone; else its elements go back, once memory has answered for them, and no memory changes; a response that no move waits for is
discarded, one that completes what a move needs lets it run; a stale response is recorded, and the entry that made the access with that
tag, of the micro-batch that made it, never completes (log entries 49 and 54). A message acts only while MEM runs (log entry 136). -/
def Obligations.RemoteReads : Prop :=
  ∀ (s : State) (r : ReadReq) (a : ReadResp) (rank holder desc part expect found : Nat) (fixed lost : List FixedWord), s.wf = true →
    let wants := fun (n : Nat × Nat × List Nat) => n.1 == a.desc && n.2.1 == a.rank && a.items.any fun x => x.1 == n.2.2
    let made := fun (u : RemoteUse) => u.rank == rank && u.holder == holder && u.desc == desc && u.part == part && u.vtag == expect
    let v := (s.kegCorrected fixed).kegLost lost
    (s.onChain = false → exec (.remoteReadRequest r fixed lost) s = .next s ∧
      exec (.staleResponse rank holder desc part expect found) s = .next s) ∧
    (∀ x, s.onChain = true → s.staleTag r.holder r.vtag r.elems = some x →
      (∃ p ∈ r.elems, s.pieceTag r.holder (s.pieceOf r.holder p) = x) ∧ x ≠ r.vtag ∧
      exec (.remoteReadRequest r fixed lost) s =
        .next { s with chain := { s.chain with sent := s.chain.sent ++ [.stale r.rank r.holder r.desc r.part x 2] } }) ∧
    (s.onChain = true → (∀ p ∈ r.elems, s.pieceTag r.holder (s.pieceOf r.holder p) = r.vtag) →
      let resp := NetMsg.readResp r.rank ⟨s.rank, r.holder, r.desc, r.part,
        r.elems.filterMap fun p => (s.heldPlace (s.desc r.desc) p).map fun l => (p, v.readLocs l)⟩
      ∃ t, exec (.remoteReadRequest r fixed lost) s = .next t ∧ v.mem = s.mem ∧
        (s.fx.streams = [] → v.keepsMemory t ∧ t.ctxs = s.ctxs) ∧ t.toks = s.toks ∧
        (resp ∈ t.chain.sent ∨ ∃ k, (k, resp) ∈ t.chain.answers ∧ t.answerOpen k = true)) ∧
    (s.works = false ∨ (∀ m ∈ s.chain.moves, m.need.any wants = false) → exec (.remoteReadResponse a) s = .next s) ∧
      (∀ m f k, s.works = true → s.chain.moves = [m] → s.fx.streams = [] → m.need.any wants = true → (∀ n ∈ m.need, wants n = true) → m.after = [] →
        s.movesStand m.ctx = false → s.flightOf m.ctx m.queue m.index = some f → s.moverOf m.ctx m.queue m.index = some k →
        let got := m.got ++ m.need.filterMap fun n => (a.items.find? fun x => x.1 == n.2.2).map fun x => (n.1, n.2.2, x.2)
        let mv := { s.moveOf f.word with got := got }
        s.moveNeeds mv = [] →
        ∃ t g, exec (.remoteReadResponse a) s = .next t ∧ t.chain.moves = [] ∧ t.toks = s.toks ∧ t.flightOf m.ctx m.queue m.index = some g ∧
          g.word = f.word ∧ ((s.windowsFrom mv 0).length ≤ 1 → g.finished = true)) ∧
    (s.onChain = true →
      ∃ t, exec (.staleResponse rank holder desc part expect found) s = .next t ∧ s.keepsMemory t ∧ t.toks = s.toks ∧
        t.fld mapStatusStale 0 = 1 ∧
        t.fld mapStaleHolder 0 = holder % 2 ^ 13 ∧ t.fld mapStaleExpect 0 = expect % 2 ^ 16 ∧ t.fld mapStaleFound 0 = found % 2 ^ 16 ∧
        t.fld mapStaleRank 0 = rank % 2 ^ 10 ∧
        ((∀ u ∈ s.chain.uses, made u = false) → s.onlyRegs t ∧ s.keepsKinds t [.mapStale, .mapStatus]) ∧
        (∀ u, s.chain.uses.find? made = some u →
          t.chain.stepFailed.isSome = true ∧ (u.ctx < 64 → t.fld seqFaultName u.ctx = 1) ∧ u ∉ t.chain.uses ∧
          ∀ f, s.flightOf u.ctx u.queue u.index = some f → u.ctx < s.ctxs.length → (s.ctx u.ctx).accMb = u.acc →
            ∃ g, t.flightOf u.ctx u.queue u.index = some g ∧ g.dead = true))

/-- REMOTE_WRITE (R107, R144, R151, R266): a tag that disagrees answers a stale response and writes nothing; an overwrite that an applied one
outranks writes nothing, the first of a round writes its element; an add of a drain and an arrival add combine at once; an ordered add
waits for its PART, and applied in turn lets the next one follow (log entries 38, 49, 140 and 152). Nothing else in memory changes. -/
def Obligations.RemoteWrites : Prop :=
  ∀ (s : State) (w : WriteReq) (x : WItem), s.wf = true → s.onChain = true →
    let places := w.items.flatMap fun x => match s.heldPlace (s.desc w.desc) x.pos with | some l => locCodes l | none => []
    let stale := s.staleTag w.holder w.vtag (w.items.map (·.pos))
    (∀ v, stale = some v →
      exec (.remoteWrite w) s = .next { s with chain := { s.chain with
        sent := s.chain.sent ++ [.stale w.rank w.holder w.desc w.part v (if w.add then 1 else 2)] } }) ∧
    (stale = none → w.add = false → w.items = [x] →
      (s.chain.overwrites.find? (fun o => o.1 == w.desc) = none →
        ∃ t, exec (.remoteWrite w) s = .next t ∧ t.mem = (s.putItem (s.desc w.desc) x).mem ∧ t.keg = (s.putItem (s.desc w.desc) x).keg ∧
          s.keepsOutside t places ∧ t.toks = s.toks ∧ t.ctxs = s.ctxs) ∧
      (∀ o b, s.chain.overwrites.find? (fun o => o.1 == w.desc) = some o → o.2.1.contains w.part = false →
        o.2.2.find? (fun b => b.1 == x.pos) = some b → w.part < b.2.1 → ∃ t, exec (.remoteWrite w) s = .next t ∧ s.keepsMemory t)) ∧
    (stale = none → w.add = true → w.drainMb.isSome = true →
      ∃ t, exec (.remoteWrite w) s = .next t ∧ s.keepsOutside t places ∧ t.toks = s.toks ∧ t.ctxs = s.ctxs ∧ t.chain = s.chain) ∧
    (stale = none → w.add = true → w.drainMb = none → w.arrival = true →
      ∃ t, exec (.remoteWrite w) s = .next t ∧ t = w.items.foldl (fun s x => s.addItem (s.desc w.desc) x) s ∧ s.keepsOutside t places ∧
        t.toks = s.toks ∧ t.ctxs = s.ctxs ∧ t.chain = s.chain) ∧
    (stale = none → w.add = true → w.drainMb = none → w.arrival = false → (∀ y ∈ s.chain.writes, y.desc ≠ w.desc) →
      (w.part ≠ s.nextPart w.desc →
        exec (.remoteWrite w) s = .next { s with chain := { s.chain with writes := s.chain.writes ++ [w] } }) ∧
      (w.part = s.nextPart w.desc →
        ∃ t, exec (.remoteWrite w) s = .next t ∧ t.mem = (w.items.foldl (fun s x => s.addItem (s.desc w.desc) x) s).mem ∧
          t.nextPart w.desc = (w.part + 1) % max 1 (s.partCount w.desc) ∧ t.chain.writes = s.chain.writes ∧ s.keepsOutside t places ∧
          t.toks = s.toks ∧ t.ctxs = s.ctxs))

/-! ## Re-shards -/

/-- RESHARD_TRANSFER and RESHARD_ROUND_MESSAGE (R265, R268, R270, R271): a block of the present round that this engine receives is written into its slot, and
its tag kept; one of the next round waits, as does any while the journal is still read, and one of another round is discarded (log entry 141); the head answers the last DONE of a round with its commit; a commit is recorded in the journal and starts the next round, and the
last one ends the re-shard: the plan's holder table is in force, and the boundary goes on. -/
def Obligations.Reshards : Prop :=
  ∀ (s : State) (rank slot round k tag : Nat) (d : List Byte) (bad : List Nat) (p : Plan) (x : ReshardSt), s.wf = true → s.onChain = true →
    s.admState = admRunning →
    (s.chain.reshard = none → s.reshardStaged = false → exec (.reshardTransfer rank slot round d bad tag) s = .next s ∧
      ∀ r, exec (.reshardRoundMessage (.commit r)) s = .next s) ∧
    (s.chain.reshard = some x → x.plan = none → exec (.reshardTransfer rank slot round d bad tag) s = .next { s with chain := { s.chain with
        blocks := s.chain.blocks ++ [⟨rank, slot, round, d, bad, tag⟩] } }) ∧
    (s.chain.reshard = some x → x.plan = some k → s.planOf k = some p →
      (round = x.round + 1 → exec (.reshardTransfer rank slot round d bad tag) s = .next { s with chain := { s.chain with
        blocks := s.chain.blocks ++ [⟨rank, slot, round, d, bad, tag⟩] } }) ∧
      (round ≠ x.round → round ≠ x.round + 1 → exec (.reshardTransfer rank slot round d bad tag) s = .next s) ∧
      (round = x.round → (rank, slot) ∈ (roundOf p x.round).recvs → p.slots.getD slot 0 % 64 = 0 →
        ∃ t y, exec (.reshardTransfer rank slot round d bad tag) s = .next t ∧ t.mem = (s.writeSlot p slot d bad).mem ∧ t.toks = s.toks ∧
          s.keepsOutside t ((List.range (p.block / 64)).map fun u => p.slots.getD slot 0 / 64 + u) ∧ t.chain.reshard = some y ∧
          y.received = slot :: x.received ∧ y.round = x.round ∧ y.tags = (p.slots.getD slot 0, tag) :: x.tags ∧
          (x.doneSent = false → (∀ v ∈ (roundOf p x.round).recvs, v.2 = slot ∨ v.2 ∈ x.received) →
            y.doneSent = true ∧ t.fld mapReshardPhase 0 = 2 ∧ t.chain.sent = s.chain.sent ++ [.round (.done s.rank x.round)])) ∧
      (∀ r, r ≠ x.round ∨ x.doneSent = false → exec (.reshardRoundMessage (.commit r)) s = .next s) ∧
      (x.doneSent = true → x.round + 1 < p.rounds.length →
        ∃ t y, exec (.reshardRoundMessage (.commit x.round)) s = .next t ∧ t.chain.reshard = some y ∧ y.round = x.round + 1 ∧
          y.plan = some k ∧ t.fld mapReshardRound 0 = (x.round + 1) % 2 ^ 16 ∧ t.toks = s.toks ∧ t.epoch = s.epoch) ∧
      (x.doneSent = true → x.round + 1 = p.rounds.length →
        ∃ t, exec (.reshardRoundMessage (.commit x.round)) s = .next t ∧ t.chain.reshard = none ∧ t.chain.holders = p.holders ∧
          t.fld mapReshardActive 0 = 0 ∧ t.fld mapReshardPhase 0 = 0 ∧ t.fld mgtIrqPendEpoch 0 = 1 ∧ t.epoch = s.epoch ∧
          (s.bushel = none → s.fx.earlyOpens = [] → t.mem = (s.putJournal s.ownJournal ⟨p.ident, x.round, true⟩).mem))) ∧
    (s.flag mapChainIsHead 0 = true → rank < s.chainSize →
      let l := (rank, round) :: s.chain.roundDones.filter (· ≠ (rank, round))
      ((∃ k, k < s.chainSize ∧ (k, round) ∉ l) →
        exec (.reshardRoundMessage (.done rank round)) s = .next { s with chain := { s.chain with roundDones := l } }) ∧
      ((∀ k, k < s.chainSize → (k, round) ∈ l) →
        exec (.reshardRoundMessage (.done rank round)) s = .next { s with chain := { s.chain with
          roundDones := l.filter fun x => x.2 != round, sent := s.chain.sent ++ [.round (.commit round)] } }))

/-! ## Partners, snapshots, restores -/

/-- PARTNER_MIRROR, HEARTBEAT and PARTNER_LOST (R331 to R333; log entries 78 and 104): what the mirror source sends goes into the MIRROR area of the working region, each kind at its
place, a control block shows its step, and memory elsewhere stays; from another rank it is recorded alone; a heartbeat goes to the partner;
20 ms of silence are recorded once and fail the step, and halt the engine when the head is silent. -/
def Obligations.Partners : Prop :=
  ∀ (s : State) (rank : Nat) (m : MirrorMsg) (b : Bushel), s.wf = true → s.onChain = true → s.bushel = some b →
    (rank ≠ b.source → exec (.partnerMirror rank m) s = .next (s.logEv 0x0308 10 0 rank)) ∧
    (∃ t, exec (.partnerMirror b.source m) s = .next t ∧ t.snp.lastMsg = s.time ∧ t.snp.lost = false ∧ t.toks = s.toks ∧ t.chain = s.chain ∧
      s.keepsKinds t [.snpPartner, .layStash, .mgtLogStatus] ∧
      (m = .heartbeat → s.keepsMemory t) ∧
      (b.mirror % 64 = 0 → b.mirror < 2 ^ 41 →
        (∀ c, m = .control c → t.fld snpPartnerMirrorStep 0 = c.step % 2 ^ 32 ∧ t.mem = (s.workWrite b.mirror (ctlBytes c)).mem ∧
          s.keepsOutside t ((List.range 65536).map fun u => b.mirror / 64 + u)) ∧
        (∀ sl x, m = .digests sl x → t.mem = (s.workWrite (s.mirrorTable sl) (tableBytes x)).mem ∧
          s.keepsOutside t ((List.range 24).map fun u => s.mirrorTable sl / 64 + u)) ∧
        (∀ r, m = .slotRecord r → r.kind = .done → t.mem = (s.workWrite (s.mirrorRecBase r.slotB + 0x40) (slotRecBytes r)).mem ∧
          s.keepsOutside t [s.mirrorRecBase r.slotB / 64 + 1]) ∧
        (∀ r, m = .slotRecord r → r.kind = .committed → s.keepsOutside t ((s.mirrorRecBase r.slotB / 64 + 2) ::
          (List.range 65536).map fun u => s.mirrorSlot r.slotB / 64 + u)) ∧
        (∀ r, m = .slotRecord r → r.kind = .opened → s.keepsOutside t (((List.range 3).map fun u => s.mirrorRecBase r.slotB / 64 + u) ++
          ((List.range 24).map fun u => s.mirrorTable r.slotB / 64 + u) ++ (List.range 65536).map fun u => s.mirrorOpen / 64 + u)))) ∧
    exec .heartbeat s = .next { s with chain := { s.chain with sent := s.chain.sent ++ [.mirror b.partner .heartbeat] } } ∧
    (s.snp.lost = true ∨ s.time < s.snp.lastMsg + 2000000 → exec .partnerLost s = .next s) ∧
    (s.snp.lost = false → s.snp.lastMsg + 2000000 ≤ s.time →
      ∃ t, exec .partnerLost s = .next t ∧ t.snp.lost = true ∧ t.fld snpStatusPartnerLost 0 = 1 ∧ s.keepsMemory t ∧ t.toks = s.toks ∧
        (s.fld snpStatusPartnerLost 0 = 0 → t.fld mgtIrqPendPartner 0 = 1) ∧
        (s.admState = admRunning → b.source ≠ 0 → t.fld mapStatusStepFailed 0 = 1 ∧ t.chain.reported = true ∧
          t.chain.sent = s.chain.sent ++ [.report ⟨s.rank, s.epoch.toNat, false, some 9, [], none, false⟩] ∧ t.admState = admRunning) ∧
        (s.admState = admRunning → b.source = 0 → t.admState = admHalted ∧ t.fld snpStatusLocalHalt 0 = 1 ∧ t.fld mgtIrqPendHalt 0 = 1) ∧
        (s.admState ≠ admRunning → s.restoring = true → t.chain.sent = s.chain.sent ++ [.bushel 0 (.lost b.source)]))

/-- SNAPSHOT_DONE, SNAPSHOT_DONE_REPORT, SNAPSHOT_SEAL, ABANDON and the last write response (R324, R325, R327, R328, R330, R344): a capture that met
poison reports itself failed, a complete one writes its DONE record at offset 0x40 and sends its digests; the head seals the digests of
every rank or abandons; the seal writes the table, and once every write of the coder is answered the COMMIT record at offset 0x80, and
the snapshot has ended; so it has after ABANDON (log entries 78, 79, 105 and 106). -/
def Obligations.SnapshotsEnd : Prop :=
  ∀ (s : State) (b : Bushel) (rank step sd pd : Nat) (tb : DigestTable) (skip : Bool), s.wf = true → s.works = true → s.onChain = true →
    s.bushel = some b →
    let base := s.slotBase s.snp.slotB
    let record := fun (k : RecKind) => (⟨s.snp.slotB, k, s.snp.step, s.fld cfgImgidImageId 0, b.n, b.n - 2, b.pos, s.fld snpCfgCellUnits 0⟩ : SlotRec)
    (s.snp.active = false ∨ s.snp.doneSent = true → exec .snapshotDone s = .next s) ∧
    (s.snp.active = true → s.snp.doneSent = false →
      (s.snp.poisonSeen = true →
        ∃ t, exec .snapshotDone s = .next t ∧ t.fld snpStatusSnapPoison 0 = 1 ∧ t.fld snpStatusPhase 0 = 3 ∧ t.snp.doneSent = true ∧
          t.chain.sent = s.chain.sent ++ [.snapDone s.rank s.snp.step true 0 0] ∧ s.keepsMemory t) ∧
      (s.snp.poisonSeen = false → s.parityComplete = false ∨ s.coderBusy = true → exec .snapshotDone s = .next s) ∧
      (s.snp.poisonSeen = false → s.parityComplete = true → s.coderBusy = false →
        ∃ t, exec .snapshotDone s = .next t ∧ t.mem = (s.coderNarrow (base + 0x40) (slotRecBytes (record .done))).mem ∧
          s.keepsOutside t [base / 64 + 1] ∧ t.snp.doneSent = true ∧ t.fld snpStatusPhase 0 = 3 ∧
          t.chain.sent = s.chain.sent ++ [.mirror b.partner (.slotRecord (record .done)), .snapDone s.rank s.snp.step false
            (t.slotDigests b s.snp.slotB).1 (t.slotDigests b s.snp.slotB).2])) ∧
    (s.flag mapChainIsHead 0 = true → s.admState = admRunning → rank < s.chainSize →
      (∃ t, exec (.snapshotDoneReport rank step true sd pd) s = .next t ∧ t.regs = s.regs ∧ s.keepsMemory t ∧
        t.chain.sent = s.chain.sent ++ [.abandon step] ∧ ∀ d ∈ t.snp.dones, d.2.1 ≠ step) ∧
      ((∃ k, k < s.chainSize ∧ k ≠ rank ∧ ∀ d ∈ s.snp.dones, d.1 ≠ k ∨ d.2.1 ≠ step) →
        exec (.snapshotDoneReport rank step false sd pd) s = .next { s with snp := { s.snp with
          dones := (rank, step, sd, pd) :: s.snp.dones.filter fun d => !(d.1 == rank && d.2.1 == step) } }) ∧
      ((∀ k, k < s.chainSize → k = rank ∨ ∃ d ∈ s.snp.dones, d.1 = k ∧ d.2.1 = step) →
        ∃ t x, exec (.snapshotDoneReport rank step false sd pd) s = .next t ∧ t.chain.sent = s.chain.sent ++ [.seal step x s.snp.skipped] ∧
          x.length = s.chainSize ∧ x[rank]? = some (sd, pd) ∧ t.regs = s.regs ∧ s.keepsMemory t)) ∧
    (s.snp.active = true → s.snp.step = step → s.snp.doneSent = true → s.snp.sealing = none →
      let u := s.writeTable s.snp.slotB ((List.range b.n).map fun p => tb.getD (groupRank b p) (0, 0))
      ∃ t, exec (.snapshotSeal step tb skip) s = .next t ∧ t.toks = s.toks ∧
        s.keepsOutside t ((base / 64 + 2) :: (List.range 24).map fun u => (base + 0x1000) / 64 + u) ∧
        (u.coderBusy = true → t.mem = u.mem ∧ t.snp.active = true ∧ t.snp.sealing = some skip ∧ t.fld snpStatusPhase 0 = s.fld snpStatusPhase 0) ∧
        (u.coderBusy = false → t.snp.active = false ∧ t.fld snpStatusPhase 0 = 0 ∧ t.fld mgtIrqPendSnap 0 = 1)) ∧
    (∀ port tag r, s.snp.active = true → s.snp.sealing = some skip → s.snp.restore.waiting = false → s.chain.journal = none → s.spOn port = true →
      (s.sp.getD port {}).wr.find? (fun r => r.tag == tag) = some r →
      (s.setSp port fun p => p.endWrite s.classWeight tag).coderBusy = false →
      ∃ t, exec (.stackWriteResponse port tag false) s = .next t ∧ t.mem = (s.coderNarrow (base + 0x80) (slotRecBytes (record .committed))).mem ∧
        s.keepsOutside t [base / 64 + 2] ∧ t.snp.active = false ∧ t.fld snpStatusPhase 0 = 0 ∧ t.fld mgtIrqPendSnap 0 = 1) ∧
    (s.snp.active = false ∨ s.snp.step ≠ step →
      exec (.snapshotSeal step tb skip) s = .next s ∧ exec (.abandon step) s = .next s) ∧
    (s.snp.active = true → s.snp.step = step → ∃ t, exec (.abandon step) s = .next t ∧ t.snp.active = false ∧ t.fld snpStatusPhase 0 = 0 ∧
      s.keepsMemory t ∧ s.keepsKinds t [.snpStatus])

/-- BUSHEL_TRANSFER and RESTORE_PHASE_END (R320, R323, R328, R334, R335, R338): a declaration that differs sets GROUP_MISMATCH and ends a snapshot; a parity piece of the snapshot in progress is written once, at its
place; a chain piece goes on with this engine's data added; control blocks asked for go back, once memory has answered for them; the job is lost
when the head says so; the head chooses a step that every group can rebuild, or ends the restore; the end of a phase that belongs to another
choice of the head counts for nothing (log entries 80, 84, 85, 87 and 138). -/
def Obligations.BushelMessages : Prop :=
  ∀ (s : State) (b : Bushel) (rank : Nat), s.wf = true → s.onChain = true → s.bushel = some b →
    (∀ n pos k, (n = b.n ∧ k = b.stateBytes ∧ groupRank b pos = rank → exec (.bushelTransfer rank (.group n pos k)) s = .next s) ∧
      (¬ (n = b.n ∧ k = b.stateBytes ∧ groupRank b pos = rank) → ∃ t, exec (.bushelTransfer rank (.group n pos k)) s = .next t ∧
        t.fld snpStatusGroupMismatch 0 = 1 ∧ t.snp.mismatch = true ∧ t.snp.active = false ∧ s.keepsKinds t [.snpStatus, .mgtLogStatus] ∧
        s.keepsMemory t)) ∧
    (∀ st j off isQ d bad, s.admState = admRunning → s.snp.active = true → st = s.snp.step →
      let cell := dataCells b + (if isQ then 1 else 0)
      ((if isQ then 1 else 0, off) ∈ s.snp.pieces → exec (.bushelTransfer rank (.parity st j off isQ d bad)) s = .next s) ∧
      ((if isQ then 1 else 0, off) ∉ s.snp.pieces → off % 64 = 0 →
        ∃ t, exec (.bushelTransfer rank (.parity st j off isQ d bad)) s = .next t ∧ t.snp.pieces = (if isQ then 1 else 0, off) :: s.snp.pieces ∧
          t.mem = (s.coderWrite (s.cellAddr s.snp.slotB cell + off) d).mem ∧ t.toks = s.toks ∧ t.chain = s.chain ∧
          s.keepsOutside t ((List.range (d.length / 64)).map fun u => (s.cellAddr s.snp.slotB cell + off) / 64 + u))) ∧
    (∀ st j i off p q bad, s.admState = admRunning → s.snp.active = true → st = s.snp.step → stripeCell b j b.pos = i → i + 1 < dataCells b →
      let x := s.rawPiece s.snp.slotB i off
      ∃ t, exec (.bushelTransfer rank (.chain st j i off p q bad)) s = .next t ∧ t.regs = s.regs ∧ s.keepsMemory t ∧
        t.chain.sent = s.chain.sent ++ [.bushel (groupRank b (stripeHolder b j (i + 1)))
          (.chain st j (i + 1) off (xorBytes p x) (xorBytes q (gfScale (gfAlpha i) x)) [])]) ∧
    (∀ st, let found := if rank = b.source then s.mirrorCtl st else none
      (found = none → exec (.bushelTransfer rank (.askControl st)) s =
        .next { s with chain := { s.chain with sent := s.chain.sent ++ [.bushel rank (.control none)] } }) ∧
      (∀ a c, found = some (a, c) → c.step = st ∧ ∃ t, exec (.bushelTransfer rank (.askControl st)) s = .next t ∧ s.keepsMemory t ∧
        (.bushel rank (.control (some c)) ∈ t.chain.sent ∨
          ∃ k, (k, .bushel rank (.control (some c))) ∈ t.chain.answers ∧ t.answerOpen k = true))) ∧
    (∀ st n, s.mayRestore = true → ∃ t, exec (.bushelTransfer 0 (.phaseStart 9 st [] false n)) s = .next t ∧ t.fld snpStatusJobLost 0 = 1 ∧
      t.fld snpStatusPhase 0 = 0 ∧ (s.fld snpStatusJobLost 0 = 0 → t.fld mgtIrqPendRestore 0 = 1) ∧ t.admState = admHalted ∧ s.keepsMemory t) ∧
    (∀ phase ok round steps mirror, (s.flag mapChainIsHead 0 = false ∨ s.mayRestore = false ∨ s.chainSize ≤ rank ∨
          (phase ≠ 4 ∧ (phase ≠ s.snp.restore.phase ∨ round ≠ s.snp.restore.round)) →
        exec (.restorePhaseEnd rank phase ok round steps mirror) s = .next s) ∧
      (s.flag mapChainIsHead 0 = true → s.mayRestore = true → rank < s.chainSize →
        ((∃ k, k < s.chainSize ∧ k ≠ rank ∧ ∀ h ∈ s.snp.restore.heard, h.1 ≠ k) →
          ∃ t, exec (.restorePhaseEnd rank 4 ok round steps mirror) s = .next t ∧ t.chain = s.chain ∧ t.regs = s.regs ∧ s.keepsMemory t ∧
            (rank, steps, mirror) ∈ t.snp.restore.heard) ∧
        ((∀ k, k < s.chainSize → k = rank ∨ ∃ h ∈ s.snp.restore.heard, h.1 = k) →
          ∃ t, exec (.restorePhaseEnd rank 4 ok round steps mirror) s = .next t ∧ t.regs = s.regs ∧ s.keepsMemory t ∧
            ((∃ x e fb, t.chain.sent = s.chain.sent ++ [.bushelAll (.phaseStart 5 x e fb (s.snp.restore.round + 1))] ∧ groupsQualify b e = true ∧
                t.snp.restore.phase = 5 ∧ t.snp.restore.chosen = x ∧ x ∉ s.snp.restore.tried) ∨
              t.chain.sent = s.chain.sent ++ [.bushelAll (.phaseStart 9 0 [] false s.snp.restore.round)])) ∧
        (∀ p, phase = s.snp.restore.phase → round = s.snp.restore.round → p = phase + 1 → phase = 5 ∨ phase = 6 → ok = true →
          (∀ k, k < s.chainSize → k = rank ∨ k ∈ s.snp.restore.ends) →
          ∃ t, exec (.restorePhaseEnd rank phase ok round steps mirror) s = .next t ∧ t.snp.restore.phase = p ∧ t.snp.restore.ends = [] ∧
            t.chain.sent = s.chain.sent ++ [.bushelAll (.phaseStart p s.snp.restore.chosen s.snp.restore.erased false s.snp.restore.round)])))

/-! ## Number formats, identity -/

/-- Every code of F8A, F8B, G16, H16, B16 and S32 but the NaNs is what its own value rounds to, without overflow or underflow (Table 2.1, R49
to R52): decoding and encoding agree. -/
def Obligations.FormatsAgree : Prop :=
  ∀ c : Nat,
    (c < 256 → valIsNan (decodeF8A c) = false → encodeFloat fmtF8A (decodeF8A c) = ⟨c, false, false⟩) ∧
    (c < 256 → valIsNan (decodeF8B c) = false → encodeFloat fmtF8B (decodeF8B c) = ⟨c, false, false⟩) ∧
    (c < 65536 → valIsNan (decodeG16 c) = false → encodeFloat fmtG16 (decodeG16 c) = ⟨c, false, false⟩) ∧
    (c < 65536 → valIsNan (decodeH16 c) = false → encodeFloat fmtH16 (decodeH16 c) = ⟨c, false, false⟩) ∧
    (c < 65536 → valIsNan (decodeB16 c) = false → encodeFloat fmtB16 (decodeB16 c) = ⟨c, false, false⟩) ∧
    (c < 2 ^ 32 → valIsNan (decodeS32 c) = false → encodeFloat fmtS32 (decodeS32 c) = ⟨c, false, false⟩)

/-- R12: ID.CAP of an E64 reads 0x0000_0404_0420_C440, in every state. -/
def Obligations.CapabilitiesOfE64 : Prop :=
  ∀ s : State, s.conf = .e64 → s.read .idCap 0 = 0x000004040420C440

/-! ## The commands of power, security, debug and images complete -/

/-- Each command of power, reset, start-up, security, presence, debug and image control completes with its own effect, for every state and
operands in the conditions for its normal execution (R298, R302, R304 for images; R354, R356, R358, R361, R362, R380 for power and
start-up; R369 to R376, R381, R382, R389 for security; R383 to R386, R391 for debug): what the command sets stands in the next state. -/
def Obligations.SystemCommandsComplete : Prop :=
  (∀ (s : State) (src : Src), s.wf = true → s.accepts src .pwrCtrl 0 = true → s.pwr.trans = none → s.pwr.warm = false →
    s.flag secStateBusy 0 = false → s.mcHalted = false → s.fld pwrStatusState 0 = 0 →
    (s.admState ≠ admAdmitting → ∃ t, exec (.powerStateRequest 1 src) s = .next t ∧ t.fld pwrCtrlTarget 0 = 1 ∧ t.fld pwrStatusState 0 = 4 ∧
      t.pwr.trans = some 1) ∧
    (∀ n, n = 2 ∨ n = 3 → s.maySleep = true → ∃ t, exec (.powerStateRequest n src) s = .next t ∧ t.fld pwrCtrlTarget 0 = n ∧
      t.fld pwrStatusState 0 = 4 ∧ t.pwr.trans = some n)) ∧
  (∀ (s : State) (ok : Bool), s.wf = true → s.pwr.waiting = none →
    (s.pwr.trans = some 2 → s.maySleep = true → ∃ t, exec (.powerTransitionDone ok) s = .next t ∧ t.fld pwrStatusState 0 = 2 ∧ t.pwr.trans = none) ∧
    (s.pwr.trans = some 3 → s.maySleep = true → ∃ t, exec (.powerTransitionDone ok) s = .next t ∧ t.fld pwrStatusState 0 = 3 ∧ t.pwr.trans = none) ∧
    (s.pwr.trans = some 0 → s.pwr.fromState = 2 → ∃ t, exec (.powerTransitionDone ok) s = .next t ∧ t.fld pwrStatusState 0 = 0 ∧
      t.pwr.trans = none)) ∧
  (∀ (s : State) (w : WakeCause), s.wf = true → s.boot = .alive → s.power = 1 → s.pwr.waiting = none →
    (s.pwr.trans = some 0 ∨ (s.pwr.trans = none ∧ w ≠ .targetWrite)) →
    ∃ t, exec (.dozeWake w) s = .next t ∧ t.fld pwrStatusState 0 = 0 ∧ t.fld pwrStatusWakeSrc 0 = wakeSrc w ∧ t.pwr.trans = none) ∧
  (∀ (s : State) (src : Src) (feed : BitVec 4), s.wf = true →
    (s.accepts src .pwrReset 0 = true → ∃ t, exec (.coldReset false src) s = .next t ∧ t.boot = .rom ∧ t.fld pwrResetLast 0 = 1) ∧
    (s.aonRuns = true → ∃ t, exec (.coldReset true src) s = .next t ∧ t.boot = .coldHeld ∧ t.fld pwrResetLast 0 = 1) ∧
    (s.accepts src .pwrReset 0 = true → s.power ≤ 1 → ∃ t, exec (.warmReset src) s = .next t ∧ t.pwr.warm = true ∧ t.image = none ∧
      t.fld pwrResetLast 0 = 2) ∧
    (∃ t, exec .powerOnReset s = .next t ∧ t.boot = .porHeld ∧ t.image = none ∧ t.pending = s.pending) ∧
    exec .testReset s = .next { s with tap := {} } ∧
    (s.pwr.warm = true → s.pwr.waiting = none → ∃ t, exec .warmResetDone s = .next t ∧ t.pwr.warm = false ∧ t.fld pwrStatusState 0 = 0) ∧
    (s.accepts src .pwrReset 0 = true → s.flag mapRingRtmActive 0 = true →
      ∃ t, exec (.rtmRelease src) s = .next t ∧ t.flag mapRingRtmActive 0 = false) ∧
    (s.boot = .porHeld → ∃ t, exec (.porRelease feed) s = .next t ∧ t.boot = .rom ∧ t.fld idStrapFeedId 0 = feed.toNat) ∧
    (s.boot = .coldHeld → ∃ t, exec (.resetNRelease feed) s = .next t ∧ t.boot = .rom ∧ t.fld idStrapFeedId 0 = feed.toNat) ∧
    (s.boot = .rom → ∃ t, exec .firmwareVerifyEnd s = .next t ∧ t.boot = .firmware) ∧
    (s.boot = .firmware → ∃ t, exec .calibrationLoad s = .next t ∧ t.boot = .alive)) ∧
  (∀ (s : State) (src : Src) (arg : Nat), s.wf = true → s.accepts src .secCmd 0 = true → s.flag secStateBusy 0 = false →
    (s.security ≠ secLockdown → s.fld pwrStatusState 0 = 0 → s.admState = admUnloaded →
      ∃ t, exec (.install arg src) s = .next t ∧ t.flag secStateBusy 0 = true ∧ t.sec.cmd = some ⟨2, false, arg⟩) ∧
    (s.security ≠ secLockdown → ∃ t, exec (.lockdown src) s = .next t ∧ t.security = secLockdown) ∧
    (∃ t, exec (.feedStrict src) s = .next t ∧ t.flag secStateBusy 0 = true ∧ t.sec.cmd = some ⟨3, false, 0⟩) ∧
    (∃ t, exec (.calDiscard src) s = .next t ∧ t.fld secCmdstatCode 0 = 4 ∧ t.fld secCmdstatResult 0 = 1)) ∧
  (∀ (s : State) (src : Src) (arg : Nat), s.wf = true → s.accepts src .secPcmd 0 = true → s.flag secStatePresence 0 = true →
    s.flag secStateBusy 0 = false →
    (s.security = secOpen → ∃ t, exec (.seal src) s = .next t ∧ t.flag secStateBusy 0 = true ∧ t.fld secPcmdCode 0 = 1) ∧
    (s.security ≠ secOpen → ∃ t, exec (.unseal src) s = .next t ∧ t.flag secStateBusy 0 = true ∧ t.fld secPcmdCode 0 = 2) ∧
    (s.security ≠ secLockdown →
      (∃ t, exec (.calWrite src) s = .next t ∧ t.flag secStateBusy 0 = true ∧ t.fld secPcmdCode 0 = 3) ∧
      (∃ t, exec (.feedShare src) s = .next t ∧ t.flag secStateBusy 0 = true ∧ t.fld secPcmdCode 0 = 4) ∧
      (∃ t, exec (.rollback arg src) s = .next t ∧ t.flag secStateBusy 0 = true ∧ t.fld secPcmdCode 0 = 5))) ∧
  (∀ s : State, s.wf = true →
    (∀ arg, s.mcHalted = false → s.pwr.waiting = none → s.sec.cmd = some ⟨1, true, arg⟩ →
      ∃ t, exec .securityCommandEnd s = .next t ∧ t.security = secSealed ∧ t.flag secStateBusy 0 = false ∧ t.sec.cmd = none) ∧
    (∀ z, s.sec.zero = some z → ∃ t, exec .zeroiseDone s = .next t ∧ t.fld secStateZdone 0 = 1 ∧ t.sec.zero = none) ∧
    (s.aonRuns = true → ∃ t, exec .presenceAssert s = .next t ∧ t.fld secStatePresence 0 = 1) ∧
    (s.sec.cmd = none → ∃ t, exec .presenceRelease s = .next t ∧ t.fld secStatePresence 0 = 0) ∧
    (s.aonRuns = true → ∃ t, exec .tamper s = .next t ∧ t.fld secTamperSeen 0 = 1)) ∧
  (∀ (s : State) (src : Src), s.wf = true → s.accepts src .dbgCtrl 0 = true →
    (∀ l, l < 3 → l = 0 ∨ l < s.debugLevel ∨ s.security = secOpen → ∃ t, exec (.debugRequest l src) s = .next t ∧ t.debugLevel = l) ∧
    (s.debugLevel = 2 → ∃ t, exec (.mcHalt true src) s = .next t ∧ t.mcHalted = true) ∧
    (s.debugLevel = 2 → s.mcHalted = true → ∃ t, exec (.mcStep src) s = .next t ∧ t.mcState = Config.mcStep s.mcState) ∧
    (∀ op, op = .scan ∨ op = .extest ∨ op = .wrapper → s.security = secOpen → s.debugLevel = 2 → s.power = 0 → s.admState = admUnloaded →
      ∃ t, exec (.scan op) s = .next t ∧ t.fld dbgStatusScanned 0 = 1) ∧
    (s.boot ≠ .porHeld → exec (.scan .bypass) s = .next { s with tap := ⟨.bypass, 0⟩ } ∧
      exec (.scan .idcode) s = .next { s with tap := ⟨.idcode, s.idcode⟩ } ∧
      ∃ t, exec (.scan .sample) s = .next t ∧ t = { s with tap := t.tap, free := t.free } ∧ t.tap.instr = .sample)) ∧
  (∀ (s : State) (src : Src), s.wf = true → s.accepts src .cfgCtrl 0 = true →
    (s.admState = admUnloaded → s.flag dbgStatusScanned 0 = false → ∃ t, exec (.admit_ src) s = .next t ∧ t.admState = admAdmitting) ∧
    (s.admState = admLoaded ∨ s.admState = admHalted →
      (∃ t, exec (.dispatch src) s = .next t ∧ t.admState = admDispatching) ∧
      (∃ t, exec (.unload src) s = .next t ∧ t.admState = admUnloaded ∧ t.image = none))) ∧
  (∀ (s : State) (img : Image), s.wf = true → s.admState = admAdmitting → s.mcHalted = false → s.storeReads = false →
    128 ≤ img.bytes.length → min (headerOf img.bytes).bytes 268435456 ≤ img.bytes.length →
    s.region0Bytes (4096 * s.fld cfgImageOffset 0) img.bytes.length = img.bytes → s.admissionFails (readImage img) = [] →
    ∃ t, exec (.admissionEnd img) s = .next t ∧ t.admState = admLoaded ∧ t.image = some (readImage img))
end

