-- ==== Sys2Proof/Laws/Cells.lean ====
section
/-!
SUPPORT. Sys2Proof/Laws/Cells.lean: sparse data: a read after a write, and that every operation keeps the canonical form.
-/
namespace Sys2Proof.Machine

variable {α : Type}

/-- Every key of canonical data that starts above `lo` lies above `lo`. -/
theorem cellWfFrom_weaken [DecidableEq α] {d : Nat → α} {lo : Nat} {c : Cells α} (h : cellWfFrom d (some lo) c = true) :
    cellWfFrom d none c = true := by
  cases c with
  | nil => rfl
  | cons x t => simp_all [cellWfFrom]

theorem cellWfFrom_mono [DecidableEq α] {d : Nat → α} {a b : Nat} (hab : a ≤ b) {c : Cells α}
    (h : cellWfFrom d (some b) c = true) : cellWfFrom d (some a) c = true := by
  cases c with
  | nil => rfl
  | cons x t => simp_all [cellWfFrom]; omega

/-- Below the first key, canonical data reads as unlisted. -/
theorem cellGet_below [DecidableEq α] {d : Nat → α} {c : Cells α} {lo k : Nat} (h : cellWfFrom d (some lo) c = true)
    (hk : k ≤ lo) : cellGet d c k = d k := by
  cases c with
  | nil => rfl
  | cons x t =>
    simp only [cellWfFrom, Bool.and_eq_true, decide_eq_true_eq] at h
    have h1 : x.1 ≠ k := by omega
    have h2 : k < x.1 := by omega
    simp [cellGet, h1, h2]

theorem cellGet_insert_same (d : Nat → α) (k : Nat) (v : α) (c : Cells α) : cellGet d (cellInsert k v c) k = v := by
  induction c with
  | nil => simp [cellInsert, cellGet]
  | cons x t ih =>
    by_cases h1 : x.1 < k
    · have h2 : x.1 ≠ k := by omega
      have h3 : ¬ k < x.1 := by omega
      simp [cellInsert, cellGet, h1, h2, h3, ih]
    · by_cases h2 : x.1 = k <;> simp [cellInsert, cellGet, h1, h2]

theorem cellGet_insert_other [DecidableEq α] {d : Nat → α} {k j : Nat} (v : α) (hj : j ≠ k) {c : Cells α} {lo : Option Nat}
    (h : cellWfFrom d lo c = true) : cellGet d (cellInsert k v c) j = cellGet d c j := by
  induction c generalizing lo with
  | nil =>
    by_cases h1 : j < k <;> simp [cellInsert, cellGet, Ne.symm hj, h1]
  | cons x t ih =>
    have ht : cellWfFrom d (some x.1) t = true := by
      simp only [cellWfFrom, Bool.and_eq_true] at h; exact h.2
    by_cases h1 : x.1 < k
    · simp only [cellInsert, h1, if_true, cellGet]
      rw [ih ht]
    · by_cases h2 : x.1 = k
      · subst h2
        by_cases h3 : j < x.1
        · simp [cellInsert, cellGet, Ne.symm hj, h3]
        · simp [cellInsert, cellGet, Ne.symm hj, h3]
      · have h3 : k < x.1 := by omega
        by_cases h4 : j < k
        · have h5 : x.1 ≠ j := by omega
          have h6 : j < x.1 := by omega
          simp [cellInsert, cellGet, h1, h2, Ne.symm hj, h4, h5, h6]
        · simp [cellInsert, cellGet, h1, h2, Ne.symm hj, h4]

theorem cellGet_erase_same [DecidableEq α] {d : Nat → α} {k : Nat} {c : Cells α} {lo : Option Nat}
    (h : cellWfFrom d lo c = true) : cellGet d (cellErase k c) k = d k := by
  induction c generalizing lo with
  | nil => rfl
  | cons x t ih =>
    have ht : cellWfFrom d (some x.1) t = true := by
      simp only [cellWfFrom, Bool.and_eq_true] at h; exact h.2
    by_cases h1 : x.1 < k
    · have h2 : x.1 ≠ k := by omega
      have h3 : ¬ k < x.1 := by omega
      simp [cellErase, cellGet, h1, h2, h3, ih ht]
    · by_cases h2 : x.1 = k
      · subst h2
        simp only [cellErase, h1, if_false, if_true]
        exact cellGet_below ht (Nat.le_refl _)
      · have h3 : k < x.1 := by omega
        simp [cellErase, cellGet, h1, h2, h3]

theorem cellGet_erase_other [DecidableEq α] {d : Nat → α} {k j : Nat} (hj : j ≠ k) {c : Cells α} {lo : Option Nat}
    (h : cellWfFrom d lo c = true) : cellGet d (cellErase k c) j = cellGet d c j := by
  induction c generalizing lo with
  | nil => rfl
  | cons x t ih =>
    have ht : cellWfFrom d (some x.1) t = true := by
      simp only [cellWfFrom, Bool.and_eq_true] at h; exact h.2
    by_cases h1 : x.1 < k
    · simp only [cellErase, h1, if_true, cellGet]
      rw [ih ht]
    · by_cases h2 : x.1 = k
      · subst h2
        by_cases h3 : j < x.1
        · simp only [cellErase, h1, if_false, if_true, cellGet, Ne.symm hj, h3]
          exact cellGet_below ht (by omega)
        · simp [cellErase, cellGet, Ne.symm hj, h3]
      · simp [cellErase, h1, h2]

/-- A read after a write to the same key gives the value written. -/
theorem cellGet_set_same [DecidableEq α] {d : Nat → α} {c : Cells α} (h : cellWf d c = true) (k : Nat) (v : α) :
    cellGet d (cellSet d c k v) k = v := by
  by_cases hv : v = d k
  · simp only [cellSet, hv, if_true]; exact cellGet_erase_same h
  · simp only [cellSet, hv, if_false]; exact cellGet_insert_same d k v c

/-- A write leaves every other key alone. -/
theorem cellGet_set_other [DecidableEq α] {d : Nat → α} {c : Cells α} (h : cellWf d c = true) {k j : Nat} (v : α) (hj : j ≠ k) :
    cellGet d (cellSet d c k v) j = cellGet d c j := by
  by_cases hv : v = d k
  · simp only [cellSet, hv, if_true]; exact cellGet_erase_other hj h
  · simp only [cellSet, hv, if_false]; exact cellGet_insert_other v hj h

theorem cellInsert_wfFrom [DecidableEq α] {d : Nat → α} {k : Nat} {v : α} (hv : v ≠ d k) {c : Cells α} {lo : Option Nat}
    (hlo : ∀ b, lo = some b → b < k) (h : cellWfFrom d lo c = true) : cellWfFrom d lo (cellInsert k v c) = true := by
  induction c generalizing lo with
  | nil => cases lo <;> simp_all [cellInsert, cellWfFrom]
  | cons x t ih =>
    simp only [cellWfFrom, Bool.and_eq_true] at h
    obtain ⟨⟨h0, hx⟩, ht⟩ := h
    by_cases h1 : x.1 < k
    · simp only [cellInsert, h1, if_true, cellWfFrom, Bool.and_eq_true]
      exact ⟨⟨h0, hx⟩, ih (by intro b hb; cases hb; exact h1) ht⟩
    · by_cases h2 : x.1 = k
      · subst h2
        simp only [cellInsert, h1, if_false, if_true, cellWfFrom, Bool.and_eq_true]
        exact ⟨⟨h0, by simpa using hv⟩, ht⟩
      · have h3 : k < x.1 := by omega
        simp only [cellInsert, h1, h2, if_false, cellWfFrom, Bool.and_eq_true]
        refine ⟨⟨?_, by simpa using hv⟩, ⟨by simpa using h3, hx⟩, ht⟩
        cases lo with
        | none => rfl
        | some b => simpa using hlo b rfl

theorem cellErase_wfFrom [DecidableEq α] {d : Nat → α} {k : Nat} {c : Cells α} {lo : Option Nat}
    (h : cellWfFrom d lo c = true) : cellWfFrom d lo (cellErase k c) = true := by
  induction c generalizing lo with
  | nil => rfl
  | cons x t ih =>
    have h' := h
    simp only [cellWfFrom, Bool.and_eq_true] at h
    obtain ⟨⟨h0, hx⟩, ht⟩ := h
    by_cases h1 : x.1 < k
    · simp only [cellErase, h1, if_true, cellWfFrom, Bool.and_eq_true]
      exact ⟨⟨h0, hx⟩, ih ht⟩
    · by_cases h2 : x.1 = k
      · subst h2
        simp only [cellErase, h1, if_false, if_true]
        cases lo with
        | none => exact cellWfFrom_weaken ht
        | some b => exact cellWfFrom_mono (by have := of_decide_eq_true h0; omega) ht
      · simp only [cellErase, h1, h2, if_false]; exact h'

/-- A write keeps the canonical form. -/
@[simp] theorem cellSet_wf [DecidableEq α] {d : Nat → α} {c : Cells α} (h : cellWf d c = true) (k : Nat) (v : α) :
    cellWf d (cellSet d c k v) = true := by
  by_cases hv : v = d k
  · simp only [cellSet, hv, if_true]; exact cellErase_wfFrom h
  · simp only [cellSet, hv, if_false]; exact cellInsert_wfFrom hv (by intro b hb; cases hb) h

/-- Data without entries is canonical. -/
@[simp] theorem cellWf_nil [DecidableEq α] (d : Nat → α) : cellWf d [] = true := rfl

theorem cellWfFrom_filter [DecidableEq α] {d : Nat → α} (p : Nat × α → Bool) {c : Cells α} {lo : Option Nat}
    (h : cellWfFrom d lo c = true) : cellWfFrom d lo (c.filter p) = true := by
  induction c generalizing lo with
  | nil => rfl
  | cons x t ih =>
    simp only [cellWfFrom, Bool.and_eq_true] at h
    obtain ⟨⟨h0, hx⟩, ht⟩ := h
    have hlo : cellWfFrom d lo t = true := by
      cases lo with
      | none => exact cellWfFrom_weaken ht
      | some b => exact cellWfFrom_mono (by have := of_decide_eq_true h0; omega) ht
    cases hp : p x with
    | true =>
      simp only [List.filter_cons, hp, if_true, cellWfFrom, Bool.and_eq_true]
      exact ⟨⟨h0, hx⟩, ih ht⟩
    | false =>
      simp only [List.filter_cons, hp]
      exact ih hlo

/-- Dropping entries keeps the canonical form. -/
@[simp] theorem cellWf_filter [DecidableEq α] {d : Nat → α} (p : Nat × α → Bool) {c : Cells α} (h : cellWf d c = true) :
    cellWf d (c.filter p) = true := cellWfFrom_filter p h

/-- Storing bytes keeps the canonical form. -/
@[simp] theorem cellPut_wf {c : Cells Byte} (h : cellWf byteZero c = true) (k : Nat) (l : List Byte) :
    cellWf byteZero (cellPut c k l) = true := by
  exact List.foldlRecOn (motive := fun c => cellWf byteZero c = true) _ _ h fun _ ha _ _ => cellSet_wf ha _ _

/-- A fold of writes whose steps each keep a property keeps it. -/
theorem foldl_keeps {σ β : Type} (P : σ → Prop) (f : σ → β → σ) (hf : ∀ s b, P s → P (f s b)) (l : List β) {s : σ} (h : P s) :
    P (l.foldl f s) := List.foldlRecOn l f h fun a ha b _ => hf a b ha

/-- A fold whose steps each leave a part as it was leaves it as it was. -/
theorem foldl_same {σ β γ : Type} (g : σ → γ) (f : σ → β → σ) (hf : ∀ s b, g (f s b) = g s) (l : List β) (s : σ) :
    g (l.foldl f s) = g s := List.foldlRecOn (motive := fun a => g a = g s) l f rfl fun a ha b _ => (hf a b).trans ha

/-- Bytes outside a stored range keep their value. -/
theorem cellGet_put_other {c : Cells Byte} (h : cellWf byteZero c = true) {k j : Nat} {l : List Byte}
    (hj : j < k ∨ k + l.length ≤ j) : cellGet byteZero (cellPut c k l) j = cellGet byteZero c j := by
  unfold cellPut
  have hps : ∀ p ∈ l.zip (List.range l.length), p.2 < l.length := by
    intro p hp
    have := List.of_mem_zip hp
    simpa using this.2
  generalize l.zip (List.range l.length) = ps at hps
  induction ps generalizing c with
  | nil => rfl
  | cons p t ih =>
    have hp := hps p (by simp)
    have hne : j ≠ k + p.2 := by omega
    simp only [List.foldl_cons]
    rw [ih (cellSet_wf h _ _) (fun q hq => hps q (by simp [hq])), cellGet_set_other h _ hne]

/-- A byte of a stored range is the one stored. -/
theorem cellGet_put_in {c : Cells Byte} (h : cellWf byteZero c = true) {k j : Nat} {l : List Byte} (h1 : k ≤ j) (h2 : j < k + l.length) :
    cellGet byteZero (cellPut c k l) j = l.getD (j - k) 0 := by
  obtain ⟨i, rfl⟩ := Nat.exists_eq_add_of_le h1
  suffices ∀ (l : List Byte) (o : Nat) {c : Cells Byte}, cellWf byteZero c = true → ∀ i, i < l.length →
      cellGet byteZero ((l.zip (List.range' o l.length)).foldl (fun c p => cellSet byteZero c (k + p.2) p.1) c) (k + (o + i)) =
        l.getD i 0 by
    have := this l 0 h i (by omega)
    rw [Nat.zero_add, ← List.range_eq_range'] at this
    rw [Nat.add_sub_cancel_left]
    exact this
  intro l
  induction l with
  | nil => exact fun _ _ _ i hi => absurd hi (Nat.not_lt_zero i)
  | cons a l ih =>
    intro o c hc i hi
    simp only [List.length_cons, List.range'_succ, List.zip_cons_cons, List.foldl_cons]
    cases i with
    | succ i =>
      rw [show o + (i + 1) = o + 1 + i by omega, ih (o + 1) (cellSet_wf hc _ _) i (Nat.lt_of_succ_lt_succ hi)]
      rfl
    | zero =>
      have later : ∀ p ∈ l.zip (List.range' (o + 1) l.length), o < p.2 := by
        intro p hp
        have := (List.of_mem_zip hp).2
        simp only [List.mem_range'_1] at this
        omega
      refine (List.foldlRecOn (motive := fun d => cellWf byteZero d = true ∧ cellGet byteZero d (k + (o + 0)) = a) _ _
        ⟨cellSet_wf hc _ _, cellGet_set_same hc _ _⟩ fun d hd p hp => ⟨cellSet_wf hd.1 _ _, ?_⟩).2
      rw [cellGet_set_other hd.1 _ (by have := later p hp; omega)]
      exact hd.2

end Sys2Proof.Machine
end

