-- ==== Sys2Proof/Laws/State.lean ====
section
/-!
SUPPORT. Sys2Proof/Laws/State.lean: what the named updates of a state leave as it was: one lemma per field per update.
-/
namespace Sys2Proof.Machine

variable (s : State)


@[simp] theorem State.setWord_conf (k : RegKind) (u : Nat) (w : Word) : (s.setWord k u w).conf = s.conf := rfl
@[simp] theorem State.setWord_pending (k : RegKind) (u : Nat) (w : Word) : (s.setWord k u w).pending = s.pending := rfl
@[simp] theorem State.setWord_free (k : RegKind) (u : Nat) (w : Word) : (s.setWord k u w).free = s.free := rfl
@[simp] theorem State.setWord_boot (k : RegKind) (u : Nat) (w : Word) : (s.setWord k u w).boot = s.boot := rfl
@[simp] theorem State.setWord_cpRet (k : RegKind) (u : Nat) (w : Word) : (s.setWord k u w).cpRet = s.cpRet := rfl
@[simp] theorem State.setWord_slow (k : RegKind) (u : Nat) (w : Word) : (s.setWord k u w).slow = s.slow := rfl
@[simp] theorem State.setWord_tap (k : RegKind) (u : Nat) (w : Word) : (s.setWord k u w).tap = s.tap := rfl
@[simp] theorem State.setWord_pins (k : RegKind) (u : Nat) (w : Word) : (s.setWord k u w).pins = s.pins := rfl
@[simp] theorem State.setWord_log (k : RegKind) (u : Nat) (w : Word) : (s.setWord k u w).log = s.log := rfl
@[simp] theorem State.setWord_pwr (k : RegKind) (u : Nat) (w : Word) : (s.setWord k u w).pwr = s.pwr := rfl
@[simp] theorem State.setWord_sec (k : RegKind) (u : Nat) (w : Word) : (s.setWord k u w).sec = s.sec := rfl
@[simp] theorem State.setWord_mcState (k : RegKind) (u : Nat) (w : Word) : (s.setWord k u w).mcState = s.mcState := rfl
@[simp] theorem State.setWord_image (k : RegKind) (u : Nat) (w : Word) : (s.setWord k u w).image = s.image := rfl
@[simp] theorem State.setWord_imgBad (k : RegKind) (u : Nat) (w : Word) : (s.setWord k u w).imgBad = s.imgBad := rfl
@[simp] theorem State.setWord_pageCrc (k : RegKind) (u : Nat) (w : Word) : (s.setWord k u w).pageCrc = s.pageCrc := rfl
@[simp] theorem State.setWord_epoch (k : RegKind) (u : Nat) (w : Word) : (s.setWord k u w).epoch = s.epoch := rfl
@[simp] theorem State.setWord_probe (k : RegKind) (u : Nat) (w : Word) : (s.setWord k u w).probe = s.probe := rfl
@[simp] theorem State.setWord_ctxs (k : RegKind) (u : Nat) (w : Word) : (s.setWord k u w).ctxs = s.ctxs := rfl
@[simp] theorem State.setWord_toks (k : RegKind) (u : Nat) (w : Word) : (s.setWord k u w).toks = s.toks := rfl
@[simp] theorem State.setWord_held (k : RegKind) (u : Nat) (w : Word) : (s.setWord k u w).held = s.held := rfl
@[simp] theorem State.setWord_mbs (k : RegKind) (u : Nat) (w : Word) : (s.setWord k u w).mbs = s.mbs := rfl
@[simp] theorem State.setWord_sides (k : RegKind) (u : Nat) (w : Word) : (s.setWord k u w).sides = s.sides := rfl
@[simp] theorem State.setWord_tiles (k : RegKind) (u : Nat) (w : Word) : (s.setWord k u w).tiles = s.tiles := rfl
@[simp] theorem State.setWord_obuf (k : RegKind) (u : Nat) (w : Word) : (s.setWord k u w).obuf = s.obuf := rfl
@[simp] theorem State.setWord_keg (k : RegKind) (u : Nat) (w : Word) : (s.setWord k u w).keg = s.keg := rfl
@[simp] theorem State.setWord_ubuf (k : RegKind) (u : Nat) (w : Word) : (s.setWord k u w).ubuf = s.ubuf := rfl
@[simp] theorem State.setWord_bad (k : RegKind) (u : Nat) (w : Word) : (s.setWord k u w).bad = s.bad := rfl
@[simp] theorem State.setWord_mem (k : RegKind) (u : Nat) (w : Word) : (s.setWord k u w).mem = s.mem := rfl
@[simp] theorem State.setWord_sp (k : RegKind) (u : Nat) (w : Word) : (s.setWord k u w).sp = s.sp := rfl
@[simp] theorem State.setWord_movers (k : RegKind) (u : Nat) (w : Word) : (s.setWord k u w).movers = s.movers := rfl
@[simp] theorem State.setWord_trk (k : RegKind) (u : Nat) (w : Word) : (s.setWord k u w).trk = s.trk := rfl
@[simp] theorem State.setWord_fx (k : RegKind) (u : Nat) (w : Word) : (s.setWord k u w).fx = s.fx := rfl
@[simp] theorem State.setWord_upd (k : RegKind) (u : Nat) (w : Word) : (s.setWord k u w).upd = s.upd := rfl
@[simp] theorem State.setWord_chain (k : RegKind) (u : Nat) (w : Word) : (s.setWord k u w).chain = s.chain := rfl
@[simp] theorem State.setWord_fur (k : RegKind) (u : Nat) (w : Word) : (s.setWord k u w).fur = s.fur := rfl
@[simp] theorem State.setWord_snp (k : RegKind) (u : Nat) (w : Word) : (s.setWord k u w).snp = s.snp := rfl

@[simp] theorem State.setFld_conf (f : Fld) (u v : Nat) : (s.setFld f u v).conf = s.conf := rfl
@[simp] theorem State.setFld_pending (f : Fld) (u v : Nat) : (s.setFld f u v).pending = s.pending := rfl
@[simp] theorem State.setFld_free (f : Fld) (u v : Nat) : (s.setFld f u v).free = s.free := rfl
@[simp] theorem State.setFld_boot (f : Fld) (u v : Nat) : (s.setFld f u v).boot = s.boot := rfl
@[simp] theorem State.setFld_cpRet (f : Fld) (u v : Nat) : (s.setFld f u v).cpRet = s.cpRet := rfl
@[simp] theorem State.setFld_slow (f : Fld) (u v : Nat) : (s.setFld f u v).slow = s.slow := rfl
@[simp] theorem State.setFld_tap (f : Fld) (u v : Nat) : (s.setFld f u v).tap = s.tap := rfl
@[simp] theorem State.setFld_pins (f : Fld) (u v : Nat) : (s.setFld f u v).pins = s.pins := rfl
@[simp] theorem State.setFld_log (f : Fld) (u v : Nat) : (s.setFld f u v).log = s.log := rfl
@[simp] theorem State.setFld_pwr (f : Fld) (u v : Nat) : (s.setFld f u v).pwr = s.pwr := rfl
@[simp] theorem State.setFld_sec (f : Fld) (u v : Nat) : (s.setFld f u v).sec = s.sec := rfl
@[simp] theorem State.setFld_mcState (f : Fld) (u v : Nat) : (s.setFld f u v).mcState = s.mcState := rfl
@[simp] theorem State.setFld_image (f : Fld) (u v : Nat) : (s.setFld f u v).image = s.image := rfl
@[simp] theorem State.setFld_imgBad (f : Fld) (u v : Nat) : (s.setFld f u v).imgBad = s.imgBad := rfl
@[simp] theorem State.setFld_pageCrc (f : Fld) (u v : Nat) : (s.setFld f u v).pageCrc = s.pageCrc := rfl
@[simp] theorem State.setFld_epoch (f : Fld) (u v : Nat) : (s.setFld f u v).epoch = s.epoch := rfl
@[simp] theorem State.setFld_probe (f : Fld) (u v : Nat) : (s.setFld f u v).probe = s.probe := rfl
@[simp] theorem State.setFld_ctxs (f : Fld) (u v : Nat) : (s.setFld f u v).ctxs = s.ctxs := rfl
@[simp] theorem State.setFld_toks (f : Fld) (u v : Nat) : (s.setFld f u v).toks = s.toks := rfl
@[simp] theorem State.setFld_held (f : Fld) (u v : Nat) : (s.setFld f u v).held = s.held := rfl
@[simp] theorem State.setFld_mbs (f : Fld) (u v : Nat) : (s.setFld f u v).mbs = s.mbs := rfl
@[simp] theorem State.setFld_sides (f : Fld) (u v : Nat) : (s.setFld f u v).sides = s.sides := rfl
@[simp] theorem State.setFld_tiles (f : Fld) (u v : Nat) : (s.setFld f u v).tiles = s.tiles := rfl
@[simp] theorem State.setFld_obuf (f : Fld) (u v : Nat) : (s.setFld f u v).obuf = s.obuf := rfl
@[simp] theorem State.setFld_keg (f : Fld) (u v : Nat) : (s.setFld f u v).keg = s.keg := rfl
@[simp] theorem State.setFld_ubuf (f : Fld) (u v : Nat) : (s.setFld f u v).ubuf = s.ubuf := rfl
@[simp] theorem State.setFld_bad (f : Fld) (u v : Nat) : (s.setFld f u v).bad = s.bad := rfl
@[simp] theorem State.setFld_mem (f : Fld) (u v : Nat) : (s.setFld f u v).mem = s.mem := rfl
@[simp] theorem State.setFld_sp (f : Fld) (u v : Nat) : (s.setFld f u v).sp = s.sp := rfl
@[simp] theorem State.setFld_movers (f : Fld) (u v : Nat) : (s.setFld f u v).movers = s.movers := rfl
@[simp] theorem State.setFld_trk (f : Fld) (u v : Nat) : (s.setFld f u v).trk = s.trk := rfl
@[simp] theorem State.setFld_fx (f : Fld) (u v : Nat) : (s.setFld f u v).fx = s.fx := rfl
@[simp] theorem State.setFld_upd (f : Fld) (u v : Nat) : (s.setFld f u v).upd = s.upd := rfl
@[simp] theorem State.setFld_chain (f : Fld) (u v : Nat) : (s.setFld f u v).chain = s.chain := rfl
@[simp] theorem State.setFld_fur (f : Fld) (u v : Nat) : (s.setFld f u v).fur = s.fur := rfl
@[simp] theorem State.setFld_snp (f : Fld) (u v : Nat) : (s.setFld f u v).snp = s.snp := rfl

@[simp] theorem State.setFlag_conf (f : Fld) (u : Nat) (b : Bool) : (s.setFlag f u b).conf = s.conf := rfl
@[simp] theorem State.setFlag_pending (f : Fld) (u : Nat) (b : Bool) : (s.setFlag f u b).pending = s.pending := rfl
@[simp] theorem State.setFlag_free (f : Fld) (u : Nat) (b : Bool) : (s.setFlag f u b).free = s.free := rfl
@[simp] theorem State.setFlag_boot (f : Fld) (u : Nat) (b : Bool) : (s.setFlag f u b).boot = s.boot := rfl
@[simp] theorem State.setFlag_cpRet (f : Fld) (u : Nat) (b : Bool) : (s.setFlag f u b).cpRet = s.cpRet := rfl
@[simp] theorem State.setFlag_slow (f : Fld) (u : Nat) (b : Bool) : (s.setFlag f u b).slow = s.slow := rfl
@[simp] theorem State.setFlag_tap (f : Fld) (u : Nat) (b : Bool) : (s.setFlag f u b).tap = s.tap := rfl
@[simp] theorem State.setFlag_pins (f : Fld) (u : Nat) (b : Bool) : (s.setFlag f u b).pins = s.pins := rfl
@[simp] theorem State.setFlag_log (f : Fld) (u : Nat) (b : Bool) : (s.setFlag f u b).log = s.log := rfl
@[simp] theorem State.setFlag_pwr (f : Fld) (u : Nat) (b : Bool) : (s.setFlag f u b).pwr = s.pwr := rfl
@[simp] theorem State.setFlag_sec (f : Fld) (u : Nat) (b : Bool) : (s.setFlag f u b).sec = s.sec := rfl
@[simp] theorem State.setFlag_mcState (f : Fld) (u : Nat) (b : Bool) : (s.setFlag f u b).mcState = s.mcState := rfl
@[simp] theorem State.setFlag_image (f : Fld) (u : Nat) (b : Bool) : (s.setFlag f u b).image = s.image := rfl
@[simp] theorem State.setFlag_imgBad (f : Fld) (u : Nat) (b : Bool) : (s.setFlag f u b).imgBad = s.imgBad := rfl
@[simp] theorem State.setFlag_pageCrc (f : Fld) (u : Nat) (b : Bool) : (s.setFlag f u b).pageCrc = s.pageCrc := rfl
@[simp] theorem State.setFlag_epoch (f : Fld) (u : Nat) (b : Bool) : (s.setFlag f u b).epoch = s.epoch := rfl
@[simp] theorem State.setFlag_probe (f : Fld) (u : Nat) (b : Bool) : (s.setFlag f u b).probe = s.probe := rfl
@[simp] theorem State.setFlag_ctxs (f : Fld) (u : Nat) (b : Bool) : (s.setFlag f u b).ctxs = s.ctxs := rfl
@[simp] theorem State.setFlag_toks (f : Fld) (u : Nat) (b : Bool) : (s.setFlag f u b).toks = s.toks := rfl
@[simp] theorem State.setFlag_held (f : Fld) (u : Nat) (b : Bool) : (s.setFlag f u b).held = s.held := rfl
@[simp] theorem State.setFlag_mbs (f : Fld) (u : Nat) (b : Bool) : (s.setFlag f u b).mbs = s.mbs := rfl
@[simp] theorem State.setFlag_sides (f : Fld) (u : Nat) (b : Bool) : (s.setFlag f u b).sides = s.sides := rfl
@[simp] theorem State.setFlag_tiles (f : Fld) (u : Nat) (b : Bool) : (s.setFlag f u b).tiles = s.tiles := rfl
@[simp] theorem State.setFlag_obuf (f : Fld) (u : Nat) (b : Bool) : (s.setFlag f u b).obuf = s.obuf := rfl
@[simp] theorem State.setFlag_keg (f : Fld) (u : Nat) (b : Bool) : (s.setFlag f u b).keg = s.keg := rfl
@[simp] theorem State.setFlag_ubuf (f : Fld) (u : Nat) (b : Bool) : (s.setFlag f u b).ubuf = s.ubuf := rfl
@[simp] theorem State.setFlag_bad (f : Fld) (u : Nat) (b : Bool) : (s.setFlag f u b).bad = s.bad := rfl
@[simp] theorem State.setFlag_mem (f : Fld) (u : Nat) (b : Bool) : (s.setFlag f u b).mem = s.mem := rfl
@[simp] theorem State.setFlag_sp (f : Fld) (u : Nat) (b : Bool) : (s.setFlag f u b).sp = s.sp := rfl
@[simp] theorem State.setFlag_movers (f : Fld) (u : Nat) (b : Bool) : (s.setFlag f u b).movers = s.movers := rfl
@[simp] theorem State.setFlag_trk (f : Fld) (u : Nat) (b : Bool) : (s.setFlag f u b).trk = s.trk := rfl
@[simp] theorem State.setFlag_fx (f : Fld) (u : Nat) (b : Bool) : (s.setFlag f u b).fx = s.fx := rfl
@[simp] theorem State.setFlag_upd (f : Fld) (u : Nat) (b : Bool) : (s.setFlag f u b).upd = s.upd := rfl
@[simp] theorem State.setFlag_chain (f : Fld) (u : Nat) (b : Bool) : (s.setFlag f u b).chain = s.chain := rfl
@[simp] theorem State.setFlag_fur (f : Fld) (u : Nat) (b : Bool) : (s.setFlag f u b).fur = s.fur := rfl
@[simp] theorem State.setFlag_snp (f : Fld) (u : Nat) (b : Bool) : (s.setFlag f u b).snp = s.snp := rfl

@[simp] theorem State.bump_conf (f : Fld) (u n : Nat) : (s.bump f u n).conf = s.conf := rfl
@[simp] theorem State.bump_pending (f : Fld) (u n : Nat) : (s.bump f u n).pending = s.pending := rfl
@[simp] theorem State.bump_free (f : Fld) (u n : Nat) : (s.bump f u n).free = s.free := rfl
@[simp] theorem State.bump_boot (f : Fld) (u n : Nat) : (s.bump f u n).boot = s.boot := rfl
@[simp] theorem State.bump_cpRet (f : Fld) (u n : Nat) : (s.bump f u n).cpRet = s.cpRet := rfl
@[simp] theorem State.bump_slow (f : Fld) (u n : Nat) : (s.bump f u n).slow = s.slow := rfl
@[simp] theorem State.bump_tap (f : Fld) (u n : Nat) : (s.bump f u n).tap = s.tap := rfl
@[simp] theorem State.bump_pins (f : Fld) (u n : Nat) : (s.bump f u n).pins = s.pins := rfl
@[simp] theorem State.bump_log (f : Fld) (u n : Nat) : (s.bump f u n).log = s.log := rfl
@[simp] theorem State.bump_pwr (f : Fld) (u n : Nat) : (s.bump f u n).pwr = s.pwr := rfl
@[simp] theorem State.bump_sec (f : Fld) (u n : Nat) : (s.bump f u n).sec = s.sec := rfl
@[simp] theorem State.bump_mcState (f : Fld) (u n : Nat) : (s.bump f u n).mcState = s.mcState := rfl
@[simp] theorem State.bump_image (f : Fld) (u n : Nat) : (s.bump f u n).image = s.image := rfl
@[simp] theorem State.bump_imgBad (f : Fld) (u n : Nat) : (s.bump f u n).imgBad = s.imgBad := rfl
@[simp] theorem State.bump_pageCrc (f : Fld) (u n : Nat) : (s.bump f u n).pageCrc = s.pageCrc := rfl
@[simp] theorem State.bump_epoch (f : Fld) (u n : Nat) : (s.bump f u n).epoch = s.epoch := rfl
@[simp] theorem State.bump_probe (f : Fld) (u n : Nat) : (s.bump f u n).probe = s.probe := rfl
@[simp] theorem State.bump_ctxs (f : Fld) (u n : Nat) : (s.bump f u n).ctxs = s.ctxs := rfl
@[simp] theorem State.bump_toks (f : Fld) (u n : Nat) : (s.bump f u n).toks = s.toks := rfl
@[simp] theorem State.bump_held (f : Fld) (u n : Nat) : (s.bump f u n).held = s.held := rfl
@[simp] theorem State.bump_mbs (f : Fld) (u n : Nat) : (s.bump f u n).mbs = s.mbs := rfl
@[simp] theorem State.bump_sides (f : Fld) (u n : Nat) : (s.bump f u n).sides = s.sides := rfl
@[simp] theorem State.bump_tiles (f : Fld) (u n : Nat) : (s.bump f u n).tiles = s.tiles := rfl
@[simp] theorem State.bump_obuf (f : Fld) (u n : Nat) : (s.bump f u n).obuf = s.obuf := rfl
@[simp] theorem State.bump_keg (f : Fld) (u n : Nat) : (s.bump f u n).keg = s.keg := rfl
@[simp] theorem State.bump_ubuf (f : Fld) (u n : Nat) : (s.bump f u n).ubuf = s.ubuf := rfl
@[simp] theorem State.bump_bad (f : Fld) (u n : Nat) : (s.bump f u n).bad = s.bad := rfl
@[simp] theorem State.bump_mem (f : Fld) (u n : Nat) : (s.bump f u n).mem = s.mem := rfl
@[simp] theorem State.bump_sp (f : Fld) (u n : Nat) : (s.bump f u n).sp = s.sp := rfl
@[simp] theorem State.bump_movers (f : Fld) (u n : Nat) : (s.bump f u n).movers = s.movers := rfl
@[simp] theorem State.bump_trk (f : Fld) (u n : Nat) : (s.bump f u n).trk = s.trk := rfl
@[simp] theorem State.bump_fx (f : Fld) (u n : Nat) : (s.bump f u n).fx = s.fx := rfl
@[simp] theorem State.bump_upd (f : Fld) (u n : Nat) : (s.bump f u n).upd = s.upd := rfl
@[simp] theorem State.bump_chain (f : Fld) (u n : Nat) : (s.bump f u n).chain = s.chain := rfl
@[simp] theorem State.bump_fur (f : Fld) (u n : Nat) : (s.bump f u n).fur = s.fur := rfl
@[simp] theorem State.bump_snp (f : Fld) (u n : Nat) : (s.bump f u n).snp = s.snp := rfl

@[simp] theorem State.irq_conf (f : Fld) : (s.irq f).conf = s.conf := rfl
@[simp] theorem State.irq_pending (f : Fld) : (s.irq f).pending = s.pending := rfl
@[simp] theorem State.irq_free (f : Fld) : (s.irq f).free = s.free := rfl
@[simp] theorem State.irq_boot (f : Fld) : (s.irq f).boot = s.boot := rfl
@[simp] theorem State.irq_cpRet (f : Fld) : (s.irq f).cpRet = s.cpRet := rfl
@[simp] theorem State.irq_slow (f : Fld) : (s.irq f).slow = s.slow := rfl
@[simp] theorem State.irq_tap (f : Fld) : (s.irq f).tap = s.tap := rfl
@[simp] theorem State.irq_pins (f : Fld) : (s.irq f).pins = s.pins := rfl
@[simp] theorem State.irq_log (f : Fld) : (s.irq f).log = s.log := rfl
@[simp] theorem State.irq_pwr (f : Fld) : (s.irq f).pwr = s.pwr := rfl
@[simp] theorem State.irq_sec (f : Fld) : (s.irq f).sec = s.sec := rfl
@[simp] theorem State.irq_mcState (f : Fld) : (s.irq f).mcState = s.mcState := rfl
@[simp] theorem State.irq_image (f : Fld) : (s.irq f).image = s.image := rfl
@[simp] theorem State.irq_imgBad (f : Fld) : (s.irq f).imgBad = s.imgBad := rfl
@[simp] theorem State.irq_pageCrc (f : Fld) : (s.irq f).pageCrc = s.pageCrc := rfl
@[simp] theorem State.irq_epoch (f : Fld) : (s.irq f).epoch = s.epoch := rfl
@[simp] theorem State.irq_probe (f : Fld) : (s.irq f).probe = s.probe := rfl
@[simp] theorem State.irq_ctxs (f : Fld) : (s.irq f).ctxs = s.ctxs := rfl
@[simp] theorem State.irq_toks (f : Fld) : (s.irq f).toks = s.toks := rfl
@[simp] theorem State.irq_held (f : Fld) : (s.irq f).held = s.held := rfl
@[simp] theorem State.irq_mbs (f : Fld) : (s.irq f).mbs = s.mbs := rfl
@[simp] theorem State.irq_sides (f : Fld) : (s.irq f).sides = s.sides := rfl
@[simp] theorem State.irq_tiles (f : Fld) : (s.irq f).tiles = s.tiles := rfl
@[simp] theorem State.irq_obuf (f : Fld) : (s.irq f).obuf = s.obuf := rfl
@[simp] theorem State.irq_keg (f : Fld) : (s.irq f).keg = s.keg := rfl
@[simp] theorem State.irq_ubuf (f : Fld) : (s.irq f).ubuf = s.ubuf := rfl
@[simp] theorem State.irq_bad (f : Fld) : (s.irq f).bad = s.bad := rfl
@[simp] theorem State.irq_mem (f : Fld) : (s.irq f).mem = s.mem := rfl
@[simp] theorem State.irq_sp (f : Fld) : (s.irq f).sp = s.sp := rfl
@[simp] theorem State.irq_movers (f : Fld) : (s.irq f).movers = s.movers := rfl
@[simp] theorem State.irq_trk (f : Fld) : (s.irq f).trk = s.trk := rfl
@[simp] theorem State.irq_fx (f : Fld) : (s.irq f).fx = s.fx := rfl
@[simp] theorem State.irq_upd (f : Fld) : (s.irq f).upd = s.upd := rfl
@[simp] theorem State.irq_chain (f : Fld) : (s.irq f).chain = s.chain := rfl
@[simp] theorem State.irq_fur (f : Fld) : (s.irq f).fur = s.fur := rfl
@[simp] theorem State.irq_snp (f : Fld) : (s.irq f).snp = s.snp := rfl

/-- A count changes its register. -/
theorem State.bump_frame (f : Fld) (u n : Nat) : s.bump f u n = { s with regs := (s.bump f u n).regs } := rfl

/-- An event changes the log, and the count of dropped events. -/
theorem State.logSide_frame (c b u d a : Nat) :
    s.logSide c b u d a = { s with regs := (s.logSide c b u d a).regs, log := (s.logSide c b u d a).log } := by
  have hb : s.bump mgtLogStatusDropped 0 1 =
    { s with regs := (s.bump mgtLogStatusDropped 0 1).regs, log := s.log } :=
    s.bump_frame mgtLogStatusDropped 0 1
  unfold State.logSide
  cases s.logRepeats c b u d
  · rw [if_neg (by decide)]
    by_cases h : 32 ≤ s.log.queue.length
    · rw [if_pos h, State.bump_log]; exact hb
    · rw [if_neg h]
  · rw [if_pos rfl]

@[simp] theorem State.logSide_conf (c b u d a : Nat) : (s.logSide c b u d a).conf = s.conf :=
  (congrArg State.conf (s.logSide_frame c b u d a)).trans rfl
@[simp] theorem State.logSide_pending (c b u d a : Nat) : (s.logSide c b u d a).pending = s.pending :=
  (congrArg State.pending (s.logSide_frame c b u d a)).trans rfl
@[simp] theorem State.logSide_free (c b u d a : Nat) : (s.logSide c b u d a).free = s.free :=
  (congrArg State.free (s.logSide_frame c b u d a)).trans rfl
@[simp] theorem State.logSide_boot (c b u d a : Nat) : (s.logSide c b u d a).boot = s.boot :=
  (congrArg State.boot (s.logSide_frame c b u d a)).trans rfl
@[simp] theorem State.logSide_cpRet (c b u d a : Nat) : (s.logSide c b u d a).cpRet = s.cpRet :=
  (congrArg State.cpRet (s.logSide_frame c b u d a)).trans rfl
@[simp] theorem State.logSide_slow (c b u d a : Nat) : (s.logSide c b u d a).slow = s.slow :=
  (congrArg State.slow (s.logSide_frame c b u d a)).trans rfl
@[simp] theorem State.logSide_tap (c b u d a : Nat) : (s.logSide c b u d a).tap = s.tap :=
  (congrArg State.tap (s.logSide_frame c b u d a)).trans rfl
@[simp] theorem State.logSide_pins (c b u d a : Nat) : (s.logSide c b u d a).pins = s.pins :=
  (congrArg State.pins (s.logSide_frame c b u d a)).trans rfl
@[simp] theorem State.logSide_pwr (c b u d a : Nat) : (s.logSide c b u d a).pwr = s.pwr :=
  (congrArg State.pwr (s.logSide_frame c b u d a)).trans rfl
@[simp] theorem State.logSide_sec (c b u d a : Nat) : (s.logSide c b u d a).sec = s.sec :=
  (congrArg State.sec (s.logSide_frame c b u d a)).trans rfl
@[simp] theorem State.logSide_mcState (c b u d a : Nat) : (s.logSide c b u d a).mcState = s.mcState :=
  (congrArg State.mcState (s.logSide_frame c b u d a)).trans rfl
@[simp] theorem State.logSide_image (c b u d a : Nat) : (s.logSide c b u d a).image = s.image :=
  (congrArg State.image (s.logSide_frame c b u d a)).trans rfl
@[simp] theorem State.logSide_imgBad (c b u d a : Nat) : (s.logSide c b u d a).imgBad = s.imgBad :=
  (congrArg State.imgBad (s.logSide_frame c b u d a)).trans rfl
@[simp] theorem State.logSide_pageCrc (c b u d a : Nat) : (s.logSide c b u d a).pageCrc = s.pageCrc :=
  (congrArg State.pageCrc (s.logSide_frame c b u d a)).trans rfl
@[simp] theorem State.logSide_epoch (c b u d a : Nat) : (s.logSide c b u d a).epoch = s.epoch :=
  (congrArg State.epoch (s.logSide_frame c b u d a)).trans rfl
@[simp] theorem State.logSide_probe (c b u d a : Nat) : (s.logSide c b u d a).probe = s.probe :=
  (congrArg State.probe (s.logSide_frame c b u d a)).trans rfl
@[simp] theorem State.logSide_ctxs (c b u d a : Nat) : (s.logSide c b u d a).ctxs = s.ctxs :=
  (congrArg State.ctxs (s.logSide_frame c b u d a)).trans rfl
@[simp] theorem State.logSide_toks (c b u d a : Nat) : (s.logSide c b u d a).toks = s.toks :=
  (congrArg State.toks (s.logSide_frame c b u d a)).trans rfl
@[simp] theorem State.logSide_held (c b u d a : Nat) : (s.logSide c b u d a).held = s.held :=
  (congrArg State.held (s.logSide_frame c b u d a)).trans rfl
@[simp] theorem State.logSide_mbs (c b u d a : Nat) : (s.logSide c b u d a).mbs = s.mbs :=
  (congrArg State.mbs (s.logSide_frame c b u d a)).trans rfl
@[simp] theorem State.logSide_sides (c b u d a : Nat) : (s.logSide c b u d a).sides = s.sides :=
  (congrArg State.sides (s.logSide_frame c b u d a)).trans rfl
@[simp] theorem State.logSide_tiles (c b u d a : Nat) : (s.logSide c b u d a).tiles = s.tiles :=
  (congrArg State.tiles (s.logSide_frame c b u d a)).trans rfl
@[simp] theorem State.logSide_obuf (c b u d a : Nat) : (s.logSide c b u d a).obuf = s.obuf :=
  (congrArg State.obuf (s.logSide_frame c b u d a)).trans rfl
@[simp] theorem State.logSide_keg (c b u d a : Nat) : (s.logSide c b u d a).keg = s.keg :=
  (congrArg State.keg (s.logSide_frame c b u d a)).trans rfl
@[simp] theorem State.logSide_ubuf (c b u d a : Nat) : (s.logSide c b u d a).ubuf = s.ubuf :=
  (congrArg State.ubuf (s.logSide_frame c b u d a)).trans rfl
@[simp] theorem State.logSide_bad (c b u d a : Nat) : (s.logSide c b u d a).bad = s.bad :=
  (congrArg State.bad (s.logSide_frame c b u d a)).trans rfl
@[simp] theorem State.logSide_mem (c b u d a : Nat) : (s.logSide c b u d a).mem = s.mem :=
  (congrArg State.mem (s.logSide_frame c b u d a)).trans rfl
@[simp] theorem State.logSide_sp (c b u d a : Nat) : (s.logSide c b u d a).sp = s.sp :=
  (congrArg State.sp (s.logSide_frame c b u d a)).trans rfl
@[simp] theorem State.logSide_movers (c b u d a : Nat) : (s.logSide c b u d a).movers = s.movers :=
  (congrArg State.movers (s.logSide_frame c b u d a)).trans rfl
@[simp] theorem State.logSide_trk (c b u d a : Nat) : (s.logSide c b u d a).trk = s.trk :=
  (congrArg State.trk (s.logSide_frame c b u d a)).trans rfl
@[simp] theorem State.logSide_fx (c b u d a : Nat) : (s.logSide c b u d a).fx = s.fx :=
  (congrArg State.fx (s.logSide_frame c b u d a)).trans rfl
@[simp] theorem State.logSide_upd (c b u d a : Nat) : (s.logSide c b u d a).upd = s.upd :=
  (congrArg State.upd (s.logSide_frame c b u d a)).trans rfl
@[simp] theorem State.logSide_chain (c b u d a : Nat) : (s.logSide c b u d a).chain = s.chain :=
  (congrArg State.chain (s.logSide_frame c b u d a)).trans rfl
@[simp] theorem State.logSide_fur (c b u d a : Nat) : (s.logSide c b u d a).fur = s.fur :=
  (congrArg State.fur (s.logSide_frame c b u d a)).trans rfl
@[simp] theorem State.logSide_snp (c b u d a : Nat) : (s.logSide c b u d a).snp = s.snp :=
  (congrArg State.snp (s.logSide_frame c b u d a)).trans rfl
@[simp] theorem State.logEv_conf (c b u a : Nat) : (s.logEv c b u a).conf = s.conf :=
  s.logSide_conf c b u 0 a
@[simp] theorem State.logEv_pending (c b u a : Nat) : (s.logEv c b u a).pending = s.pending :=
  s.logSide_pending c b u 0 a
@[simp] theorem State.logEv_free (c b u a : Nat) : (s.logEv c b u a).free = s.free :=
  s.logSide_free c b u 0 a
@[simp] theorem State.logEv_boot (c b u a : Nat) : (s.logEv c b u a).boot = s.boot :=
  s.logSide_boot c b u 0 a
@[simp] theorem State.logEv_cpRet (c b u a : Nat) : (s.logEv c b u a).cpRet = s.cpRet :=
  s.logSide_cpRet c b u 0 a
@[simp] theorem State.logEv_slow (c b u a : Nat) : (s.logEv c b u a).slow = s.slow :=
  s.logSide_slow c b u 0 a
@[simp] theorem State.logEv_tap (c b u a : Nat) : (s.logEv c b u a).tap = s.tap :=
  s.logSide_tap c b u 0 a
@[simp] theorem State.logEv_pins (c b u a : Nat) : (s.logEv c b u a).pins = s.pins :=
  s.logSide_pins c b u 0 a
@[simp] theorem State.logEv_pwr (c b u a : Nat) : (s.logEv c b u a).pwr = s.pwr :=
  s.logSide_pwr c b u 0 a
@[simp] theorem State.logEv_sec (c b u a : Nat) : (s.logEv c b u a).sec = s.sec :=
  s.logSide_sec c b u 0 a
@[simp] theorem State.logEv_mcState (c b u a : Nat) : (s.logEv c b u a).mcState = s.mcState :=
  s.logSide_mcState c b u 0 a
@[simp] theorem State.logEv_image (c b u a : Nat) : (s.logEv c b u a).image = s.image :=
  s.logSide_image c b u 0 a
@[simp] theorem State.logEv_imgBad (c b u a : Nat) : (s.logEv c b u a).imgBad = s.imgBad :=
  s.logSide_imgBad c b u 0 a
@[simp] theorem State.logEv_pageCrc (c b u a : Nat) : (s.logEv c b u a).pageCrc = s.pageCrc :=
  s.logSide_pageCrc c b u 0 a
@[simp] theorem State.logEv_epoch (c b u a : Nat) : (s.logEv c b u a).epoch = s.epoch :=
  s.logSide_epoch c b u 0 a
@[simp] theorem State.logEv_probe (c b u a : Nat) : (s.logEv c b u a).probe = s.probe :=
  s.logSide_probe c b u 0 a
@[simp] theorem State.logEv_ctxs (c b u a : Nat) : (s.logEv c b u a).ctxs = s.ctxs :=
  s.logSide_ctxs c b u 0 a
@[simp] theorem State.logEv_toks (c b u a : Nat) : (s.logEv c b u a).toks = s.toks :=
  s.logSide_toks c b u 0 a
@[simp] theorem State.logEv_held (c b u a : Nat) : (s.logEv c b u a).held = s.held :=
  s.logSide_held c b u 0 a
@[simp] theorem State.logEv_mbs (c b u a : Nat) : (s.logEv c b u a).mbs = s.mbs :=
  s.logSide_mbs c b u 0 a
@[simp] theorem State.logEv_sides (c b u a : Nat) : (s.logEv c b u a).sides = s.sides :=
  s.logSide_sides c b u 0 a
@[simp] theorem State.logEv_tiles (c b u a : Nat) : (s.logEv c b u a).tiles = s.tiles :=
  s.logSide_tiles c b u 0 a
@[simp] theorem State.logEv_obuf (c b u a : Nat) : (s.logEv c b u a).obuf = s.obuf :=
  s.logSide_obuf c b u 0 a
@[simp] theorem State.logEv_keg (c b u a : Nat) : (s.logEv c b u a).keg = s.keg :=
  s.logSide_keg c b u 0 a
@[simp] theorem State.logEv_ubuf (c b u a : Nat) : (s.logEv c b u a).ubuf = s.ubuf :=
  s.logSide_ubuf c b u 0 a
@[simp] theorem State.logEv_bad (c b u a : Nat) : (s.logEv c b u a).bad = s.bad :=
  s.logSide_bad c b u 0 a
@[simp] theorem State.logEv_mem (c b u a : Nat) : (s.logEv c b u a).mem = s.mem :=
  s.logSide_mem c b u 0 a
@[simp] theorem State.logEv_sp (c b u a : Nat) : (s.logEv c b u a).sp = s.sp :=
  s.logSide_sp c b u 0 a
@[simp] theorem State.logEv_movers (c b u a : Nat) : (s.logEv c b u a).movers = s.movers :=
  s.logSide_movers c b u 0 a
@[simp] theorem State.logEv_trk (c b u a : Nat) : (s.logEv c b u a).trk = s.trk :=
  s.logSide_trk c b u 0 a
@[simp] theorem State.logEv_fx (c b u a : Nat) : (s.logEv c b u a).fx = s.fx :=
  s.logSide_fx c b u 0 a
@[simp] theorem State.logEv_upd (c b u a : Nat) : (s.logEv c b u a).upd = s.upd :=
  s.logSide_upd c b u 0 a
@[simp] theorem State.logEv_chain (c b u a : Nat) : (s.logEv c b u a).chain = s.chain :=
  s.logSide_chain c b u 0 a
@[simp] theorem State.logEv_fur (c b u a : Nat) : (s.logEv c b u a).fur = s.fur :=
  s.logSide_fur c b u 0 a
@[simp] theorem State.logEv_snp (c b u a : Nat) : (s.logEv c b u a).snp = s.snp :=
  s.logSide_snp c b u 0 a

end Sys2Proof.Machine
end

