-- ==== Sys2Proof/Laws/Regs.lean ====
section
/-!
SUPPORT. Sys2Proof/Laws/Regs.lean: register words and fields: what a read gives after a write of the same field, of another field of the
register, or of another register.
-/
namespace Sys2Proof.Machine

/-! ## Fields of a word -/

theorem fldMask_bit (f : Fld) (i : Nat) :
    (fldMask f).getLsbD i = (decide (i < 64) && decide (f.lo ≤ i) && decide (i - f.lo < f.width)) := by
  unfold fldMask
  rw [BitVec.getLsbD_ofNat, Nat.testBit_mul_two_pow, Nat.testBit_two_pow_sub_one, Bool.and_assoc]

theorem fldGet_bit (f : Fld) (w : Word) (i : Nat) :
    (fldGet f w).testBit i = (decide (i < f.width) && w.getLsbD (f.lo + i)) := by
  unfold fldGet
  rw [Nat.testBit_mod_two_pow, Nat.testBit_div_two_pow, BitVec.testBit_toNat, Nat.add_comm]

theorem fldPut_bit (f : Fld) (v : Nat) (w : Word) (i : Nat) (hi : i < 64) :
    (fldPut f v w).getLsbD i = if f.lo ≤ i ∧ i - f.lo < f.width then v.testBit (i - f.lo) else w.getLsbD i := by
  unfold fldPut
  rw [BitVec.getLsbD_or, BitVec.getLsbD_and, BitVec.getLsbD_and, BitVec.getLsbD_not, fldMask_bit, BitVec.getLsbD_ofNat,
    Nat.testBit_mul_two_pow]
  by_cases h1 : f.lo ≤ i <;> by_cases h2 : i - f.lo < f.width <;> simp [hi, h1, h2]

/-- A field reads what was put into it, cut to its width. -/
theorem fldGet_put_same (f : Fld) (h : f.lo + f.width ≤ 64) (v : Nat) (w : Word) : fldGet f (fldPut f v w) = v % 2 ^ f.width := by
  apply Nat.eq_of_testBit_eq
  intro i
  rw [fldGet_bit, Nat.testBit_mod_two_pow]
  by_cases hi : i < f.width
  · rw [fldPut_bit f v w _ (by omega)]
    simp [hi]
  · simp [hi]

/-- A field keeps its value when a field that shares no bit with it is put. -/
theorem fldGet_put_other (f g : Fld) (hg : g.lo + g.width ≤ 64) (h : g.lo + g.width ≤ f.lo ∨ f.lo + f.width ≤ g.lo) (v : Nat)
    (w : Word) : fldGet g (fldPut f v w) = fldGet g w := by
  apply Nat.eq_of_testBit_eq
  intro i
  rw [fldGet_bit, fldGet_bit]
  by_cases hi : i < g.width
  · rw [fldPut_bit f v w _ (by omega), if_neg (by omega)]
  · simp [hi]

/-- A field lies below 2 to its width. -/
theorem fldGet_lt (f : Fld) (w : Word) : fldGet f w < 2 ^ f.width := Nat.mod_lt _ (Nat.two_pow_pos _)

/-! ## Register words -/

theorem RegKind.ctorIdx_inj {j k : RegKind} (h : j.ctorIdx = k.ctorIdx) : j = k := by
  have : RegKind.ofNat j.ctorIdx = RegKind.ofNat k.ctorIdx := by rw [h]
  rwa [RegKind.ofNat_ctorIdx, RegKind.ofNat_ctorIdx] at this

/-- Registers of different kinds or units have different keys. -/
theorem regKey_inj {j k : RegKind} {t u : Nat} (h : regKey j t = regKey k u) : j = k ∧ t % 1024 = u % 1024 := by
  unfold regKey at h
  have h1 : j.ctorIdx = k.ctorIdx := by omega
  exact ⟨RegKind.ctorIdx_inj h1, by omega⟩

/-- The canonical form, part by part: attached memory, Keg, operand buffers, update buffers, register words, token counts. -/
theorem State.wf_iff {s : State} : s.wf = true ↔ Memory.wf s.mem = true ∧ Memory.wf s.keg = true ∧ Memory.wf s.obuf = true ∧
    Memory.wf s.ubuf = true ∧ cellWf regDefault s.regs = true ∧ cellWf (fun _ => 0) s.toks = true := by
  simp only [State.wf, Bool.and_eq_true, and_assoc]

/-- The register words stand in canonical form. -/
theorem State.wf_regs {s : State} (h : s.wf = true) : cellWf regDefault s.regs = true := (State.wf_iff.1 h).2.2.2.2.1

theorem State.word_setWord_same {s : State} (h : cellWf regDefault s.regs = true) (k : RegKind) (u : Nat) (w : Word) :
    (s.setWord k u w).word k u = w := cellGet_set_same h _ _

theorem State.word_setWord_other {s : State} (h : cellWf regDefault s.regs = true) {j k : RegKind} {t u : Nat} (ht : t < 1024)
    (hu : u < 1024) (hne : ¬ (j = k ∧ t = u)) (w : Word) : (s.setWord k u w).word j t = s.word j t :=
  cellGet_set_other h _ fun hk => hne ⟨(regKey_inj hk).1, by have := (regKey_inj hk).2; omega⟩

/-- A word of another kind of register keeps its value whatever the units. -/
theorem State.word_setWord_kind {s : State} (h : cellWf regDefault s.regs = true) {j k : RegKind} (hne : j ≠ k) (t u : Nat) (w : Word) :
    (s.setWord k u w).word j t = s.word j t :=
  cellGet_set_other h _ fun hk => hne (regKey_inj hk).1

/-- The engine's write of a field, read back. -/
theorem State.fld_setFld_same {s : State} (h : cellWf regDefault s.regs = true) (f : Fld) (hf : f.lo + f.width ≤ 64) (u v : Nat) :
    (s.setFld f u v).fld f u = v % 2 ^ f.width := by
  unfold State.setFld State.fld
  rw [State.word_setWord_same h, fldGet_put_same f hf]

/-- A field of another register, or one that shares no bit, keeps its value. -/
theorem State.fld_setFld_other {s : State} (h : cellWf regDefault s.regs = true) {f g : Fld} {t u : Nat} (hg : g.lo + g.width ≤ 64)
    (ht : t < 1024) (hu : u < 1024)
    (hne : ¬ (g.kind = f.kind ∧ t = u) ∨ g.lo + g.width ≤ f.lo ∨ f.lo + f.width ≤ g.lo) (v : Nat) :
    (s.setFld f u v).fld g t = s.fld g t := by
  unfold State.setFld State.fld
  by_cases hk : g.kind = f.kind ∧ t = u
  · obtain ⟨hk1, hk2⟩ := hk
    subst hk2
    rw [hk1, State.word_setWord_same h]
    have h2 : g.lo + g.width ≤ f.lo ∨ f.lo + f.width ≤ g.lo := hne.resolve_left (fun hh => hh ⟨hk1, rfl⟩)
    exact fldGet_put_other f g hg h2 v _
  · rw [State.word_setWord_other h ht hu hk]

/-- A word of another register keeps its value when a field is written. -/
theorem State.word_setFld_other {s : State} (h : cellWf regDefault s.regs = true) {f : Fld} {j : RegKind} {t u : Nat} (ht : t < 1024)
    (hu : u < 1024) (hne : ¬ (j = f.kind ∧ t = u)) (v : Nat) : (s.setFld f u v).word j t = s.word j t :=
  State.word_setWord_other h ht hu hne _

/-- A field of another kind of register keeps its value whatever the units. -/
theorem State.fld_setFld_kind {s : State} (h : cellWf regDefault s.regs = true) {f g : Fld} (hne : g.kind ≠ f.kind) (t u v : Nat) :
    (s.setFld f u v).fld g t = s.fld g t := by
  unfold State.setFld State.fld
  rw [State.word_setWord_kind h hne]

/-- A field that shares no bit keeps its value whatever the units. -/
theorem State.fld_setFld_apart {s : State} (h : cellWf regDefault s.regs = true) {f g : Fld} (hg : g.lo + g.width ≤ 64)
    (hne : g.lo + g.width ≤ f.lo ∨ f.lo + f.width ≤ g.lo) (t u v : Nat) : (s.setFld f u v).fld g t = s.fld g t := by
  unfold State.setFld State.fld
  by_cases hk : regKey g.kind t = regKey f.kind u
  · have e1 : (s.setWord f.kind u (fldPut f v (s.word f.kind u))).word g.kind t = fldPut f v (s.word f.kind u) := by
      unfold State.word
      rw [hk]
      exact cellGet_set_same h _ _
    have e2 : s.word g.kind t = s.word f.kind u := by unfold State.word; rw [hk]
    rw [e1, e2]
    exact fldGet_put_other f g hg hne v _
  · have e1 : (s.setWord f.kind u (fldPut f v (s.word f.kind u))).word g.kind t = s.word g.kind t := cellGet_set_other h _ hk
    rw [e1]

/-- A field lies below 2 to its width. -/
theorem State.fld_lt (s : State) (f : Fld) (u : Nat) : s.fld f u < 2 ^ f.width := fldGet_lt _ _

/-- A state's field reads its register words alone. -/
theorem State.fld_congr {s t : State} (h : t.regs = s.regs) (f : Fld) (u : Nat) : t.fld f u = s.fld f u := by
  unfold State.fld State.word; rw [h]

/-! ## The register map -/

/-- Whether two fields of one register share no bit. -/
def fldApart (f g : Fld) : Bool := decide (g.lo + g.width ≤ f.lo) || decide (f.lo + f.width ≤ g.lo)

/-- Each table's fields belong to its register, end within 64 bits and share no bit. -/
def fieldTableOk (k : RegKind) : Bool :=
  (regFields k).all (fun f => f.kind == k && decide (f.lo + f.width ≤ 64)) &&
    (regFields k).all fun f => (regFields k).all fun g => f == g || fldApart f g

theorem fieldTables_ok (k : RegKind) : fieldTableOk k = true := by cases k <;> decide

theorem regFields_kind {k : RegKind} {f : Fld} (h : f ∈ regFields k) : f.kind = k := by
  have := fieldTables_ok k
  simp only [fieldTableOk, Bool.and_eq_true, List.all_eq_true, beq_iff_eq] at this
  exact (this.1 f h).1

theorem regFields_width {k : RegKind} {f : Fld} (h : f ∈ regFields k) : f.lo + f.width ≤ 64 := by
  have := fieldTables_ok k
  simp only [fieldTableOk, Bool.and_eq_true, List.all_eq_true, decide_eq_true_eq] at this
  exact (this.1 f h).2

theorem regFields_apart {k : RegKind} {f g : Fld} (hf : f ∈ regFields k) (hg : g ∈ regFields k) (hne : f ≠ g) :
    g.lo + g.width ≤ f.lo ∨ f.lo + f.width ≤ g.lo := by
  have := fieldTables_ok k
  simp only [fieldTableOk, Bool.and_eq_true, List.all_eq_true, Bool.or_eq_true, beq_iff_eq, fldApart, decide_eq_true_eq] at this
  exact (this.2 f hf g hg).resolve_left hne

/-- A field of the map keeps its value when another field of the map, or the same of another unit, is written. -/
theorem State.fld_setFld_map {s : State} (h : cellWf regDefault s.regs = true) {j k : RegKind} {f g : Fld} (hf : f ∈ regFields j)
    (hg : g ∈ regFields k) {t u : Nat} (ht : t < 1024) (hu : u < 1024) (hne : (g, t) ≠ (f, u)) (v : Nat) :
    (s.setFld f u v).fld g t = s.fld g t := by
  refine State.fld_setFld_other h (regFields_width hg) ht hu ?_ v
  by_cases hk : g.kind = f.kind ∧ t = u
  · right
    have hjk : j = k := by rw [← regFields_kind hf, ← regFields_kind hg, hk.1]
    subst hjk
    exact regFields_apart hf hg (fun hfg => hne (by rw [hfg, hk.2]))
  · exact Or.inl hk

/-! ## The canonical form -/

@[simp] theorem State.setWord_regs_wf {s : State} (h : cellWf regDefault s.regs = true) (k : RegKind) (u : Nat) (w : Word) :
    cellWf regDefault (s.setWord k u w).regs = true := cellSet_wf h _ _

@[simp] theorem State.setFld_regs_wf {s : State} (h : cellWf regDefault s.regs = true) (f : Fld) (u v : Nat) :
    cellWf regDefault (s.setFld f u v).regs = true := cellSet_wf h _ _

@[simp] theorem State.setFlag_regs_wf {s : State} (h : cellWf regDefault s.regs = true) (f : Fld) (u : Nat) (b : Bool) :
    cellWf regDefault (s.setFlag f u b).regs = true := cellSet_wf h _ _

@[simp] theorem State.bump_regs_wf {s : State} (h : cellWf regDefault s.regs = true) (f : Fld) (u n : Nat) :
    cellWf regDefault (s.bump f u n).regs = true := cellSet_wf h _ _

@[simp] theorem State.irq_regs_wf {s : State} (h : cellWf regDefault s.regs = true) (f : Fld) :
    cellWf regDefault (s.irq f).regs = true := cellSet_wf h _ _

@[simp] theorem State.logSide_regs_wf {s : State} (h : cellWf regDefault s.regs = true) (c b u d a : Nat) :
    cellWf regDefault (s.logSide c b u d a).regs = true := by
  unfold State.logSide
  cases s.logRepeats c b u d
  · rw [if_neg (by decide)]
    by_cases hq : 32 ≤ s.log.queue.length
    · rw [if_pos hq]; exact State.bump_regs_wf h _ _ _
    · rw [if_neg hq]; exact h
  · rw [if_pos rfl]; exact h

@[simp] theorem State.logEv_regs_wf {s : State} (h : cellWf regDefault s.regs = true) (c b u a : Nat) :
    cellWf regDefault (s.logEv c b u a).regs = true := State.logSide_regs_wf h c b u 0 a

/-- A state whose sparse parts are those of another is canonical when it is. -/
theorem State.wf_congr {s t : State} (h : s.wf = true) (h1 : t.mem = s.mem) (h2 : t.keg = s.keg) (h3 : t.obuf = s.obuf)
    (h4 : t.ubuf = s.ubuf) (h5 : t.toks = s.toks) (h6 : cellWf regDefault t.regs = true) : t.wf = true := by
  have p := State.wf_iff.1 h
  rw [State.wf_iff, h1, h2, h3, h4, h5]
  exact ⟨p.1, p.2.1, p.2.2.1, p.2.2.2.1, h6, p.2.2.2.2.2⟩

@[simp] theorem State.setWord_wf {s : State} (h : s.wf = true) (k : RegKind) (u : Nat) (w : Word) : (s.setWord k u w).wf = true :=
  State.wf_congr h rfl rfl rfl rfl rfl (State.setWord_regs_wf (State.wf_regs h) k u w)

@[simp] theorem State.setFld_wf {s : State} (h : s.wf = true) (f : Fld) (u v : Nat) : (s.setFld f u v).wf = true :=
  State.setWord_wf h _ _ _

@[simp] theorem State.setFlag_wf {s : State} (h : s.wf = true) (f : Fld) (u : Nat) (b : Bool) : (s.setFlag f u b).wf = true :=
  State.setFld_wf h _ _ _

@[simp] theorem State.bump_wf {s : State} (h : s.wf = true) (f : Fld) (u n : Nat) : (s.bump f u n).wf = true :=
  State.setFld_wf h _ _ _

@[simp] theorem State.irq_wf {s : State} (h : s.wf = true) (f : Fld) : (s.irq f).wf = true := State.setFld_wf h _ _ _

@[simp] theorem State.logSide_wf {s : State} (h : s.wf = true) (c b u d a : Nat) : (s.logSide c b u d a).wf = true :=
  State.wf_congr h (by simp) (by simp) (by simp) (by simp) (by simp) (State.logSide_regs_wf (State.wf_regs h) c b u d a)

@[simp] theorem State.logEv_wf {s : State} (h : s.wf = true) (c b u a : Nat) : (s.logEv c b u a).wf = true :=
  State.logSide_wf h c b u 0 a

/-- The state at power-on reset is canonical. -/
theorem State.reset_wf : State.reset.wf = true := rfl

end Sys2Proof.Machine
end

