-- ==== Sys2Proof/Laws/Frames.lean ====
section
/-!
SUPPORT. Sys2Proof/Laws/Frames.lean: what the shared operations leave as it was: fields, parts of the state, memory; and the gate of
register writes.
-/
namespace Sys2Proof.Machine

/-! ## The gate -/

/-- A write that is accepted has its effect. -/
theorem State.gate_accepts {s : State} {src : Src} {k : RegKind} {u : Nat} (h : s.accepts src k u = true) (f : State → State) :
    s.gate src k u f = f s := by
  unfold State.accepts at h
  simp only [Bool.and_eq_true, Bool.or_eq_true, decide_eq_true_eq, beq_iff_eq, Bool.not_eq_true'] at h
  obtain ⟨⟨⟨⟨h1, h2⟩, h3⟩, h4⟩, h5⟩ := h
  unfold State.gate
  have e1 : (!s.alive) = false := by simp [h1]
  have e2 : (src == Src.tap && decide (s.debugLevel < 2) && k != RegKind.dbgCtrl) = false := by
    rcases h2 with (h2 | h2) | h2
    · subst h2; rfl
    · have : ¬ s.debugLevel < 2 := by omega
      simp [this]
    · subst h2; simp
  have e4 : (decide (2 ≤ s.power) && !regAon k) = false := by
    rcases h4 with h4 | h4
    · have : ¬ 2 ≤ s.power := by omega
      simp [this]
    · simp [h4]
  have e5 : ((decide (s.security = secLockdown) || s.flag secStateZpend 0) &&
      !(regBlock k == 11 || regBlock k == 12 || regBlock k == 14)) = false := by
    rcases h5 with ((h5 | h5) | h5) | h5
    · rw [h5]; rfl
    · simp [h5]
    · simp [h5]
    · simp [h5]
  simp only [e1, e2, h3, e4, e5, Bool.false_eq_true, if_false]

/-! ## Fields kept -/

theorem State.keepsFields_refl (s : State) (l : List (Fld × Nat)) : s.keepsFields s l := fun _ _ _ _ _ _ => rfl

/-- The register words of a state are those of another: so are its fields. -/
theorem State.keepsFields_of_regs {s t : State} (h : t.regs = s.regs) (l : List (Fld × Nat)) : s.keepsFields t l :=
  fun _ f _ u _ _ => State.fld_congr h f u

theorem State.keepsFields_trans {r s t : State} {l : List (Fld × Nat)} (h1 : r.keepsFields s l) (h2 : s.keepsFields t l) :
    r.keepsFields t l := fun k f hf u hu hn => (h2 k f hf u hu hn).trans (h1 k f hf u hu hn)

theorem State.keepsFields_mono {s t : State} {l m : List (Fld × Nat)} (h : s.keepsFields t l) (hl : ∀ x ∈ l, x ∈ m) :
    s.keepsFields t m := fun k f hf u hu hn => h k f hf u hu fun hx => hn (hl _ hx)

/-- The engine's write of a field of the map keeps every field but it. -/
theorem State.keepsFields_setFld {s : State} (h : cellWf regDefault s.regs = true) {k : RegKind} {f : Fld} (hf : f ∈ regFields k)
    {u : Nat} (hu : u < 1024) (v : Nat) {l : List (Fld × Nat)} (hl : (f, u) ∈ l) : s.keepsFields (s.setFld f u v) l :=
  fun _ _ hg _ ht hn => State.fld_setFld_map h hf hg ht hu (fun he => hn (he ▸ hl)) v

/-- A write of a whole register keeps every field of the others. -/
theorem State.keepsFields_setWord {s : State} (h : cellWf regDefault s.regs = true) (k : RegKind) {u : Nat} (hu : u < 1024) (w : Word)
    {l : List (Fld × Nat)} (hl : ∀ f ∈ regFields k, (f, u) ∈ l) : s.keepsFields (s.setWord k u w) l := by
  intro j g hg t ht hn
  unfold State.fld
  by_cases hk : g.kind = k ∧ t = u
  · obtain ⟨hk1, rfl⟩ := hk
    have hj : j = k := (regFields_kind hg).symm.trans hk1
    subst hj
    exact absurd (hl g hg) hn
  · rw [State.word_setWord_other h ht hu hk]

/-! ## Parts kept -/

theorem State.onlyRegs_setFld (s : State) (f : Fld) (u v : Nat) : s.onlyRegs (s.setFld f u v) := rfl

theorem State.onlyRegs_refl (s : State) : s.onlyRegs s := rfl

theorem State.onlyRegs_trans {r s t : State} (h1 : r.onlyRegs s) (h2 : s.onlyRegs t) : r.onlyRegs t := by
  unfold State.onlyRegs at *
  rw [h2, h1]

theorem State.onlyRegs_keepsMemory {s t : State} (h : s.onlyRegs t) : s.keepsMemory t := by
  unfold State.onlyRegs at h
  rw [h]
  exact ⟨rfl, rfl, rfl, rfl, rfl⟩

theorem State.onlyRegsLog_of_onlyRegs {s t : State} (h : s.onlyRegs t) : s.onlyRegsLog t := by
  unfold State.onlyRegs at h
  unfold State.onlyRegsLog
  rw [h]

theorem State.onlyRegsLog_trans {r s t : State} (h1 : r.onlyRegsLog s) (h2 : s.onlyRegsLog t) : r.onlyRegsLog t := by
  unfold State.onlyRegsLog at *
  rw [h2, h1]

theorem State.onlyRegsLog_logSide (s : State) (c b u d a : Nat) : s.onlyRegsLog (s.logSide c b u d a) := s.logSide_frame c b u d a

theorem State.onlyRegsLog_logEv (s : State) (c b u a : Nat) : s.onlyRegsLog (s.logEv c b u a) := s.logSide_frame c b u 0 a

theorem State.onlyRegsLog_keepsMemory {s t : State} (h : s.onlyRegsLog t) : s.keepsMemory t := by
  unfold State.onlyRegsLog at h
  rw [h]
  exact ⟨rfl, rfl, rfl, rfl, rfl⟩

/-- An event keeps every field but the count of dropped events. -/
theorem State.keepsFields_logSide {s : State} (h : cellWf regDefault s.regs = true) (c b u d a : Nat) {l : List (Fld × Nat)}
    (hl : (mgtLogStatusDropped, 0) ∈ l) : s.keepsFields (s.logSide c b u d a) l := by
  unfold State.logSide
  cases s.logRepeats c b u d
  · rw [if_neg (by decide)]
    by_cases hq : 32 ≤ s.log.queue.length
    · rw [if_pos hq]
      exact State.keepsFields_setFld h (k := .mgtLogStatus) (by decide) (by decide) _ hl
    · rw [if_neg hq]
      exact State.keepsFields_of_regs rfl l
  · rw [if_pos rfl]
    exact State.keepsFields_of_regs rfl l

end Sys2Proof.Machine
end

