-- ==== Sys2Proof/Laws/Links.lean ====
section
/-!
SUPPORT. Sys2Proof/Laws/Links.lean: the control bits of a Furlong frame: replacing a field leaves the others, and a sealed frame has
its CRC.
-/
namespace Sys2Proof.Laws
open Sys2Proof.Machine

/-- Bit j of control bits in which a field of n bits at lo is replaced. -/
theorem putBits_bit (c : BitVec 160) (lo n v j : Nat) (h : lo + n ≤ 160) :
    (putBits c lo n v).getLsbD j = if lo ≤ j ∧ j < lo + n then v.testBit (j - lo) else c.getLsbD j := by
  simp only [putBits, BitVec.getLsbD_or, BitVec.getLsbD_and, BitVec.getLsbD_not, BitVec.getLsbD_ofNat, Nat.testBit_mul_two_pow,
    Nat.testBit_two_pow_sub_one, Nat.testBit_mod_two_pow]
  by_cases hj : j < 160
  · by_cases h1 : lo ≤ j
    · by_cases h2 : j < lo + n
      · have : j - lo < n := by omega
        simp [hj, h1, h2, this]
      · have : ¬ j - lo < n := by omega
        simp [hj, h1, h2, this]
    · simp [hj, h1]
  · have hc : c.getLsbD j = false := BitVec.getLsbD_of_ge c j (by omega)
    have h2 : ¬ (lo ≤ j ∧ j < lo + n) := by omega
    simp [hj, hc, h2]

/-- A field as it was put. -/
theorem bitsOf_putBits (c : BitVec 160) (lo n v : Nat) (h : lo + n ≤ 160) : bitsOf (putBits c lo n v) lo n = v % 2 ^ n := by
  apply Nat.eq_of_testBit_eq
  intro j
  simp only [bitsOf, Nat.testBit_mod_two_pow, Nat.testBit_div_two_pow]
  by_cases hj : j < n
  · have := putBits_bit c lo n v (j + lo) h
    simp only [BitVec.getLsbD] at this
    rw [this, if_pos (by omega)]
    simp [hj]
  · simp [hj]

/-- A field apart from the one put. -/
theorem bitsOf_putBits_ne (c : BitVec 160) (lo n v a k : Nat) (h : lo + n ≤ 160) (d : a + k ≤ lo ∨ lo + n ≤ a) :
    bitsOf (putBits c lo n v) a k = bitsOf c a k := by
  apply Nat.eq_of_testBit_eq
  intro j
  simp only [bitsOf, Nat.testBit_mod_two_pow, Nat.testBit_div_two_pow]
  by_cases hj : j < k
  · have := putBits_bit c lo n v (j + a) h
    simp only [BitVec.getLsbD] at this
    rw [this, if_neg (by omega)]
  · simp [hj]

/-- CRC-32 has 32 bits. -/
theorem frameCrc_lt (c : BitVec 160) (d : List Byte) : frameCrc c d < 2 ^ 32 := by
  unfold frameCrc crc32
  exact BitVec.isLt _

/-- The CRC does not cover its own field. -/
theorem frameCrc_putBits (c : BitVec 160) (v : Nat) (d : List Byte) : frameCrc (putBits c 128 32 v) d = frameCrc c d := by
  have h := bitsOf_putBits_ne c 128 32 v 0 128 (by omega) (by omega)
  simp only [bitsOf, Nat.pow_zero, Nat.div_one] at h
  simp only [frameCrc, h]

/-- Without symbols in error no codeword is uncorrectable, and none is corrected. -/
theorem fecUncorrectable_clean (light : Bool) (c : BitVec 160) (d : List Byte) : fecUncorrectable light ⟨c, d, []⟩ = 0 := by
  simp [fecUncorrectable, fecErrors]

theorem fecCorrected_clean (light : Bool) (c : BitVec 160) (d : List Byte) : fecCorrected light ⟨c, d, []⟩ = 0 := by
  cases light <;> rfl

/-- A sealed frame does not fail (R248). -/
@[simp] theorem frFailed_sealFrame (light : Bool) (c : BitVec 160) (d : List Byte) : frFailed light (sealFrame c d) = false := by
  have h := bitsOf_putBits c 128 32 (frameCrc c d) (by omega)
  have l := frameCrc_lt c d
  have u := fecUncorrectable_clean light (putBits c 128 32 (frameCrc c d)) d
  simp only [frFailed, frCrc, sealFrame, frameCrc_putBits, h, Nat.mod_eq_of_lt l, u]
  simp

end Sys2Proof.Laws
end

