-- ==== Sys2Proof/Laws/Memory.lean ====
section
/-!
SUPPORT. Sys2Proof/Laws/Memory.lean: the memory operations: each keeps the canonical form, and what each can change at all.
-/
namespace Sys2Proof.Machine

/-! ## Relations that folds carry -/

/-- A relation that a chain of operations carries from its first state to its last: reflexive and transitive. -/
def Carried {σ : Type} (R : σ → σ → Prop) : Prop := (∀ s, R s s) ∧ ∀ {a b c}, R a b → R b c → R a c

/-- By way of a named state. -/
theorem Carried.via {σ : Type} {R : σ → σ → Prop} (h : Carried R) {a c : σ} (b : σ) (h1 : R a b) (h2 : R b c) : R a c := h.2 h1 h2

/-- A fold satisfies what each of its steps satisfies. -/
theorem Carried.foldl {σ β : Type} {R : σ → σ → Prop} (h : Carried R) {f : σ → β → σ} (hf : ∀ s b, R s (f s b)) (l : List β) (s : σ) :
    R s (l.foldl f s) := List.foldlRecOn (motive := R s) l f (h.1 s) fun _ ha b _ => h.2 ha (hf _ b)

theorem State.onlyRegs_carried : Carried State.onlyRegs := ⟨State.onlyRegs_refl, State.onlyRegs_trans⟩

theorem State.onlyRegsLog_carried : Carried State.onlyRegsLog := ⟨fun _ => rfl, State.onlyRegsLog_trans⟩

/-- Nothing but the sparse memories and the poison of SRAM words differs. -/
def State.onlyMemory (s t : State) : Prop := t = { s with mem := t.mem, keg := t.keg, obuf := t.obuf, ubuf := t.ubuf, bad := t.bad }

/-- Nothing but the requests of the stack ports differs. -/
def State.onlyRequests (s t : State) : Prop := t = { s with sp := t.sp }

/-- Nothing but memories, requests, register words and the event log differs: all that an access can do. -/
def State.onlyAccess (s t : State) : Prop :=
  t = { s with
    regs := t.regs
    log := t.log
    sp := t.sp
    mem := t.mem
    keg := t.keg
    obuf := t.obuf
    ubuf := t.ubuf
    bad := t.bad }

theorem State.onlyMemory_carried : Carried State.onlyMemory :=
  ⟨fun _ => rfl, fun h1 h2 => by unfold State.onlyMemory at *; rw [h2, h1]⟩

theorem State.onlyRequests_carried : Carried State.onlyRequests :=
  ⟨fun _ => rfl, fun h1 h2 => by unfold State.onlyRequests at *; rw [h2, h1]⟩

theorem State.onlyAccess_carried : Carried State.onlyAccess :=
  ⟨fun _ => rfl, fun h1 h2 => by unfold State.onlyAccess at *; rw [h2, h1]⟩

theorem State.onlyAccess_of_memory {s t : State} (h : s.onlyMemory t) : s.onlyAccess t := by
  unfold State.onlyMemory at h
  unfold State.onlyAccess
  rw [h]

theorem State.onlyAccess_of_requests {s t : State} (h : s.onlyRequests t) : s.onlyAccess t := by
  unfold State.onlyRequests at h
  unfold State.onlyAccess
  rw [h]

theorem State.onlyAccess_of_regsLog {s t : State} (h : s.onlyRegsLog t) : s.onlyAccess t := by
  unfold State.onlyRegsLog at h
  unfold State.onlyAccess
  rw [h]

/-! ## The canonical form -/

/-- A change of memories alone keeps the canonical form when each of them keeps its own. -/
theorem State.onlyMemory_wf {s t : State} (e : s.onlyMemory t) (h : s.wf = true) (h1 : Memory.wf t.mem = true)
    (h2 : Memory.wf t.keg = true) (h3 : Memory.wf t.obuf = true) (h4 : Memory.wf t.ubuf = true) : t.wf = true := by
  have p := (State.wf_iff.1 h).2.2.2.2
  unfold State.onlyMemory at e
  exact State.wf_iff.2 ⟨h1, h2, h3, h4, by rw [e]; exact p.1, by rw [e]; exact p.2⟩

/-- A change of attached memory alone. -/
theorem State.setMem_wf {s : State} (h : s.wf = true) {m : Cells Byte} (hm : Memory.wf m = true) : ({ s with mem := m } : State).wf = true :=
  let p := State.wf_iff.1 h
  State.onlyMemory_wf (t := { s with mem := m }) rfl h hm p.2.1 p.2.2.1 p.2.2.2.1

/-- Reset memory lists nothing and is canonical. -/
theorem reset_memory_wf : Memory.wf State.reset.mem = true := rfl

/-! ## One unit or word -/

/-- A write of a unit replaces attached memory, canonical if it was, and nothing else; at a hole or a failed port it does nothing. -/
theorem State.writeUnit_cases (s : State) (a : Nat) (d : List Byte) (p : Bool) :
    ∃ m, s.writeUnit a d p = { s with mem := m } ∧ (cellWf byteZero s.mem = true → cellWf byteZero m = true) := by
  unfold State.writeUnit
  cases s.mapAddr (a / 64 * 64) with
  | none => exact ⟨s.mem, rfl, id⟩
  | some x =>
    by_cases hf : s.portFailed x.1 = true
    · exact ⟨s.mem, if_pos hf, id⟩
    · refine ⟨_, if_neg hf, fun h => ?_⟩
      by_cases hk : s.coded (a / 64 * 64) = true
      · rw [if_pos hk]; exact cellPut_wf (cellPut_wf h _ _) _ _
      · rw [if_neg hk]; exact cellPut_wf h _ _

theorem State.writeUnit_only (s : State) (a : Nat) (d : List Byte) (p : Bool) : s.onlyMemory (s.writeUnit a d p) := by
  obtain ⟨m, e, -⟩ := s.writeUnit_cases a d p
  rw [e]
  rfl

/-- Replacing the cells of an SRAM space replaces those of the Keg, the operand buffers or the update buffers. -/
theorem State.setSram_cases (s : State) (sp : Nat) (c : Cells Byte) :
    s.setSram sp c = { s with keg := c } ∨ s.setSram sp c = { s with obuf := c } ∨ s.setSram sp c = { s with ubuf := c } := by
  unfold State.setSram
  split
  · exact .inl rfl
  · split
    · exact .inr (.inl rfl)
    · exact .inr (.inr rfl)

theorem State.setSram_only (s : State) (sp : Nat) (c : Cells Byte) : s.onlyMemory (s.setSram sp c) := by
  rcases s.setSram_cases sp c with e | e | e <;> rw [e] <;> rfl

theorem State.writeCode_only (s : State) (c : Nat) (d : List Byte) (p : Bool) : s.onlyMemory (s.writeCode c d p) := by
  unfold State.writeCode
  by_cases h : c / 2 ^ 40 = 0
  · rw [if_pos h]
    exact s.writeUnit_only _ _ _
  · rw [if_neg h]
    exact State.onlyMemory_carried.2 (s.setSram_only _ _) rfl

/-- Writing a unit of attached memory keeps the canonical form. -/
@[simp] theorem State.writeUnit_wf {s : State} (h : s.wf = true) (a : Nat) (d : List Byte) (p : Bool) : (s.writeUnit a d p).wf = true := by
  obtain ⟨m, e, hm⟩ := s.writeUnit_cases a d p
  rw [e]
  exact State.setMem_wf h (hm (State.wf_iff.1 h).1)

/-- The cells of each SRAM space are canonical. -/
theorem State.sram_wf {s : State} (h : s.wf = true) (sp : Nat) : cellWf byteZero (s.sram sp) = true := by
  have p := State.wf_iff.1 h
  unfold State.sram
  split
  · exact p.2.1
  · split
    · exact p.2.2.1
    · exact p.2.2.2.1

/-- Replacing the cells of an SRAM space by canonical ones keeps the canonical form. -/
theorem State.setSram_wf {s : State} (h : s.wf = true) (sp : Nat) {c : Cells Byte} (hc : cellWf byteZero c = true) :
    (s.setSram sp c).wf = true := by
  have p := State.wf_iff.1 h
  rcases s.setSram_cases sp c with e | e | e <;> rw [e, State.wf_iff]
  · exact ⟨p.1, hc, p.2.2⟩
  · exact ⟨p.1, p.2.1, hc, p.2.2.2⟩
  · exact ⟨p.1, p.2.1, p.2.2.1, hc, p.2.2.2.2⟩

/-- A change of the poison of words alone. -/
theorem State.setBad_wf {s : State} (h : s.wf = true) (l : List Nat) : ({ s with bad := l } : State).wf = true :=
  State.wf_congr h rfl rfl rfl rfl rfl (State.wf_regs h)

/-- Writing a unit or word keeps the canonical form. -/
@[simp] theorem State.writeCode_wf {s : State} (h : s.wf = true) (c : Nat) (d : List Byte) (p : Bool) : (s.writeCode c d p).wf = true := by
  unfold State.writeCode
  by_cases hc : c / 2 ^ 40 = 0
  · rw [if_pos hc]; exact State.writeUnit_wf h _ _ _
  · rw [if_neg hc]
    exact State.setBad_wf (State.setSram_wf h (c / 2 ^ 40) (cellPut_wf (State.sram_wf h (c / 2 ^ 40)) (codeKey c) d)) _

/-! ## Batches -/

theorem State.mergeCode_only (s : State) (c : Nat) (ws : List ByteWrite) : s.onlyMemory (s.mergeCode c ws) := s.writeCode_only _ _ _

@[simp] theorem State.mergeCode_wf {s : State} (h : s.wf = true) (c : Nat) (ws : List ByteWrite) : (s.mergeCode c ws).wf = true :=
  State.writeCode_wf h _ _ _

theorem State.writeBatch_only (s : State) (ws : List ByteWrite) : s.onlyMemory (s.writeBatch ws) :=
  State.onlyMemory_carried.foldl (fun s c => s.mergeCode_only c _) _ s

@[simp] theorem State.writeBatch_wf {s : State} (h : s.wf = true) (ws : List ByteWrite) : (s.writeBatch ws).wf = true :=
  foldl_keeps (fun s : State => s.wf = true) _ (fun _ _ h => State.mergeCode_wf h _ _) _ h

theorem State.poisonCode_only (s : State) (c : Nat) : s.onlyMemory (s.poisonCode c) := s.writeCode_only _ _ _

@[simp] theorem State.poisonCode_wf {s : State} (h : s.wf = true) (c : Nat) : (s.poisonCode c).wf = true := State.writeCode_wf h _ _ _

theorem State.touchHoles_only (s : State) (l : List Nat) : s.onlyRegsLog (s.touchHoles l) := by
  unfold State.touchHoles
  refine State.onlyRegsLog_carried.foldl (fun s c => ?_) l s
  by_cases hc : c / 2 ^ 40 = 0 ∧ s.mapAddr (codeKey c) = none
  · rw [if_pos hc]
    exact State.onlyRegsLog_carried.2 (State.onlyRegsLog_of_onlyRegs (State.onlyRegs_carried.2 (State.onlyRegs_setFld _ _ _ _) (State.onlyRegs_setFld _ _ _ _)))
      (State.onlyRegsLog_logEv _ _ _ _ _)
  · rw [if_neg hc]
    rfl

@[simp] theorem State.touchHoles_wf {s : State} (h : s.wf = true) (l : List Nat) : (s.touchHoles l).wf = true := by
  unfold State.touchHoles
  refine foldl_keeps (fun s : State => s.wf = true) _ (fun s c h => ?_) l h
  by_cases hc : c / 2 ^ 40 = 0 ∧ s.mapAddr (codeKey c) = none
  · rw [if_pos hc]
    exact State.logEv_wf (State.bump_wf (State.setFld_wf h _ _ _) _ _ _) _ _ _ _
  · rw [if_neg hc]
    exact h

theorem State.onlyRequests_choice (s : State) (b : Bool) (t : State) (h : s.onlyRequests t) : s.onlyRequests (if b = true then s else t) := by
  cases b with
  | true => exact State.onlyRequests_carried.1 s
  | false => exact h

theorem State.issueReads_only (s : State) (w : Who) (c : Bool) (l : List (Nat × List Nat)) : s.onlyRequests (s.issueReads w c l) := by
  unfold State.issueReads
  refine State.onlyRequests_carried.foldl (fun s n => ?_) _ s
  exact State.onlyRequests_choice _ _ _ rfl

theorem State.issueWrites_only (s : State) (old : Cells Byte) (w : Who) (l : List Nat) : s.onlyRequests (s.issueWrites old w l) := by
  unfold State.issueWrites
  refine State.onlyRequests_carried.foldl (fun s n => ?_) _ s
  exact State.onlyRequests_choice _ _ _ rfl

/-- A change of requests alone keeps the canonical form. -/
theorem State.onlyRequests_wf {s t : State} (e : s.onlyRequests t) (h : s.wf = true) : t.wf = true := by
  unfold State.onlyRequests at e
  rw [e]
  exact State.wf_congr h rfl rfl rfl rfl rfl (State.wf_regs h)

@[simp] theorem State.issueReads_wf {s : State} (h : s.wf = true) (w : Who) (c : Bool) (l : List (Nat × List Nat)) :
    (s.issueReads w c l).wf = true := State.onlyRequests_wf (s.issueReads_only w c l) h

@[simp] theorem State.issueWrites_wf {s : State} (h : s.wf = true) (old : Cells Byte) (w : Who) (l : List Nat) : (s.issueWrites old w l).wf = true :=
  State.onlyRequests_wf (s.issueWrites_only old w l) h

theorem State.storeBatch_only (s : State) (w : Who) (c : Bool) (ws : List ByteWrite) : s.onlyAccess (s.storeBatch w c ws) := by
  unfold State.storeBatch
  exact State.onlyAccess_carried.2 (State.onlyAccess_of_regsLog (s.touchHoles_only _))
    (State.onlyAccess_carried.2 (State.onlyAccess_of_requests (State.issueReads_only _ _ _ _))
      (State.onlyAccess_carried.2 (State.onlyAccess_of_memory (State.writeBatch_only _ _))
        (State.onlyAccess_of_requests (State.issueWrites_only _ _ _ _))))

/-- A batch of writes keeps the canonical form. -/
@[simp] theorem State.storeBatch_wf {s : State} (h : s.wf = true) (w : Who) (c : Bool) (ws : List ByteWrite) :
    (s.storeBatch w c ws).wf = true := by
  unfold State.storeBatch
  exact State.issueWrites_wf (State.writeBatch_wf (State.issueReads_wf (State.touchHoles_wf h _) _ _ _) _) _ _ _

/-! ## Clearing, and units whose content is open -/

/-- Clearing regions keeps the canonical form. -/
@[simp] theorem State.clearRegions_wf {s : State} (h : s.wf = true) (l : List (Nat × Nat)) : (s.clearRegions l).wf = true :=
  State.setMem_wf h (cellWf_filter _ (State.wf_iff.1 h).1)

theorem State.clearRegions_only (s : State) (l : List (Nat × Nat)) : s.onlyMemory (s.clearRegions l) := rfl

/-- A token's count keeps the canonical form. -/
@[simp] theorem State.setTok_wf {s : State} (h : s.wf = true) (c t n : Nat) : (s.setTok c t n).wf = true :=
  let p := State.wf_iff.1 h
  State.wf_iff.2 ⟨p.1, p.2.1, p.2.2.1, p.2.2.2.1, p.2.2.2.2.1, cellSet_wf p.2.2.2.2.2 _ _⟩

/-- Bytes whose content is open keep the canonical form. -/
@[simp] theorem State.scramble_wf {s : State} (h : s.wf = true) (key n : Nat) : (s.scramble key n).wf = true :=
  let p := State.wf_iff.1 h
  State.wf_iff.2 ⟨cellPut_wf p.1 _ _, p.2⟩

/-- Bytes whose content is open leave every other byte of attached memory. -/
theorem State.scramble_other {s : State} (h : s.wf = true) {key n k : Nat} (hk : ¬(key ≤ k ∧ k < key + n)) :
    cellGet byteZero (s.scramble key n).mem k = cellGet byteZero s.mem k :=
  cellGet_put_other (State.wf_iff.1 h).1 (by simp only [List.length_map, List.length_range]; omega)

/-- A unit whose content is open keeps the canonical form. -/
@[simp] theorem State.scrambleUnit_wf {s : State} (h : s.wf = true) (port unit : Nat) : (s.scrambleUnit port unit).wf = true :=
  State.scramble_wf h _ _

/-- A write that comes to nothing keeps the canonical form. -/
theorem State.undoWrite_wf {s : State} (h : s.wf = true) (w : OpenWrite) : (s.undoWrite w).wf = true := by
  have p := State.wf_iff.1 h
  exact State.wf_iff.2 ⟨foldl_keeps (fun m : Cells Byte => Memory.wf m = true) _ (fun _ _ h => cellPut_wf h _ _) _ p.1, p.2⟩

/-- A byte after a write came to nothing: as it stood, or as it was before the write. -/
theorem State.undoWrite_byte {s : State} (h : s.wf = true) (w : OpenWrite) (k : Nat) :
    cellGet byteZero (s.undoWrite w).mem k = cellGet byteZero s.mem k ∨
      ∃ p ∈ w.parts, p.1 ≤ k ∧ k < p.1 + p.2.length ∧ cellGet byteZero (s.undoWrite w).mem k = p.2.getD (k - p.1) 0 := by
  suffices ∀ (l : List (Nat × List Byte)) (m : Cells Byte), Memory.wf m = true →
      cellGet byteZero (l.foldl (fun m x => cellPut m x.1 x.2) m) k = cellGet byteZero m k ∨
        ∃ p ∈ l, p.1 ≤ k ∧ k < p.1 + p.2.length ∧ cellGet byteZero (l.foldl (fun m x => cellPut m x.1 x.2) m) k = p.2.getD (k - p.1) 0 from
    this w.parts s.mem (State.wf_iff.1 h).1
  intro l
  induction l with
  | nil => exact fun _ _ => .inl rfl
  | cons a l ih =>
    intro m hm
    rcases ih (cellPut m a.1 a.2) (cellPut_wf hm _ _) with e | ⟨p, hp, h1, h2, h3⟩
    · by_cases hk : a.1 ≤ k ∧ k < a.1 + a.2.length
      · exact .inr ⟨a, List.mem_cons_self, hk.1, hk.2, e.trans (cellGet_put_in hm hk.1 hk.2)⟩
      · exact .inl (e.trans (cellGet_put_other hm (by omega)))
    · exact .inr ⟨p, List.mem_cons_of_mem _ hp, h1, h2, h3⟩

/-- What cutting one write off leaves: a drawn bit and the bytes, either way. -/
theorem State.cutWrite_cases (s : State) (w : OpenWrite) :
    (s.cutWrite w).mem = s.mem ∨ (s.cutWrite w).mem = (s.undoWrite w).mem := by
  unfold State.cutWrite
  split
  · split
    · exact .inl rfl
    · exact .inr rfl
  · exact .inr rfl

theorem State.cutWrite_wf {s : State} (h : s.wf = true) (w : OpenWrite) : (s.cutWrite w).wf = true := by
  have p := State.wf_iff.1 h
  have q := State.wf_iff.1 (State.undoWrite_wf h w)
  unfold State.cutWrite
  split
  · split
    · exact State.wf_iff.2 p
    · exact State.wf_iff.2 q
  · exact State.wf_iff.2 q

/-- Writes that a reset cuts off keep the canonical form. -/
@[simp] theorem State.cutWrites_wf {s : State} (h : s.wf = true) : s.cutWrites.wf = true :=
  foldl_keeps (fun s : State => s.wf = true) _ (fun _ w h => State.cutWrite_wf h w) _ h

/-- Without an open write nothing is cut off. -/
theorem State.cutWrites_none {s : State} (h : s.openWrites = []) : s.cutWrites = s := by
  unfold State.cutWrites
  rw [h]
  rfl

/-- Nothing but attached memory and the count of free values differs. -/
def State.onlyOpen (s t : State) : Prop := t = { s with mem := t.mem, free := t.free }

theorem State.onlyOpen_carried : Carried State.onlyOpen :=
  ⟨fun _ => rfl, fun h1 h2 => by unfold State.onlyOpen at *; rw [h2, h1]⟩

/-- Writes that a reset cuts off change attached memory and the count of free values alone. -/
theorem State.cutWrites_only (s : State) : s.onlyOpen s.cutWrites :=
  State.onlyOpen_carried.foldl (f := State.cutWrite) (fun s w => by
    unfold State.cutWrite
    split
    · split <;> rfl
    · rfl) _ s

/-- A byte after writes were cut off: as it stood, or as it was before one of them. -/
theorem State.cutWrites_byte {s : State} (h : s.wf = true) (k : Nat) :
    cellGet byteZero s.cutWrites.mem k = cellGet byteZero s.mem k ∨
      ∃ w ∈ s.openWrites, ∃ p ∈ w.parts, p.1 ≤ k ∧ k < p.1 + p.2.length ∧ cellGet byteZero s.cutWrites.mem k = p.2.getD (k - p.1) 0 :=
  (List.foldlRecOn (motive := fun t : State => t.wf = true ∧ (cellGet byteZero t.mem k = cellGet byteZero s.mem k ∨
      ∃ w ∈ s.openWrites, ∃ p ∈ w.parts, p.1 ≤ k ∧ k < p.1 + p.2.length ∧ cellGet byteZero t.mem k = p.2.getD (k - p.1) 0))
    s.openWrites _ ⟨h, .inl rfl⟩ fun t ha w hw => by
      refine ⟨State.cutWrite_wf ha.1 w, ?_⟩
      rcases State.cutWrite_cases t w with e | e
      · rw [e]
        exact ha.2
      · rw [e]
        rcases State.undoWrite_byte ha.1 w k with e' | ⟨p, hp, h1, h2, h3⟩
        · rw [e']
          exact ha.2
        · exact .inr ⟨w, hw, p, hp, h1, h2, h3⟩).2

/-- A reset of the logic leaves a canonical state. -/
@[simp] theorem State.logicReset_wf {s : State} (h : s.wf = true) : s.logicReset.wf = true :=
  let p := State.wf_iff.1 h
  State.wf_iff.2 ⟨p.1, rfl, rfl, rfl, cellWf_filter _ p.2.2.2.2.1, rfl⟩

/-- The snapshot coder's writes keep the canonical form. -/
@[simp] theorem State.coderWrite_wf {s : State} (h : s.wf = true) (a : Nat) (d : List Byte) : (s.coderWrite a d).wf = true := by
  unfold State.coderWrite
  exact State.issueWrites_wf (State.touchHoles_wf (foldl_keeps (fun s : State => s.wf = true) _ (fun _ _ h => State.writeUnit_wf h _ _ _) _ h) _) _ _ _

theorem State.coderWrite_only (s : State) (a : Nat) (d : List Byte) : s.onlyAccess (s.coderWrite a d) := by
  unfold State.coderWrite
  refine State.onlyAccess_carried.2 (State.onlyAccess_of_memory ?_)
    (State.onlyAccess_carried.2 (State.onlyAccess_of_regsLog (State.touchHoles_only _ _)) (State.onlyAccess_of_requests (State.issueWrites_only _ _ _ _)))
  exact State.onlyMemory_carried.foldl (fun s u => s.writeUnit_only _ _ _) _ s

/-! ## What an access leaves -/

theorem State.onlyMemory_regs {s t : State} (h : s.onlyMemory t) : t.regs = s.regs := by
  unfold State.onlyMemory at h
  rw [h]

theorem State.onlyAccess_toks {s t : State} (h : s.onlyAccess t) : t.toks = s.toks := by
  unfold State.onlyAccess at h
  rw [h]

theorem State.onlyAccess_ctxs {s t : State} (h : s.onlyAccess t) : t.ctxs = s.ctxs := by
  unfold State.onlyAccess at h
  rw [h]

theorem State.onlyAccess_chain {s t : State} (h : s.onlyAccess t) : t.chain = s.chain := by
  unfold State.onlyAccess at h
  rw [h]

theorem State.onlyAccess_conf {s t : State} (h : s.onlyAccess t) : t.conf = s.conf := by
  unfold State.onlyAccess at h
  rw [h]

theorem State.onlyAccess_pending {s t : State} (h : s.onlyAccess t) : t.pending = s.pending := by
  unfold State.onlyAccess at h
  rw [h]

theorem State.onlyRequests_keepsMemory {s t : State} (h : s.onlyRequests t) : s.keepsMemory t := by
  unfold State.onlyRequests at h
  rw [h]
  exact ⟨rfl, rfl, rfl, rfl, rfl⟩

end Sys2Proof.Machine
end

