-- ==== Sys2Proof/Laws/Shared.lean ====
section
/-!
SUPPORT. Sys2Proof/Laws/Shared.lean: the shared operations of the sequencer, the links and FX: for each, all that it can change,
and that it keeps the canonical form.
-/
namespace Sys2Proof.Machine

/-- Nothing but register words, the event log, token counts, raises held and messages sent differs: all that raising a token
can do. -/
def State.onlyTokens (s t : State) : Prop :=
  t = { s with
    regs := t.regs
    log := t.log
    toks := t.toks
    held := t.held
    chain := t.chain }

/-- Nothing but register words, the event log, contexts and the chain's step differs: all that a fault can do. -/
def State.onlyFaults (s t : State) : Prop :=
  t = { s with
    regs := t.regs
    log := t.log
    ctxs := t.ctxs
    chain := t.chain }

/-- Nothing but what the sequencer keeps differs: registers, log, tokens, contexts, sides, tiles, units and the chain's step. -/
def State.onlyRun (s t : State) : Prop :=
  t = { s with
    regs := t.regs
    log := t.log
    toks := t.toks
    held := t.held
    ctxs := t.ctxs
    sides := t.sides
    tiles := t.tiles
    upd := t.upd
    chain := t.chain }

theorem State.onlyTokens_carried : Carried State.onlyTokens :=
  ⟨fun _ => rfl, fun h1 h2 => by unfold State.onlyTokens at *; rw [h2, h1]⟩

theorem State.onlyFaults_carried : Carried State.onlyFaults :=
  ⟨fun _ => rfl, fun h1 h2 => by unfold State.onlyFaults at *; rw [h2, h1]⟩

theorem State.onlyRun_carried : Carried State.onlyRun :=
  ⟨fun _ => rfl, fun h1 h2 => by unfold State.onlyRun at *; rw [h2, h1]⟩

theorem State.onlyTokens_of_regsLog {s t : State} (h : s.onlyRegsLog t) : s.onlyTokens t := by
  unfold State.onlyRegsLog at h
  unfold State.onlyTokens
  rw [h]

theorem State.onlyFaults_of_regsLog {s t : State} (h : s.onlyRegsLog t) : s.onlyFaults t := by
  unfold State.onlyRegsLog at h
  unfold State.onlyFaults
  rw [h]

theorem State.onlyRun_of_tokens {s t : State} (h : s.onlyTokens t) : s.onlyRun t := by
  unfold State.onlyTokens at h
  unfold State.onlyRun
  rw [h]

theorem State.onlyRun_of_faults {s t : State} (h : s.onlyFaults t) : s.onlyRun t := by
  unfold State.onlyFaults at h
  unfold State.onlyRun
  rw [h]

/-- The sequencer's part of the state holds no byte of memory. -/
theorem State.onlyRun_keepsMemory {s t : State} (h : s.onlyRun t) : s.keepsMemory t := by
  unfold State.onlyRun at h
  rw [h]
  exact ⟨rfl, rfl, rfl, rfl, rfl⟩

theorem State.onlyRun_pending {s t : State} (h : s.onlyRun t) : t.pending = s.pending := by
  unfold State.onlyRun at h
  rw [h]

theorem State.onlyRun_image {s t : State} (h : s.onlyRun t) : t.image = s.image := by
  unfold State.onlyRun at h
  rw [h]

theorem State.onlyRun_conf {s t : State} (h : s.onlyRun t) : t.conf = s.conf := by
  unfold State.onlyRun at h
  rw [h]

theorem State.onlyRun_fx {s t : State} (h : s.onlyRun t) : t.fx = s.fx := by
  unfold State.onlyRun at h
  rw [h]

theorem State.onlyTokens_ctxs {s t : State} (h : s.onlyTokens t) : t.ctxs = s.ctxs := by
  unfold State.onlyTokens at h
  rw [h]

theorem State.onlyFaults_toks {s t : State} (h : s.onlyFaults t) : t.toks = s.toks := by
  unfold State.onlyFaults at h
  rw [h]

/-- A state whose sparse parts are those of a canonical one is canonical. -/
theorem State.wf_same {s t : State} (h : s.wf = true) (h1 : t.mem = s.mem) (h2 : t.keg = s.keg) (h3 : t.obuf = s.obuf)
    (h4 : t.ubuf = s.ubuf) (h5 : t.regs = s.regs) (h6 : t.toks = s.toks) : t.wf = true :=
  State.wf_congr h h1 h2 h3 h4 h6 (by rw [h5]; exact State.wf_regs h)

/-! ## Tokens (R293 to R296) -/

theorem State.post_only (s : State) (m : NetMsg) : s.onlyTokens (s.post m) := rfl

@[simp] theorem State.post_wf {s : State} (h : s.wf = true) (m : NetMsg) : (s.post m).wf = true :=
  State.wf_same h rfl rfl rfl rfl rfl rfl

theorem State.setTok_only (s : State) (c t n : Nat) : s.onlyTokens (s.setTok c t n) := rfl

theorem State.raiseTok_only (s : State) (c t : Nat) : s.onlyTokens (s.raiseTok c t) := by
  unfold State.raiseTok
  refine State.onlyTokens_carried.2 ?_
    (State.onlyTokens_carried.foldl (fun s w => s.post_only _) _ _)
  by_cases h : s.tok c t = 65535
  · rw [if_pos h]
    exact State.onlyTokens_of_regsLog (State.onlyRegsLog_carried.2 (State.onlyRegsLog_of_onlyRegs (State.onlyRegs_setFld _ _ _ _))
      (State.onlyRegsLog_logEv _ _ _ _ _))
  · rw [if_neg h]
    rfl

@[simp] theorem State.raiseTok_wf {s : State} (h : s.wf = true) (c t : Nat) : (s.raiseTok c t).wf = true := by
  unfold State.raiseTok
  refine foldl_keeps (fun s : State => s.wf = true) _ (fun _ _ h => State.post_wf h _) _ ?_
  by_cases hn : s.tok c t = 65535
  · rw [if_pos hn]
    exact State.logEv_wf (State.setFld_wf h _ _ _) _ _ _ _
  · rw [if_neg hn]
    exact State.setTok_wf h _ _ _

theorem State.raiseSource_only (s : State) (p : TokSource → Bool) : s.onlyTokens (s.raiseSource p) :=
  State.onlyTokens_carried.foldl (fun s _ => s.raiseTok_only _ _) _ s

@[simp] theorem State.raiseSource_wf {s : State} (h : s.wf = true) (p : TokSource → Bool) : (s.raiseSource p).wf = true :=
  foldl_keeps (fun s : State => s.wf = true) _ (fun _ _ h => State.raiseTok_wf h _ _) _ h

theorem State.clearToks_only (s : State) (p : TokDecl → Bool) : s.onlyTokens (s.clearToks p) := by
  unfold State.clearToks
  exact State.onlyTokens_carried.foldl (fun s (d : TokDecl) => s.setTok_only d.ctx d.tok 0) _ s

@[simp] theorem State.clearToks_wf {s : State} (h : s.wf = true) (p : TokDecl → Bool) : (s.clearToks p).wf = true :=
  foldl_keeps (fun s : State => s.wf = true) _ (fun _ _ h => State.setTok_wf h _ _ _) _ h

theorem State.raiseFx_only (s : State) (k : FxTok) (l step mb : Nat) : s.onlyTokens (s.raiseFx k l step mb) := by
  unfold State.raiseFx
  refine State.onlyTokens_carried.foldl (fun s d => ?_) _ s
  simp only
  split
  · exact s.raiseTok_only _ _
  · rfl

@[simp] theorem State.raiseFx_wf {s : State} (h : s.wf = true) (k : FxTok) (l step mb : Nat) : (s.raiseFx k l step mb).wf = true := by
  unfold State.raiseFx
  refine foldl_keeps (fun s : State => s.wf = true) _ (fun s d h => ?_) _ h
  simp only
  split
  · exact State.raiseTok_wf h _ _
  · exact State.wf_same h rfl rfl rfl rfl rfl rfl

theorem State.applyHeld_only (s : State) (c step mb : Nat) : s.onlyTokens (s.applyHeld c step mb) := by
  unfold State.applyHeld
  exact State.onlyTokens_carried.via { s with held := s.held.filter fun h => !(h.ctx == c && h.step == step && h.mb == mb) } rfl
    (State.onlyTokens_carried.foldl (fun s h => s.raiseTok_only _ _) _ _)

@[simp] theorem State.applyHeld_wf {s : State} (h : s.wf = true) (c step mb : Nat) : (s.applyHeld c step mb).wf = true := by
  unfold State.applyHeld
  exact foldl_keeps (fun s : State => s.wf = true) _ (fun _ _ h => State.raiseTok_wf h _ _) _ (State.wf_same h rfl rfl rfl rfl rfl rfl)

/-! ## Contexts and faults (R311, R312) -/

theorem State.modCtx_only (s : State) (c : Nat) (f : Ctx → Ctx) : s.onlyFaults (s.modCtx c f) := rfl

@[simp] theorem State.modCtx_wf {s : State} (h : s.wf = true) (c : Nat) (f : Ctx → Ctx) : (s.modCtx c f).wf = true :=
  State.wf_same h rfl rfl rfl rfl rfl rfl

@[simp] theorem State.modQueue_wf {s : State} (h : s.wf = true) (c q : Nat) (f : Queue → Queue) : (s.modQueue c q f).wf = true :=
  State.modCtx_wf h _ _

@[simp] theorem State.modSide_wf {s : State} (h : s.wf = true) (i : Nat) (f : Side → Side) : (s.modSide i f).wf = true :=
  State.wf_same h rfl rfl rfl rfl rfl rfl

@[simp] theorem State.modTile_wf {s : State} (h : s.wf = true) (i : Nat) (f : Tile → Tile) : (s.modTile i f).wf = true :=
  State.wf_same h rfl rfl rfl rfl rfl rfl

@[simp] theorem State.setCtxState_wf {s : State} (h : s.wf = true) (c st : Nat) : (s.setCtxState c st).wf = true :=
  State.setFld_wf h _ _ _

/-- A status bit that stays set until written raises its interrupt once; nothing but registers changes. -/
theorem State.setOnce_only (s : State) (f : Fld) (u : Nat) (i : Fld) : s.onlyRegs (s.setOnce f u i) := by
  unfold State.setOnce
  split
  · exact State.onlyRegs_carried.1 s
  · exact State.onlyRegs_carried.2 (State.onlyRegs_setFld _ _ _ _) (State.onlyRegs_setFld _ _ _ _)

@[simp] theorem State.setOnce_wf {s : State} (h : s.wf = true) (f : Fld) (u : Nat) (i : Fld) : (s.setOnce f u i).wf = true := by
  unfold State.setOnce
  split
  · exact h
  · exact State.irq_wf (State.setFld_wf h _ _ _) _

/-- Recording a fault changes registers and the log only. -/
theorem State.reportFault_only (s : State) (c name action q i origin detail : Nat) :
    s.onlyRegsLog (s.reportFault c name action q i origin detail) := by
  unfold State.reportFault
  refine State.onlyRegsLog_carried.2 (State.onlyRegsLog_of_onlyRegs ?_) (State.onlyRegsLog_logEv _ _ _ _ _)
  refine State.onlyRegs_carried.2 (State.onlyRegs_carried.2 (State.onlyRegs_setFld _ _ _ _) (State.onlyRegs_carried.2 (State.onlyRegs_setFld _ _ _ _)
    (State.onlyRegs_carried.2 (State.onlyRegs_setFld _ _ _ _) (State.onlyRegs_carried.2 (State.onlyRegs_setFld _ _ _ _)
      (State.onlyRegs_carried.2 (State.onlyRegs_setFld _ _ _ _) (State.onlyRegs_setFld _ _ _ _)))))) (State.setOnce_only _ _ _ _)

@[simp] theorem State.reportFault_wf {s : State} (h : s.wf = true) (c name action q i origin detail : Nat) :
    (s.reportFault c name action q i origin detail).wf = true := by
  unfold State.reportFault
  exact State.logEv_wf (State.setOnce_wf (State.setFld_wf (State.setFld_wf (State.setFld_wf (State.setFld_wf (State.setFld_wf
    (State.setFld_wf h _ _ _) _ _ _) _ _ _) _ _ _) _ _ _) _ _ _) _ _ _) _ _ _ _

theorem State.haltCtx_only (s : State) (c name : Nat) : s.onlyFaults (s.haltCtx c name) := rfl

@[simp] theorem State.haltCtx_wf {s : State} (h : s.wf = true) (c name : Nat) : (s.haltCtx c name).wf = true :=
  State.setCtxState_wf (State.modCtx_wf h _ _) _ _

theorem State.policyFault_only (s : State) (c name dflt q i origin detail : Nat) :
    s.onlyFaults (s.policyFault c name dflt q i origin detail) := by
  unfold State.policyFault
  refine State.onlyFaults_carried.2 (State.onlyFaults_of_regsLog (s.reportFault_only c name (s.policy name dflt) q i origin detail)) ?_
  simp only
  split
  · exact State.haltCtx_only _ _ _
  · exact State.onlyFaults_carried.1 _

@[simp] theorem State.policyFault_wf {s : State} (h : s.wf = true) (c name dflt q i origin detail : Nat) :
    (s.policyFault c name dflt q i origin detail).wf = true := by
  unfold State.policyFault
  simp only
  split
  · exact State.haltCtx_wf (State.reportFault_wf h _ _ _ _ _ _ _) _ _
  · exact State.reportFault_wf h _ _ _ _ _ _ _

theorem State.fixedFault_only (s : State) (c name q i detail : Nat) : s.onlyFaults (s.fixedFault c name q i detail) := by
  unfold State.fixedFault
  exact State.onlyFaults_carried.2 (State.onlyFaults_of_regsLog (s.reportFault_only c name 0 q i 0 detail)) rfl

@[simp] theorem State.fixedFault_wf {s : State} (h : s.wf = true) (c name q i detail : Nat) : (s.fixedFault c name q i detail).wf = true := by
  unfold State.fixedFault
  exact State.wf_same (State.modCtx_wf (State.reportFault_wf h c name 0 q i 0 detail) c fun x => { x with failed := some (x.failed.getD name) })
    rfl rfl rfl rfl rfl rfl

theorem State.reissueFault_only (s : State) (c name q si first i origin limit : Nat) :
    s.onlyFaults (s.reissueFault c name q si first i origin limit) := by
  unfold State.reissueFault
  refine State.onlyFaults_carried.via (s.countTileFault c si first) rfl ?_
  simp only
  split
  · exact State.onlyFaults_carried.2 (State.onlyFaults_of_regsLog (State.reportFault_only _ _ _ _ _ _ _ _)) (State.haltCtx_only _ _ _)
  · exact State.onlyFaults_of_regsLog (State.reportFault_only _ _ _ _ _ _ _ _)

@[simp] theorem State.reissueFault_wf {s : State} (h : s.wf = true) (c name q si first i origin limit : Nat) :
    (s.reissueFault c name q si first i origin limit).wf = true := by
  unfold State.reissueFault
  have h' : (s.countTileFault c si first).wf = true := State.modCtx_wf h _ _
  simp only
  split
  · exact State.haltCtx_wf (State.reportFault_wf h' _ _ _ _ _ _ _) _ _
  · exact State.reportFault_wf h' _ _ _ _ _ _ _

/-! ## Issue -/

theorem State.endReplay_only (s : State) (c : Nat) : s.onlyRegs (s.endReplay c) := by
  unfold State.endReplay
  split
  · rfl
  · exact State.onlyRegs_carried.1 s

@[simp] theorem State.endReplay_wf {s : State} (h : s.wf = true) (c : Nat) : (s.endReplay c).wf = true := by
  unfold State.endReplay
  split
  · exact State.setCtxState_wf h _ _
  · exact h

theorem State.advance_only (s : State) (c q i : Nat) : s.onlyFaults (s.advance c q i) := by
  unfold State.advance
  split
  · split
    · rfl
    · refine State.onlyFaults_carried.2 ?_ (State.onlyFaults_of_regsLog (State.onlyRegsLog_of_onlyRegs (State.endReplay_only _ c)))
      rfl
  · exact State.onlyFaults_carried.1 s

@[simp] theorem State.advance_wf {s : State} (h : s.wf = true) (c q i : Nat) : (s.advance c q i).wf = true := by
  unfold State.advance
  split
  · split
    · exact State.modQueue_wf h _ _ _
    · exact State.endReplay_wf (State.modQueue_wf h _ _ _) _
  · exact h

theorem State.raiseEntry_only (s : State) (c q i : Nat) (w : BitVec 512) (rep : Bool) : s.onlyRun (s.raiseEntry c q i w rep) := by
  unfold State.raiseEntry
  split
  · exact State.onlyRun_carried.1 s
  · exact State.onlyRun_carried.2 (State.onlyRun_of_tokens (s.raiseTok_only _ _)) rfl

@[simp] theorem State.raiseEntry_wf {s : State} (h : s.wf = true) (c q i : Nat) (w : BitVec 512) (rep : Bool) :
    (s.raiseEntry c q i w rep).wf = true := by
  unfold State.raiseEntry
  split
  · exact h
  · exact State.modQueue_wf (State.raiseTok_wf h _ _) _ _ _

/-- Issuing an entry moves its queue, raises its token and puts it in flight: nothing of memory. -/
theorem State.launch_only (s : State) (c q i : Nat) (w : BitVec 512) (rep : Bool) : s.onlyRun (s.launch c q i w rep) := by
  unfold State.launch
  refine State.onlyRun_carried.2 (State.onlyRun_of_faults (s.advance_only c q i)) ?_
  simp only
  split
  · rfl
  · exact State.onlyRun_carried.2 (State.raiseEntry_only _ c q i w rep) rfl

@[simp] theorem State.launch_wf {s : State} (h : s.wf = true) (c q i : Nat) (w : BitVec 512) (rep : Bool) :
    (s.launch c q i w rep).wf = true := by
  unfold State.launch
  simp only
  split
  · exact State.modCtx_wf (State.advance_wf h c q i) _ _
  · exact State.modCtx_wf (State.raiseEntry_wf (State.advance_wf h c q i) _ _ _ _ _) _ _

theorem State.launchDone_only (s : State) (c q i : Nat) (w : BitVec 512) (rep : Bool) : s.onlyRun (s.launchDone c q i w rep) :=
  State.onlyRun_carried.2 (State.onlyRun_of_faults (s.advance_only c q i)) (State.raiseEntry_only _ c q i w rep)

@[simp] theorem State.launchDone_wf {s : State} (h : s.wf = true) (c q i : Nat) (w : BitVec 512) (rep : Bool) :
    (s.launchDone c q i w rep).wf = true := State.raiseEntry_wf (State.advance_wf h c q i) _ _ _ _ _

theorem State.finishFlight_only (s : State) (c q i : Nat) : s.onlyFaults (s.finishFlight c q i) := rfl

@[simp] theorem State.finishFlight_wf {s : State} (h : s.wf = true) (c q i : Nat) : (s.finishFlight c q i).wf = true :=
  State.modCtx_wf h _ _

/-- The end of a micro-batch changes its context only. -/
theorem State.checkDone_only (s : State) (c : Nat) : s.onlyFaults (s.checkDone c) := by
  unfold State.checkDone
  simp only
  split
  · split
    · rfl
    · rfl
  · exact State.onlyFaults_carried.1 s

@[simp] theorem State.checkDone_wf {s : State} (h : s.wf = true) (c : Nat) : (s.checkDone c).wf = true := by
  unfold State.checkDone
  simp only
  split
  · split
    · exact State.setCtxState_wf (State.modCtx_wf h _ _) _ _
    · exact State.modCtx_wf h _ _
  · exact h

/-! ## FX outbound (R399, R401) -/

/-- Sending on FX outbound changes the FX port only. -/
theorem State.fxSend_only (s : State) (l : List FxOut) : s.fxSend l = { s with fx := (s.fxSend l).fx } := rfl

@[simp] theorem State.fxSend_wf {s : State} (h : s.wf = true) (l : List FxOut) : (s.fxSend l).wf = true :=
  State.wf_same h rfl rfl rfl rfl rfl rfl

/-! ## Preemption (R120, R314 to R316) -/

theorem State.stopSide_only (s : State) (si : Nat) : s.onlyRun (s.stopSide si) := rfl

@[simp] theorem State.stopSide_wf {s : State} (h : s.wf = true) (si : Nat) : (s.stopSide si).wf = true :=
  State.setFld_wf (State.modSide_wf h _ _) _ _ _

/-- Nothing but contexts, sides, tiles and what an access can change differs: all that a preemption and a resume do. -/
def State.onlySave (s t : State) : Prop :=
  t = { s with
    regs := t.regs
    log := t.log
    ctxs := t.ctxs
    sides := t.sides
    tiles := t.tiles
    chain := t.chain
    sp := t.sp
    mem := t.mem
    keg := t.keg
    obuf := t.obuf
    ubuf := t.ubuf
    bad := t.bad }

theorem State.onlySave_carried : Carried State.onlySave :=
  ⟨fun _ => rfl, fun h1 h2 => by unfold State.onlySave at *; rw [h2, h1]⟩

theorem State.onlySave_of_access {s t : State} (h : s.onlyAccess t) : s.onlySave t := by
  unfold State.onlyAccess at h
  unfold State.onlySave
  rw [h]

theorem State.onlySave_of_faults {s t : State} (h : s.onlyFaults t) : s.onlySave t := by
  unfold State.onlyFaults at h
  unfold State.onlySave
  rw [h]

/-- Saving the tiles of a context writes its save area, keeps them in the context, and frees them. -/
theorem State.saveTiles_only (s : State) (c : Nat) : s.onlySave (s.saveTiles c) := by
  unfold State.saveTiles
  simp only
  generalize bytesAt 0 (s.saveArea c) _ false = ws
  generalize List.map _ (List.filter _ _) = l
  refine State.onlySave_carried.via (s.storeBatch (saveWho c) false ws) (State.onlySave_of_access (s.storeBatch_only _ _ _)) ?_
  exact State.onlySave_carried.via ((s.storeBatch (saveWho c) false ws).modCtx c fun z => { z with saved := z.saved ++ l }) rfl
    (State.onlySave_carried.foldl (f := fun s (x : Nat × Tile) => s.modTile x.1 fun _ => {}) (fun _ _ => rfl) _ _)

/-- A context that comes to rest. -/
theorem State.restCtx_only (s : State) (c : Nat) : s.onlySave (s.restCtx c) :=
  State.onlySave_carried.2 (s.saveTiles_only c) rfl

theorem State.preemptCtx_only (s : State) (c : Nat) : s.onlyFaults (s.preemptCtx c) := by
  unfold State.preemptCtx
  simp only
  split
  · rfl
  · exact State.onlyFaults_carried.1 s

/-! ## The gate of register writes -/

/-- A write that the gate does not accept changes registers and the event log at most (R9, R354, R368, R377, R384, R395). -/
theorem State.gate_refuses {s : State} {src : Src} {k : RegKind} {u : Nat} (h : s.accepts src k u = false) (f : State → State) :
    s.onlyRegsLog (s.gate src k u f) := by
  unfold State.gate
  split
  · rfl
  split
  · have hr : s.onlyRegs s.dbgRefuse := by
      unfold State.dbgRefuse
      split
      · rfl
      · exact State.onlyRegs_carried.2 (State.onlyRegs_setFld _ _ _ _) (State.onlyRegs_setFld _ _ _ _)
    exact State.onlyRegsLog_of_onlyRegs (State.onlyRegs_carried.2 hr (State.onlyRegs_setFld _ _ _ _))
  split
  · rfl
  split
  · exact State.onlyRegsLog_carried.2 (State.onlyRegsLog_logEv _ _ _ _ _) (State.onlyRegsLog_of_onlyRegs (State.onlyRegs_setFld _ _ _ _))
  split
  · exact State.onlyRegsLog_of_onlyRegs (State.onlyRegs_setFld _ _ _ _)
  · rename_i h1 h2 h3 h4 h5
    refine absurd ?_ (Bool.eq_false_iff.mp h)
    simp only [Bool.not_eq_true', Bool.and_eq_true, Bool.or_eq_true, decide_eq_true_eq, beq_iff_eq, bne_iff_ne] at h1 h2 h3 h4 h5
    simp only [State.accepts, Bool.and_eq_true, Bool.or_eq_true, Bool.not_eq_true', decide_eq_true_eq, beq_iff_eq]
    refine ⟨⟨⟨⟨by simpa using h1, ?_⟩, by simpa using h3⟩, ?_⟩, ?_⟩
    · cases src
      · exact .inl (.inl rfl)
      · by_cases hk : k = .dbgCtrl
        · exact .inr hk
        · exact .inl (.inr (by have := mt (fun d => And.intro (And.intro rfl d) hk) h2; omega))
    · by_cases hp : s.power ≤ 1
      · exact .inl hp
      · exact .inr (by cases ha : regAon k with | true => rfl | false => exact absurd ⟨by omega, ha⟩ h5)
    · by_cases hl : s.security = secLockdown ∨ s.flag secStateZpend 0 = true
      · by_cases hb : (regBlock k = 11 ∨ regBlock k = 12) ∨ regBlock k = 14
        · rcases hb with (hb | hb) | hb
          · exact .inl (.inl (.inr hb))
          · exact .inl (.inr hb)
          · exact .inr hb
        · exact absurd ⟨hl, by simpa using hb⟩ h4
      · exact .inl (.inl (.inl (by simpa using hl)))

end Sys2Proof.Machine
end

