-- ==== Sys2Proof/Tests/Slice0.lean ====
section
/-!
SUPPORT. Sys2Proof/Tests/Slice0.lean: small checks of the model, the checks of well-formedness with an ill-formed command for each, and for every
statement of Certificates/Slice0/Obligations.lean a state and operands that meet its hypotheses, clause by clause.
-/
namespace Sys2Proof.Tests
open Sys2Proof.Machine

-- One thread: the checks of this file are short, and elaborating them side by side starts more threads than they are worth.
set_option Elab.async false

/-! ## States built small -/

/-- An engine after its boot. -/
def base (c : Configuration) : State := { State.resetFor c with boot := .alive }

/-- In Run. -/
def on : State := (base .e128).setFld pwrStatusState 0 0

/-- In Run with CFG.ADMIT.STATE n. -/
def adm (n : Nat) : State := on.setFld cfgAdmitState 0 n

/-- An image without contents. -/
def bare : Image where
  bytes := []
  cores := []
  contexts := []
  panels := []
  tokens := []
  wiring := []
  tiles := []
  descs := []
  nmb := 1
  buckets := []
  lean := false
  autoWiden := false
  track := []
  optim := none
  links := ⟨[], [], [], [], [], [], [], [], [], []⟩
  holders := []
  demand := []
  classWeights := []
  modes := []
  variants := []
  reshard := []
  journal := 0
  bushel := none
  faults := []

/-- Loaded with image i, in CFG.ADMIT.STATE n. -/
def has (i : Image) (n : Nat) : State := { adm n with image := some i }

/-- A word of fields: bit offset and value. -/
def fields (l : List (Nat × Nat)) : BitVec 512 := BitVec.ofNat 512 (l.foldl (fun n f => n + f.2 * 2 ^ f.1) 0)

/-- A register word of one field. -/
def field (f : Fld) (v : Nat) : Word := fldPut f v 0

/-! ## Checks of single operations, with values from the spec -/

/-- R12: the worked value of ID.CAP of an E64. -/
theorem test_idCap_e64 : (State.resetFor .e64).read .idCap 0 = 0x000004040420C440 := by decide +kernel

/-- R48, Table 2.1: 1.0 in the formats. -/
theorem test_one_s32 : encodeFloat fmtS32 (decodeS32 0x3F800000) = ⟨0x3F800000, false, false⟩ := by decide +kernel

/-- R210: a flipped symbol of a coded unit is corrected. -/
theorem test_sc8_corrects :
    sc8Data (((List.replicate 64 1 ++ sc8Good (List.replicate 64 1)) : List Byte).modify 5 (· ^^^ 0x80)) = (List.replicate 64 1, false) := by
  decide +kernel

/-- R283: the check value of CRC-32 of the nine digits. -/
theorem test_crc32 : crc32 [0x31, 0x32, 0x33, 0x34, 0x35, 0x36, 0x37, 0x38, 0x39] = 0xCBF43926 := by decide +kernel

/-- R209 to R212: a stored unit reads back. -/
theorem test_unit_reads_back :
    ((on.setFld cfgSpcapCapGib 0 16).writeUnit 0 (List.replicate 64 7) false).readUnit 0 = (List.replicate 64 7, false) := by decide +kernel

/-- R208: without configured capacity every address is a hole. -/
theorem test_hole : on.mapAddr 0 = none := by decide +kernel

/-! ## Commands that cannot be presented -/

/-- For each check of well-formedness a command that fails it and nothing else. -/
def illFormed : List Instr :=
  [.registerWrite (2 ^ 24) 0 .cp, .slowReadReturn (.accepted 0 16 .cp), .slowReadReturn (.accepted (2 ^ 24) 0 .cp),
    .modeProposal 65536 false .cp, .proposalArrival 1024 0 false,
    .prepare 0 (2 ^ 32), .modeAck 0 65536 0, .preempt 64 .cp, .retrain 16 .cp, .powerStateRequest 8 .cp, .vgrpWrite 4 0 .cp,
    .clusterFreqWrite 8 0 .cp, .vokChange 4 true, .install (2 ^ 24) .cp, .debugRequest 4 .cp, .droopEvent (some 8), .droopEnd 8,
    .thermalSample [], .thermalSample (512 :: List.replicate 39 0), .telemetryUpdate ⟨[], 0, 0⟩ (List.replicate 40 0),
    .telemetryUpdate ⟨List.replicate 8 (0, 0), 0, 0⟩ [], .fractionStep (some 8), .clusterIdleGate 8, .stashPush 0 0 true []] ++
  [.seedBeat 65536 0 true (List.replicate 256 0), .recomputeBeat 0 (2 ^ 24) true (List.replicate 256 0),
    .microBatchOpen 0 0 (2 ^ 21), .layerDone 0 0 4096, .amaxRecord 0 16384 0, .amaxRecord 1 0 0, .amaxRecord 16 0 0,
    .fxoCredit 65536 0, .passIssue 0 257 false, .moveIssue 0 0 false [⟨64, 0⟩] [], .moveIssue 0 0 false [] [⟨0, 131072⟩],
    .reduceIssue 0 0 false [⟨64, 0⟩] [], .entryComplete 0 0 (2 ^ 24), .tokenMessage 0 0 4096, .passStart 128 false [] [],
    .drainStart 0 false false 129 none [], .narrowPathAccess .mc 0 0 [] [⟨64, 0⟩], .stackReadResponse 24 0 false [],
    .stackReadResponse 0 1024 false [], .stackReadResponse 0 0 false [[]], .reductionComplete (2 ^ 20), .updateLayerStart 16,
    .updateBlockDone 16 0 0 [], .updateBlockDone 0 0 0 [0], .narrowWeightEmission 4096 [], .weightsSend 0 [(1024, [])], .halt 0 16,
    .frameReceive 0 ⟨0, [], []⟩ false, .bringupStageDone 0 [], .hello 0 ⟨0, 1024, 0, 0, false, 0⟩] ++
  [.collectiveSegment ⟨2 ^ 20, 0, 0, 0, []⟩, .remoteReadRequest ⟨0, 0, 0, 0, 0, []⟩ [] [⟨64, 0⟩], .staleResponse 0 8192 0 0 0 0,
    .staleResponse 0 0 0 65536 0 0, .staleResponse 0 0 0 0 65536 0, .reshardTransfer 0 0 65536 [] [] 0, .reshardTransfer 0 0 0 [] [] 65536,
    .snapshotDoneReport 0 0 false (2 ^ 384) 0, .restorePhaseEnd 0 16 true 0 [] []]

theorem test_illFormed : illFormed.all (fun c => !c.wellFormed) = true := by decide +kernel

/-- The commands that carry data of a fixed length fault when it is not of that length. -/
theorem test_illFormed_faults : [Instr.thermalSample [], .telemetryUpdate ⟨[], 0, 0⟩ [], .stashPush 0 0 true [], .recomputeBeat 0 0 true [],
    .seedBeat 0 0 true [], .frameReceive 0 ⟨0, [], []⟩ false, .bringupStageDone 0 []].all (fun c => match exec c on with | .fault .illFormed => true | _ => false) = true := by
  decide +kernel

/-! ## Witnesses: the block as a whole, registers, the log -/

theorem witness_StepRunsFrontCommandOrIdles : ({ on with pending := [.tamper, .heartbeat] } : State).pending = .tamper :: [.heartbeat] ∧
    on.wf = true ∧ on.pending = [] ∧ on.boot ≠ .porHeld ∧ State.reset.wf = true ∧ State.reset.pending = [] ∧ State.reset.boot = .porHeld := by
  decide +kernel

theorem witness_StepKeepsCanonicalForm : (on.wf = true ∧ on.sized = true) ∧ ∃ t, core.step on = .next t := ⟨by decide +kernel, _, rfl⟩

theorem witness_CommandsCompleteAndKeepTheQueue : (∃ t, exec .heartbeat on = .next t) ∧ Instr.heartbeat.wellFormed = true ∧
    exec (.thermalSample []) on = .fault .illFormed := ⟨⟨_, rfl⟩, by decide +kernel, rfl⟩

/-- The last unit number of the register keys; writes of one register of each access code; an open and a closed lock; a refused
write. -/
theorem witness_WritesOfFields : on.wf = true ∧ cfgRegionSize ∈ regFields .cfgRegion ∧ 1023 < 1024 ∧
    regAt 65800 = some (.cfgRegion, 0) ∧ plainRegister .cfgRegion = true ∧ on.accepts .cp .cfgRegion 0 = true ∧
    cfgRegionSize.access = .rwl ∧ on.blocked cfgRegionSize = false ∧ (adm 3).wf = true ∧ (adm 3).accepts .cp .cfgRegion 0 = true ∧
    (adm 3).blocked cfgRegionSize = true ∧ (adm 3).refusesFld cfgRegionSize 0 (field cfgRegionSize 1) = true ∧
    (adm 3).refusesFld cfgRegionSize 0 0 = false ∧ RegKind.cfgRegion ≠ .mgtCperr ∧ cfgRegionCoded.access = .ro ∧
    regAt 7864328 = some (.mgtIrqPend, 0) ∧ plainRegister .mgtIrqPend = true ∧ on.accepts .cp .mgtIrqPend 0 = true ∧
    mgtIrqPendAdmit ∈ regFields .mgtIrqPend ∧ mgtIrqPendAdmit.access = .w1c ∧ regAt 7340040 = some (.calSel, 0) ∧
    plainRegister .calSel = true ∧ on.accepts .cp .calSel 0 = true ∧ (regFields .calSel).any (fun f => f.access == .rw) = true := by
  decide +kernel

theorem witness_DiscardedAndUnmappedWrites : regAt 65800 = some (.cfgRegion, 0) ∧ State.reset.alive = false ∧
    (on.alive = true ∧ on.debugLevel < 2 ∧ RegKind.cfgRegion ≠ .dbgCtrl) ∧
    (regAt 1048584 = some (.arrStatus, 0) ∧ regAt (1048584 + 0x1000) = some (.arrStatus, 1) ∧ (base .e1).alive = true ∧
      regAbsent .e1 .arrStatus 1 = true) ∧
    ((base .e128).power = 3 ∧ (base .e128).alive = true ∧ regAbsent (base .e128).conf .cfgRegion 0 = false ∧
      (base .e128).security ≠ secLockdown ∧ (base .e128).flag secStateZpend 0 = false ∧ 2 ≤ (base .e128).power ∧ regAon .cfgRegion = false) ∧
    ((on.setFld secStateState 0 secLockdown).alive = true ∧ regAbsent (on.setFld secStateState 0 secLockdown).conf .cfgRegion 0 = false ∧
      (on.setFld secStateState 0 secLockdown).security = secLockdown ∧ ((base .e128).setFld secStateZpend 0 1).flag secStateZpend 0 = true ∧
      ((base .e128).setFld secStateZpend 0 1).alive = true ∧
      regBlock .cfgRegion ≠ 11 ∧ regBlock .cfgRegion ≠ 12 ∧ regBlock .cfgRegion ≠ 14) ∧
    regAt (2 ^ 24 - 8) = none ∧ on.wf = true := by
  decide +kernel

/-- Two command bits in each register that has several; one alone; the registers of the caps; SEC.POLICY with and without PRESENCE. -/
theorem witness_WritesOfCommandRegisters : on.wf = true ∧
    [RegKind.cfgCtrl, .snpCtrl, .pwrReset, .pwrThrot, .pwrPace, .pwrTherm, .secPolicy, .calStage].all (fun k =>
      decide (regAt (regAddr k 0) = some (k, 0)) && on.accepts .cp k 0) = true ∧
    regAt (regAddr .seqCtrl 63) = some (.seqCtrl, 63) ∧ on.accepts .cp .seqCtrl 63 = true ∧
    [(cfgCtrlAdmit, cfgCtrlDispatch), (seqCtrlPreempt, seqCtrlResume), (snpCtrlRestore, snpCtrlLocalHalt), (pwrResetCold, pwrResetWarm)].all
      (fun p => p.1 != p.2 && p.1.kind == p.2.kind && (regFields p.1.kind).contains p.1 && (regFields p.1.kind).contains p.2 &&
        p.1.access == .wo && p.2.access == .wo && fldGet p.1 (fldPut p.1 1 (field p.2 1)) == 1 && fldGet p.2 (fldPut p.1 1 (field p.2 1)) == 1) = true ∧
    [cfgCtrlAdmit, cfgCtrlDispatch, cfgCtrlUnload, seqCtrlPreempt, seqCtrlResume, snpCtrlRestore, snpCtrlLocalHalt, pwrResetCold, pwrResetWarm,
      pwrResetRtmRelease].all (fun f => fldGet f (field f 1) == 1 &&
        (regFields f.kind).all fun g => g.access != .wo || g == f || fldGet g (field f 1) != 1) = true ∧
    on.flag secStatePresence 0 = false ∧ (on.setFld secStatePresence 0 1).flag secStatePresence 0 = true ∧
    (on.setFld secStatePresence 0 1).wf = true ∧ (on.setFld secStatePresence 0 1).accepts .cp .secPolicy 0 = true := by
  decide +kernel

/-- A log whose queue is full, and one with a fresh entry. -/
def logFull : State := { on with log := { queue := List.replicate 32 ⟨1, 2, 0, 0, 3, 4, 0, 0, 0⟩ } }

theorem witness_EventReachesTheLog : logFull.wf = true ∧ logFull.logRepeats 2 3 4 0 = true ∧ logFull.logRepeats 3 3 4 0 = false ∧
    32 ≤ logFull.log.queue.length ∧ on.logRepeats 2 3 4 0 = false ∧ on.log.queue.length < 32 := by
  decide +kernel

theorem witness_MgtClears : on.wf = true ∧ on.accepts .cp .mgtCtrl 0 = true := by decide +kernel

theorem witness_TelemetryAndFeedId : on.wf = true ∧ on.alive = true ∧ (List.replicate 8 ((0, 0) : Nat × Nat)).length = 8 ∧
    (List.replicate 40 (0 : Int)).length = 40 ∧ on.mcHalted = false ∧ (on.setFld dbgStatusMcHalted 0 1).mcHalted = true ∧
    Config.sensorPresent on.conf 39 = true ∧ on.aonRuns = true ∧ on.fld idStrapFeedNow 0 ≠ (5#4).toNat ∧ on.fld idStrapFeedId 0 ≠ (5#4).toNat ∧
    (on.setFld idStrapFeedId 0 5).fld idStrapFeedId 0 = (5#4).toNat ∧ (on.setFld idStrapFeedId 0 5).fld idStrapFeedNow 0 ≠ (5#4).toNat ∧
    on.fld idStrapFeedNow 0 = (0#4).toNat := by
  decide +kernel

/-! ## Witnesses: clocks, power, resets -/

/-- The controller halted. -/
def mcOff : State := on.setFld dbgStatusMcHalted 0 1

/-- The hottest sensor is the last; of two that are equal the first. -/
theorem witness_CapsOfTheClocksAndHeat : on.wf = true ∧ on.aonRuns = true ∧ on.flag pwrThrotActive 0 = false ∧ on.flag pwrThermHostAlm 0 = false ∧
    (on.setFld pwrThrotActive 0 1).flag pwrThrotActive 0 = true ∧ (on.setFld pwrThermHostAlm 0 1).flag pwrThermHostAlm 0 = true ∧
    on.flag pwrThrotSeen 0 = false ∧ on.alive = true ∧ on.mcHalted = false ∧ Config.sensorPresent on.conf 39 = true ∧
    ((List.range 40).all fun j => decide ((List.replicate 39 (359 : Int) ++ [400]).getD j 0 < (List.replicate 39 (359 : Int) ++ [400]).getD 39 0 ∨
      ((List.replicate 39 (359 : Int) ++ [400]).getD j 0 = (List.replicate 39 (359 : Int) ++ [400]).getD 39 0 ∧ 39 ≤ j))) = true ∧
    Config.sensorPresent on.conf 0 = true ∧
    ((List.range 40).all fun j => decide ((List.replicate 40 (339 : Int)).getD j 0 = (List.replicate 40 (339 : Int)).getD 0 0)) = true ∧
    on.tjTrip ≤ 400 ∧ on.tjThrottle ≤ 400 ∧ 339 < on.tjThrottle - 20 ∧ mcOff.wf = true ∧ mcOff.alive = true ∧ mcOff.mcHalted = true := by
  decide +kernel

theorem witness_TheFractionMoves : on.wf = true ∧ on.aonRuns = true ∧ 7 < Config.clusters on.conf ∧ 7 < on.pwr.clusters.length ∧ on.power = 0 ∧
    on.flag pwrClkGated 0 = false ∧ (on.setN 0 1).wf = true ∧ (on.setN 0 1).clusterN 0 < (on.setN 0 1).nLimit 0 ∧ on.nLimit 0 ≤ on.clusterN 0 ∧
    ({ on with pwr := { on.pwr with updN := 15 } } : State).pwr.updN < ({ on with pwr := { on.pwr with updN := 15 } } : State).capLimit ∧
    (on.cluster 0).droop = false := by
  decide +kernel

/-- A valid calibration set without words above Table 12.2. -/
def calibrated : State := on.setFld calStatusValid 0 1

theorem witness_ClockRegisters : on.wf = true ∧ on.accepts .cp .pwrVgrp 3 = true ∧
    max 10 (min (fldGet pwrVgrpVreq (field pwrVgrpVreq 10)) 60) < on.minv 3 ∧ calibrated.wf = true ∧ calibrated.accepts .cp .pwrVgrp 3 = true ∧
    calibrated.minv 3 ≤ max 10 (min (fldGet pwrVgrpVreq (field pwrVgrpVreq 60)) 60) ∧ on.accepts .cp .pwrClk 7 = true ∧ on.aonRuns = true ∧
    3 < Config.vgroups on.conf ∧ on.power = 0 ∧ ((List.range 128).all fun k => on.coreIdle k) = true ∧ on.flag pwrPaceGateIdle 0 = true ∧
    on.flag pwrClkNogate 7 = false ∧ (on.setFld pwrClkNogate 7 1).flag pwrClkNogate 7 = true ∧ on.snp.active = false ∧
    (∀ u ∈ on.upd.units, u.cur = none) := by
  decide +kernel

/-- In a transition from power state f to power state n. -/
def moving (f n : Nat) : State := { on.setFld pwrStatusState 0 5 with pwr := { on.pwr with trans := some n, fromState := f } }

/-- In Doze. -/
def doze : State := on.setFld pwrStatusState 0 1

theorem witness_PowerRequests : on.wf = true ∧ on.accepts .cp .pwrCtrl 0 = true ∧ (moving 2 0).pwr.trans.isSome = true ∧ (moving 2 0).wf = true ∧
    (moving 2 0).accepts .cp .pwrCtrl 0 = true ∧ on.pwr.trans = none ∧ on.pwr.warm = false ∧ on.flag secStateBusy 0 = false ∧ on.mcHalted = false ∧
    on.fld pwrStatusState 0 = 0 ∧ on.admState ≠ admAdmitting ∧ on.maySleep = true ∧ (adm admRunning).wf = true ∧ (adm admRunning).maySleep = false ∧
    (adm admRunning).fld pwrStatusState 0 = 0 ∧ (adm admRunning).accepts .cp .pwrCtrl 0 = true ∧ on.flag pwrStatusRefused 0 = false ∧
    (adm admAdmitting).fld pwrStatusState 0 = 0 ∧ (adm admAdmitting).admState = admAdmitting ∧ (adm admAdmitting).accepts .cp .pwrCtrl 0 = true ∧
    (base .e128).fld pwrStatusState 0 = 3 ∧ (base .e128).wf = true ∧ (base .e128).accepts .cp .pwrCtrl 0 = true ∧
    doze.wf = true ∧ doze.accepts .cp .pwrCtrl 0 = true ∧ doze.fld pwrStatusState 0 = 1 ∧ doze.mcHalted = false ∧ doze.pwr.trans = none := by
  decide +kernel

theorem witness_PowerTransitionsAndDoze : (moving 0 2).wf = true ∧ (moving 0 2).pwr.waiting = none ∧ (moving 0 2).pwr.trans = some 2 ∧
    (moving 0 2).maySleep = true ∧ ((moving 0 2).setFld cfgAdmitState 0 admRunning).maySleep = false ∧
    ((moving 0 2).setFld cfgAdmitState 0 admRunning).pwr.mcPreempted = [] ∧ ((moving 0 2).setFld cfgAdmitState 0 admRunning).wf = true ∧
    (moving 0 3).pwr.trans = some 3 ∧ (moving 0 3).maySleep = true ∧ (moving 3 0).pwr.trans = some 0 ∧ (moving 3 0).pwr.fromState = 3 ∧
    (moving 2 0).pwr.fromState = 2 ∧ (moving 3 0).flag pwrStatusRailFault 0 = false ∧
    (moving 3 0).flag secStateZpend 0 = false ∧ doze.wf = true ∧ doze.alive = true ∧ doze.power = 1 ∧ doze.pwr.waiting = none ∧
    doze.pwr.trans = none ∧ (moving 1 0).power = 1 ∧ (moving 1 0).pwr.trans = some 0 ∧ (moving 1 0).pwr.waiting = none ∧ (moving 1 0).wf = true ∧
    (moving 1 0).alive = true ∧ (∀ m ∈ doze.chain.moves, m.ctx ∉ doze.pwr.mcPreempted) := by
  decide +kernel

/-- A warm reset in progress, with the retimers held. -/
def warm : State := { on.setFld mapRingRtmActive 0 1 with pwr := { on.pwr with warm := true } }

/-- 64 zeros. -/
def zeros64 : List Byte := List.replicate 64 0

/-- A write that is not yet answered. -/
def writing : State := { on with sp := on.sp.set 0 { wr := [⟨0, 0, 1, ⟨none, 0, 0, [[]], false⟩, 0, 0, [], [zeros64], [zeros64]⟩] } }

/-- A reset with no open write, and a byte outside the unit of an open one. -/
theorem witness_ResetsAndStartUp_writes : on.openWrites = [] ∧ writing.wf = true ∧ writing.openWrites = [⟨[(0, zeros64)], true⟩] ∧ writing.accepts .cp .pwrReset 0 = true ∧ writing.power ≤ 1 := by
  decide +kernel

theorem witness_ResetsAndStartUp : on.wf = true ∧ on.accepts .cp .pwrReset 0 = true ∧ on.boot ≠ .porHeld ∧ on.boot ≠ .coldHeld ∧ on.power ≤ 1 ∧
    (base .e128).wf = true ∧ (base .e128).accepts .cp .pwrReset 0 = true ∧ 2 ≤ (base .e128).power ∧
    (on.setFld secStateState 0 secLockdown).wf = true ∧ (on.setFld secStateState 0 secLockdown).accepts .cp .pwrReset 0 = true ∧
    (on.setFld secStateState 0 secLockdown).power ≤ 1 ∧ (on.setFld secStateState 0 secLockdown).security = secLockdown ∧
    warm.wf = true ∧ warm.pwr.warm = true ∧ warm.pwr.waiting = none ∧ warm.flag secStateZpend 0 = false ∧ warm.accepts .cp .pwrReset 0 = true ∧
    warm.flag mapRingRtmActive 0 = true ∧ warm.security ≠ secLockdown ∧ on.flag mapRingRtmActive 0 = false ∧ State.reset.boot = .porHeld ∧
    ({ State.reset with boot := .coldHeld } : State).boot = .coldHeld ∧ ({ State.reset with boot := .rom } : State).boot = .rom ∧
    State.reset.sec.slot = none ∧ ({ State.reset with boot := .firmware } : State).boot = .firmware ∧
    ({ State.reset with sec := { tamperCell := true } } : State).sec.tamperCell = true ∧ State.reset.wf = true := by
  decide +kernel

/-! ## Witnesses: security, debug -/

/-- A security or presence command in progress. -/
def commanded (code : Nat) (presence : Bool) : State :=
  { (on.setFld secStateBusy 0 1).setFld secStatePresence 0 1 with sec := { cmd := some ⟨code, presence, 0⟩ } }

/-- A zeroisation in progress. -/
def zeroing (mem thenOpen : Bool) : State := { (on.setFld cfgSpcapCapGib 0 16) with sec := { zero := some ⟨mem, thenOpen⟩, zeroMap := ⟨[(1, 2)], 16⟩ } }

theorem witness_SecurityCommandsAndZeroisation : on.wf = true ∧ on.accepts .cp .secCmd 0 = true ∧ on.flag secStateBusy 0 = false ∧
    (commanded 2 false).flag secStateBusy 0 = true ∧ (commanded 2 false).accepts .cp .secCmd 0 = true ∧ (commanded 2 false).wf = true ∧
    (on.setFld secStateState 0 secLockdown).security = secLockdown ∧ (on.setFld secStateState 0 secLockdown).accepts .cp .secCmd 0 = true ∧
    on.security ≠ secLockdown ∧ on.power ≤ 2 ∧ on.fld pwrStatusState 0 = 0 ∧ on.admState = admUnloaded ∧ (adm 3).admState ≠ admUnloaded ∧
    [1, 2, 3, 4].all (fun c => (commanded c true).wf && !(commanded c true).mcHalted && decide ((commanded c true).sec.cmd = some ⟨c, true, 0⟩) &&
      decide ((commanded c true).pwr.waiting = none)) = true ∧ (commanded 3 false).sec.cmd = some ⟨3, false, 0⟩ ∧
    (commanded 2 true).power ≤ 1 ∧ 2 ≤ ((commanded 2 true).setFld pwrStatusState 0 3).power ∧
    ((commanded 2 true).setFld pwrStatusState 0 3).sec.cmd = some ⟨2, true, 0⟩ ∧ ((commanded 2 true).setFld pwrStatusState 0 3).wf = true ∧
    (commanded 5 true).sec.cmd = some ⟨5, true, 0⟩ ∧ on.sec.zero = none ∧ (zeroing true true).wf = true ∧
    (zeroing true true).sec.zero = some ⟨true, true⟩ ∧ (zeroing false false).sec.zero = some ⟨false, false⟩ := by
  decide +kernel

/-- The first and the last byte of the regions, and a byte just below and just above. -/
theorem witness_ZeroisedBytes : ((zeroing true true).setFld cfgSpcapCapGib 0 16).keyAddr (memKey 16 2793472) = some (2 ^ 26) ∧
    ((zeroing true true).setFld cfgSpcapCapGib 0 16).keyAddr (memKey 23 8388607) = some (3 * 2 ^ 26 - 1) ∧
    ((zeroing true true).setFld cfgSpcapCapGib 0 16).keyAddr (memKey 15 2797567) = some (2 ^ 26 - 1) ∧
    ((zeroing true true).setFld cfgSpcapCapGib 0 16).keyAddr (memKey 0 8388608) = some (3 * 2 ^ 26) := by
  decide +kernel

/-- A command in progress, without PRESENCE. -/
def busyAlone : State := (commanded 2 false).setFld secStatePresence 0 0

theorem witness_PresenceAndItsCommands : ((on.setFld secStatePresence 0 1).wf = true ∧ (on.setFld secStatePresence 0 1).accepts .cp .secPcmd 0 = true ∧
    2 ^ 24 - 1 < 2 ^ 24 ∧ (on.setFld secStatePresence 0 1).flag secStatePresence 0 = true ∧ (on.setFld secStatePresence 0 1).flag secStateBusy 0 = false ∧
    (on.setFld secStatePresence 0 1).security = secOpen ∧ ((on.setFld secStatePresence 0 1).setFld secStateState 0 secSealed).security ≠ secOpen ∧
    ((on.setFld secStatePresence 0 1).setFld secStateState 0 secSealed).security ≠ secLockdown ∧
    ((on.setFld secStatePresence 0 1).setFld secStateState 0 secSealed).accepts .cp .secPcmd 0 = true ∧
    ((on.setFld secStatePresence 0 1).setFld secStateState 0 secLockdown).security = secLockdown ∧
    ((on.setFld secStatePresence 0 1).setFld secStateState 0 secLockdown).accepts .cp .secPcmd 0 = true) ∧
    (on.flag secStatePresence 0 = false ∧ on.fld secPcmdCode 0 = 0 ∧ on.accepts .cp .secPcmd 0 = true ∧ (commanded 2 true).flag secStateBusy 0 = true ∧
    (commanded 2 true).flag secStatePresence 0 = true ∧ (commanded 2 true).accepts .cp .secPcmd 0 = true ∧
    busyAlone.flag secStateBusy 0 = true ∧ busyAlone.flag secStatePresence 0 = false ∧ busyAlone.accepts .cp .secPcmd 0 = true ∧ on.aonRuns = true) ∧
    (∀ c, (commanded 2 false).sec.cmd = some c → c.presence = false) ∧ (commanded 2 true).sec.cmd = some ⟨2, true, 0⟩ ∧
    (commanded 2 true).pwr.waiting = none :=
  ⟨by decide +kernel, by decide +kernel, fun c h => by cases h; rfl, rfl, rfl⟩

theorem witness_Tamper : on.wf = true ∧ on.boot ≠ .porHeld ∧ on.sec.cmd = none ∧ (commanded 2 true).pwr.waiting = none ∧ on.sealedNow = false ∧
    (on.setFld secStateState 0 secSealed).sealedNow = true ∧ (on.setFld secStateState 0 secSealed).alive = true ∧
    (on.setFld secStateState 0 secSealed).security = secSealed ∧ (on.setFld secStateState 0 secSealed).wf = true := by
  decide +kernel

/-- Debug level l in security state n, with presence p. -/
def debugged (l n p : Nat) : State := ((on.setFld dbgStatusLevel 0 l).setFld secStateState 0 n).setFld secStatePresence 0 p

theorem witness_DebugAndControllerDebug : on.wf = true ∧ on.accepts .tap .dbgCtrl 0 = true ∧ on.security = secOpen ∧
    (debugged 2 secLockdown 0).accepts .cp .dbgCtrl 0 = true ∧ 1 < (debugged 2 secLockdown 0).debugLevel ∧
    (debugged 0 secSealed 1).security = secSealed ∧ (debugged 0 secSealed 1).flag secStatePresence 0 = true ∧
    (debugged 0 secSealed 1).accepts .cp .dbgCtrl 0 = true ∧ (debugged 0 secSealed 0).accepts .tap .dbgCtrl 0 = true ∧
    (debugged 0 secSealed 0).flag secStatePresence 0 = false ∧ (debugged 0 secSealed 0).debugLevel ≤ 1 ∧
    (debugged 0 secLockdown 0).security = secLockdown ∧ (debugged 0 secLockdown 0).debugLevel ≤ 2 ∧ (debugged 2 0 0).debugLevel = 2 ∧
    (debugged 2 0 0).accepts .tap .dbgCtrl 0 = true ∧
    (debugged 2 0 0).wf = true ∧ (debugged 2 0 0).pwr.waiting = none ∧ (debugged 2 0 0).flag mapChainIsHead 0 = false ∧
    (debugged 2 0 0).thermalOn = false ∧ ((debugged 2 0 0).setFld dbgStatusMcHalted 0 1).mcHalted = true ∧
    (debugged 2 0 0).mcHalted = false ∧ (debugged 2 0 0).power = 0 ∧ (debugged 2 0 0).admState = admUnloaded ∧ (debugged 2 0 0).security = secOpen ∧
    (debugged 2 secSealed 0).security ≠ secOpen ∧ (debugged 2 secSealed 0).alive = true ∧ State.reset.boot = .porHeld ∧ on.boot ≠ .porHeld := by
  decide +kernel

/-! ## Witnesses: images -/

/-- The least image that is admitted: a header (R281), nine empty sections (R282) and the SHA-384 digest of the rest. -/
def leastBytes : List Byte :=
  toBytesLE 64 0x30000000700000000000001400009000147465A45 ++
    (toBytesLE 48 0x64d874f57b0c1d8f04f36f6a5684c2a61217f3cd7c7c775def67439c3a1370f124a101f67d5a1645789cdb71fc8e6404).reverse ++
    List.replicate 16 0 ++
    [1, 2, 3, 4, 5, 6, 8, 10, 14].flatMap (fun t => toBytesLE 8 t ++ toBytesLE 4 320 ++ toBytesLE 4 0) ++ List.replicate 48 0

def least : Image := { bare with bytes := leastBytes }

/-- An engine that checks the least image; and one with a wrong feed strap. -/
def checking : State :=
  { ((on.setFld cfgAdmitState 0 admAdmitting).setFld cfgSpcapCapGib 0 16).setFld cfgRegionSize 0 1 with mem := cellPut [] 0 leastBytes }

theorem test_least_admitted : checking.admissionFails (readImage least) = [] := by decide +kernel

theorem test_feed_refused : (checking.setFld idStrapFeedId 0 1).admissionFails (readImage least) = [⟨8, 0, 0⟩] := by decide +kernel

theorem witness_AdmissionDispatchUnload : on.accepts .cp .cfgCtrl 0 = true ∧ on.admState = admUnloaded ∧ on.flag dbgStatusScanned 0 = false ∧
    (on.setFld dbgStatusScanned 0 1).flag dbgStatusScanned 0 = true ∧ (on.setFld dbgStatusScanned 0 1).accepts .cp .cfgCtrl 0 = true ∧
    (adm admRunning).admState ≠ admUnloaded ∧ (adm admRunning).admState ≠ admLoaded ∧ (adm admRunning).admState ≠ admHalted ∧
    (adm admRunning).accepts .cp .cfgCtrl 0 = true ∧ (has least admLoaded).wf = true ∧ (has least admLoaded).accepts .cp .cfgCtrl 0 = true ∧
    (has least admLoaded).admState = admLoaded ∧ on.wf = true ∧ (adm admRunning).wf = true ∧ (has least admHalted).admState = admHalted ∧ checking.wf = true ∧
    checking.admState = admAdmitting ∧ checking.mcHalted = false ∧ checking.storeReads = false ∧ 128 ≤ least.bytes.length ∧
    min (headerOf least.bytes).bytes 268435456 ≤ least.bytes.length ∧
    checking.region0Bytes (4096 * checking.fld cfgImageOffset 0) least.bytes.length = least.bytes ∧
    (checking.setFld idStrapFeedId 0 1).admissionFails (readImage least) ≠ [] ∧ (checking.setFld idStrapFeedId 0 1).wf = true := by
  decide +kernel

/-! ## Witnesses: mode changes, contexts, tokens, trackers -/

/-- A 64-byte pass entry of core 0: one row and column, FIRST and LAST. -/
def passWord : BitVec 512 := fields [(0, kPass), (176, 1), (177, 1), (32, 3), (44, 1), (45, 1)]

/-- One context on core 0: its control queue with the given entries, its side queue with the given ones. -/
def jobOf (control side : List (BitVec 512)) : Image :=
  { bare with
    cores := [⟨0, false, some 0, none⟩]
    contexts := [⟨0, 0⟩]
    panels := [⟨0, 0, 0, 1, 16, .whole, 255⟩]
    tokens := [⟨0, 0, .job, .doorbell⟩, ⟨0, 1, .job, .remote⟩, ⟨0, 2, .mb, .fx .layerDone 3⟩, ⟨0, 3, .mb, .entry⟩]
    wiring := [⟨0, 0, 5, 1, 2⟩]
    tiles := [⟨0, 0, 0, control⟩, ⟨0, 0, 1, side⟩]
    modes := [(7, .seed 5), (8, .reshard 1), (9, .variant [(3, 1)])]
    buckets := [⟨128, 1, 1, 4096, 4096, [⟨0, 8192, 512⟩], [⟨4, 0, .keg, 0, 512, 0, ⟨0, 1, 0⟩⟩, ⟨5, 0, .recomp, 0, 512, 0, ⟨0, 1, 0⟩⟩], [⟨6, 0, 512, ⟨0, 1, 0⟩⟩]⟩]
    descs := [fields [(0, 0), (42, 1), (52, fmtG16C), (64, 128), (88, 2), (112, 1), (136, 1), (160, 1), (184, 2), (224, 256)]] }

/-- A job that runs, its engine the head of a Chain of one. -/
def job : State := (has (jobOf [] []) admRunning).setFld mapChainIsHead 0 1

/-- The same with a Chain of two. -/
def job2 : State := job.setFld mapChainSizeM1 0 1

/-- The head with a proposal in its hands. -/
def proposing (n : Nat) : State := { job with chain := { job.chain with pending := some ⟨3, 7, 1, []⟩, proposals := List.replicate n (2, 7) } }

theorem witness_ProposalsAndModeCommit : (job.wf = true ∧ job.accepts .cp .cfgMprop 0 = true ∧ job.admState = admRunning ∧ on.admState ≠ admRunning ∧
    on.accepts .cp .cfgMprop 0 = true ∧ job.headRuns = true ∧ (proposing 15).headRuns = true ∧ 16 ≤ (proposing 15).proposalCount ∧
    (proposing 14).headRuns = true ∧ (proposing 14).proposalCount < 16 ∧ (proposing 14).chain.pending.isSome = true ∧ job.chain.pending = none ∧
    job.chain.proposals = [] ∧ (proposing 0).headRuns = true ∧ (proposing 0).chain.pending = some ⟨3, 7, 1, []⟩ ∧ (proposing 0).chain.proposals = [] ∧
    (proposing 0).wf = true ∧ job.rank = 0 ∧ 1 ≠ job.rank) ∧
    job.onChain = true ∧ job.works = true ∧ job.modeEntry 6 = none ∧ (job.modeEntry 7).isSome = true ∧ job.reshardStaged = false ∧
    ({ job with chain := { job.chain with staged := some (8, 1) } } : State).reshardStaged = true ∧ job.chain.staged = none ∧
    (({ job with trk := [{ stat := ⟨0, 0, 0, 1, false, false, 1, 0, 0, 0, 3, false, 0, 0, 0, false, 0⟩, flagged := true }] } : State).setFld
      sclCfgAutoWiden 0 1).mayWiden 9 = true := by
  decide +kernel

/-- Context 0 in a state, with its queues, flight and save area. -/
def ctxIn (s : State) (st : Nat) (x : Ctx) : State := { s.setFld seqStatusState 0 st with ctxs := x :: List.replicate 63 {} }

theorem witness_PreemptionAndTokens : (ctxIn job ctxRunning {}).wf = true ∧ (ctxIn job ctxRunning {}).accepts .cp .seqCtrl 0 = true ∧
    (ctxIn job ctxRunning {}).ctxState 0 = ctxRunning ∧ 0 < (ctxIn job ctxRunning {}).ctxs.length ∧ job.ctxState 63 ≠ ctxRunning ∧
    job.ctxState 63 ≠ ctxRestarting ∧ job.accepts .cp .seqCtrl 63 = true ∧ (ctxIn job ctxPreempted { saved := [(1, {})] }).ctxState 0 = ctxPreempted ∧
    (ctxIn job ctxPreempted { saved := [(1, {})] }).accepts .cp .seqCtrl 0 = true ∧
    (∀ m ∈ (ctxIn job ctxPreempted { saved := [(1, {})] }).chain.moves, m.ctx ≠ 0) ∧
    ((ctxIn job ctxPreempted {}).ctx 0).saved = [] ∧ (ctxIn job ctxPreempted {}).ctxState 0 = ctxPreempted ∧
    (ctxIn job ctxPreempted {}).accepts .cp .seqCtrl 0 = true ∧ (ctxIn job ctxPreempting {}).ctxState 0 = ctxPreempting ∧
    (ctxIn job ctxPreempting {}).mayRest 0 = true ∧ (ctxIn job ctxPreempting {}).saveArea 0 + 2 ^ 20 ≤ 2 ^ 42 ∧ job.accepts .cp .seqDoorbell 0 = true ∧ fldGet seqDoorbellToken (field seqDoorbellToken 4095) = 4095 ∧
    job.tokDecl 0 4095 = none ∧ (job.tokDecl 0 0).map (·.source) = some .doorbell ∧ (job.setTok 0 0 65535).tok 0 0 = 65535 ∧
    (job.setTok 0 0 65535).wf = true ∧ (job.tokDecl 0 1).map (·.source) = some .remote ∧ job.usedCtx.contains 0 = true ∧
    job.usedCtx.contains 63 = false ∧ job.image.isSome = true ∧ job.onChain = true ∧ on.onChain = false := by
  decide +kernel

/-- A context at rest whose side still holds a FILLING tile of one row and column. -/
def resting : State :=
  { ctxIn job ctxPreempting { queues := [{ ptr := 3 }, {}] } with
    tiles := { state := .filling, queue := 1, rows := 1, cols := 1, k := 1 } :: List.replicate 511 {} }

/-- A hole reads good. -/
theorem holes_good (s : State) (h : s.dataEnd = 0) (hb : s.bad = []) (a : Nat) : (s.readLoc (some ⟨0, a⟩)).2 = false := by
  simp only [State.readLoc, State.readCode, State.readUnit, State.mapAddr, h, hb]
  split <;> simp

/-- Its save area ends below the top of attached memory; and where all is a hole every address reads good. -/
theorem witness_PreemptionAndTokens_save : (resting.wf = true ∧ resting.mayRest 0 = true ∧ resting.ctxState 0 = ctxPreempting ∧
    (resting.tile 0).state = .filling ∧ (∃ x ∈ resting.ctxSideList 0, sideNo x.1 x.2 = 0 / 2) ∧
    resting.saveArea 0 + (bytesAt 0 (resting.saveArea 0) (resting.saveBytes 0 [(0, resting.tile 0)]) false).length ≤ 2 ^ 42) ∧
    ∀ a, ((ctxIn job ctxPreempted { saved := [(1, {})] }).readLoc (some ⟨0, a⟩)).2 = false :=
  ⟨by decide +kernel, holes_good _ (by decide +kernel) (by decide +kernel)⟩

/-- Tracker entry of tensor 9. -/
def tracked : Track := { stat := ⟨9, kindWgrad, 0, 1, false, false, 1, 0, 0, 0, 3, false, 0, 0, 0, false, 0⟩ }

/-- The next step's FX record with a credit, an amax record before it. -/
def measured (st : Nat) : State :=
  let s := has bare st
  { s with trk := [tracked], fx := { s.fx with credits := [0, 0, 0, 1], amax := [(9, 0x3F800000)] } }

theorem witness_TrackerCommandsAndAmaxRecords : on.wf = true ∧ on.accepts .cp .sclCtrl 0 = true ∧
    (({ on with trk := [tracked] } : State).setFld sclSelTnum 0 9).accepts .cp .sclCtrl 0 = true ∧
    (({ on with trk := [tracked] } : State).setFld sclSelTnum 0 9).wf = true ∧
    ((({ on with trk := [tracked] } : State).setFld sclSelTnum 0 9).trk.any fun e => e.stat.tnum ==
      (({ on with trk := [tracked] } : State).setFld sclSelTnum 0 9).fld sclSelTnum 0) = true ∧
    (on.trk.any fun e => e.stat.tnum == on.fld sclSelTnum 0) = false ∧
    (measured admRunning).fxOn = true ∧ (measured admRunning).wf = true ∧ (measured admRunning).fx.credits.getD 3 0 = 0 + 1 ∧
    (measured admRunning).curStep = 0 ∧ (measured admRunning).admState ≠ admDispatching ∧ (measured admDispatching).admState = admDispatching ∧
    (measured admDispatching).fxOn = true ∧ (measured admDispatching).curStep < 2 ^ 32 ∧ (measured admDispatching).wf = true ∧
    (measured admDispatching).fx.credits.getD 3 0 = 0 + 1 ∧
    (2 ^ 32 - 1 : Nat) ≠ ((measured admRunning).curStep + 1) % 2 ^ 32 ∧ (2 ^ 32 - 1 : Nat) ≠ (measured admRunning).curStep ∧
    (∃ a ∈ (measured admRunning).fx.amax, ∃ e ∈ (measured admRunning).trk, e.stat.tnum = a.1 ∧ e.used = true) ∧
    ({ on with epoch := 0xFFFFFFFF } : State).curStep = 2 ^ 32 - 1 := by
  decide +kernel

/-! ## Witnesses: ports, restore, halts, slow reads -/

/-- The ring bypassed through ports 0 and 1, which have looped. -/
def looped : State :=
  { (on.setFld mapRingBypPorts 0 3).setFld mapRingBypAsserted 0 1 with fur := [{ looped := true }, { looped := true }] ++ List.replicate 14 {} }

/-- A snapshot whose COMMIT records wait for SEAL's last writes. -/
def inSeal (s : State) : State := { s with snp := { s.snp with active := true, step := 3, sealing := some true } }

/-- The snapshot section of a group of four. -/
def group4 : Bushel := ⟨4, 0, 0, [[0, 1, 2, 3]], 1, 3, 0, 65536, 10, 0⟩

/-- A job with a Bushel, in CFG.ADMIT.STATE n. -/
def safe (n : Nat) : State := has { jobOf [] [] with bushel := some group4 } n

/-- The same with port 15 used and not yet UP. -/
def safe15 : State :=
  has { jobOf [] [] with
    bushel := some group4
    links := ⟨[⟨15, 0, false, 1, 2, [(5, none)], [16, 16, 16, 16], []⟩], [], [], [], [], [], [], [], [], []⟩ } admHalted

theorem witness_PortRingRestoreAndHaltCommands : (on.wf = true ∧ on.accepts .cp .furCtrl 15 = true ∧ 15 < on.fur.length ∧ on.retimed 15 = none ∧
    warm.wf = true ∧ warm.accepts .cp .furCtrl 1 = true ∧ (warm.retimed 1).isSome = true ∧
    on.accepts .cp .mapRing 0 = true ∧ on.fur.length = 16 ∧ on.loopOk = false ∧ looped.loopOk = true ∧ looped.flag mapRingBypAsserted 0 = true ∧
    looped.wf = true ∧ looped.accepts .cp .mapRing 0 = true ∧ looped.fur.length = 16 ∧ (looped.fld mapRingBypPorts 0).testBit 1 = true ∧
    looped.retimed 1 = none ∧
    (looped.fld mapRingBypPorts 0).testBit 15 = false ∧ (on.setFld mapRingBypAsserted 0 0).flag mapRingBypAsserted 0 = false ∧
    (on.setFld mapRingBypAsserted 0 0).accepts .cp .mapRing 0 = true ∧ (on.setFld mapRingLock 0 1).accepts .cp .mapRing 0 = true ∧
    fldGet mapRingJoin (field mapRingBypPorts 6) = 0 ∧ fldGet mapRingLeave (field mapRingBypPorts 6) = 0 ∧ on.flag mapRingLock 0 = false ∧
    (on.setFld mapRingLock 0 1).flag mapRingLock 0 = true) ∧ (safe admHalted).wf = true ∧ (safe admHalted).accepts .cp .snpCtrl 0 = true ∧
    (safe admHalted).bushel = some group4 ∧ (safe admHalted).mayRestore = true ∧ (safe admHalted).snp.sealing = none ∧
    ((safe admHalted).usedPorts.all fun n => (safe admHalted).linkState n == linkUp) = true ∧
    safe15.bushel = some group4 ∧ safe15.mayRestore = true ∧ (safe15.usedPorts.all fun n => safe15.linkState n == linkUp) = false ∧
    safe15.accepts .cp .snpCtrl 0 = true ∧ safe15.wf = true ∧
    on.bushel = none ∧ on.accepts .cp .snpCtrl 0 = true ∧ (safe admRunning).mayRestore = false ∧ (safe admRunning).admState = admRunning ∧
    (safe admRunning).accepts .cp .snpCtrl 0 = true ∧ (safe admRunning).snp.sealing = none ∧ (inSeal (safe admRunning)).snp.sealing.isSome = true ∧
    (inSeal (safe admRunning)).accepts .cp .snpCtrl 0 = true ∧ (inSeal (safe admRunning)).onChain = true ∧ (safe admRunning).wf = true ∧
    (safe admDispatching).admState = admDispatching ∧ on.admState ≠ admRunning ∧ on.admState ≠ admDispatching ∧ (safe admRunning).onChain = true := by
  decide +kernel

/-- A slow read that waits, under the selection in force. -/
def slowly : State := { on with slow := [⟨.sclEntry, 0, 3, .cp, on.selNow .sclEntry 0⟩] }

/-- A read at an address that names no register, one of a status register from either source, one of a slow register; an answer. -/
theorem witness_SlowReadsAndLogSelection : (regAt (regAddr .sclEntry 0) = some (.sclEntry, 0) ∧ on.alive = true ∧ on.wf = true ∧ 15 < 16 ∧
    regAt (2 ^ 24 - 8) = none ∧ on.tapReads ((regAt (2 ^ 24 - 8)).map (·.1)) = false ∧
    regAt (regAddr .secState 0) = some (.secState, 0) ∧ selectorOf .secState = none ∧ on.tapReads (some .secState) = true ∧
    (selectorOf .sclEntry).isSome = true ∧ on.readsZero .sclEntry 0 = false ∧ regAt (regAddr .seqToken 63) = some (.seqToken, 63) ∧
    (selectorOf .seqToken).isSome = true ∧ on.readsZero .seqToken 63 = false ∧ (base .e128).readsZero .seqToken 63 = true) ∧
    (on.slow = [] ∧ slowly.alive = true ∧ slowly.slow = ⟨.sclEntry, 0, 3, .cp, slowly.selNow .sclEntry 0⟩ :: []) ∧
    on.accepts .cp .mgtLogSel 0 = true ∧
    (on.setFld mgtLogSelLoaded 0 0).fld mgtLogSelLoaded 0 = 0 ∧ (on.setFld mgtLogSelLoaded 0 0).wf = true ∧
    (on.setFld mgtLogSelLoaded 0 0).log.ring.find? (fun e => e.seq == on.fld mgtLogSelSeq 0) = none ∧
    (({ on with log := { ring := [⟨9, 2, 0, 0, 3, 4, 0, 0, 0⟩] } } : State).setFld mgtLogSelSeq 0 9).log.ring.find?
      (fun e => e.seq == (({ on with log := { ring := [⟨9, 2, 0, 0, 3, 4, 0, 0, 0⟩] } } : State).setFld mgtLogSelSeq 0 9).fld mgtLogSelSeq 0) =
        some ⟨9, 2, 0, 0, 3, 4, 0, 0, 0⟩ := by
  decide +kernel

/-! ## Witnesses: memory and the forward-exchange interface -/

/-- Both stacks of an engine with 16 GiB a port. -/
def stacked : State := on.setFld cfgSpcapCapGib 0 16

/-- A write to attached memory, one to each SRAM space, and one at the last key. -/
def fourWrites : List ByteWrite := [⟨⟨0, 0⟩, 1, false⟩, ⟨⟨1, 0⟩, 2, false⟩, ⟨⟨2, 64⟩, 3, true⟩, ⟨⟨3, 2 ^ 42 - 1⟩, 4, false⟩]

theorem witness_SymbolCode : (List.replicate 64 (0 : Byte)).length = 64 ∧ 67 < 68 ∧ (0x80 : Byte) ≠ 0 := by decide

theorem witness_BatchOfWrites : stacked.wf = true ∧ (∀ x ∈ fourWrites, x.loc.space < 4 ∧ x.loc.key < 2 ^ 42) ∧
    fourWrites.Pairwise (fun x y => x.loc ≠ y.loc) ∧ stacked.mapAddr 0 = some (0, 0) ∧ stacked.portFailed 0 = false ∧
    (∀ x ∈ fourWrites, x.loc ≠ ⟨0, 63⟩) := by
  decide +kernel

/-- The job with credits of a class. -/
def credit (s : State) (cls n : Nat) : State := { s with fx := { s.fx with credits := [0, 0, 0, 0].set cls n } }

/-- Micro-batch 2 of the step open in bucket 0, with 100 tokens, and refused micro-batch 5. -/
def opened : State := { job with mbs := [⟨0, 5, 200, none, none, false⟩, ⟨0, 2, 100, some 0, some 0, true⟩] }

/-- The same before the seed has come: the beats of FX are its own. -/
def owning : State := { job with mbs := [⟨0, 5, 200, none, none, false⟩, ⟨0, 2, 100, some 0, some 0, false⟩] }

/-- A beat of the refused micro-batch that waits before its record has named it, in class 0 or 2. -/
def waiting (cls : Nat) : State :=
  let s := credit opened 3 1
  let b : Beat := ⟨4, 0, List.replicate 256 1, none, false⟩
  { s with fx := { s.fx with wait0 := if cls = 0 then [b] else [], wait2 := if cls = 2 then [b] else [] } }

theorem witness_DiscardedBeatsAndCredits : opened.wf = true ∧ (List.replicate 256 (0 : Byte)).length = 256 ∧ opened.fxOn = true ∧
    opened.fx.credits.getD 0 0 = 0 ∧ opened.fx.credits.getD 1 0 = 0 ∧ opened.fx.credits.getD 2 0 = 0 ∧
    (waiting 0).wf = true ∧ (waiting 0).fxOn = true ∧ (waiting 0).fx.credits.getD 3 0 = 0 + 1 ∧ (waiting 0).mbRefused 0 5 = true ∧
    (waiting 0).fx.wait0 = [⟨4, 0, List.replicate 256 1, none, false⟩] ∧ (waiting 0).fx.pads = [] ∧ (waiting 0).fx.amax = [] ∧
    (waiting 2).wf = true ∧ (waiting 2).fxOn = true ∧ (waiting 2).fx.credits.getD 3 0 = 0 + 1 ∧ (waiting 2).mbRefused 0 5 = true ∧
    (waiting 2).fx.wait2 = [⟨4, 0, List.replicate 256 1, none, false⟩] ∧ (waiting 2).fx.seedPads = [] := by
  decide +kernel

/-- The bucket of the job. -/
def bucket0 : Bucket := ⟨128, 1, 1, 4096, 4096, [⟨0, 8192, 512⟩], [⟨4, 0, .keg, 0, 512, 0, ⟨0, 1, 0⟩⟩, ⟨5, 0, .recomp, 0, 512, 0, ⟨0, 1, 0⟩⟩], [⟨6, 0, 512, ⟨0, 1, 0⟩⟩]⟩

/-- Stash entry 4 in use by another micro-batch; a stream of two beats for entry 5 into the ring. -/
def busyFx : State := { owning with fx := { owning.fx with
  credits := [1, 1, 1, 1], holding := [⟨false, 4, 0, 0, 1⟩, ⟨true, 6, 0, 0, 1⟩], streams := [⟨0, 1, 0, 0, 2, 5, 0, 0, 2, []⟩], rings := [⟨0, 8192, 512, 0, []⟩] } }

/-- The same with a micro-batch of the bucket's whole length, whose streams take no padding. -/
def wholeFx : State := { busyFx with mbs := [⟨0, 2, 128, some 0, some 0, false⟩] }

/-- A beat that waits for its record. -/
def beatAt (entry beat : Nat) : Beat := ⟨entry, beat, List.replicate 256 1, none, false⟩

/-- A job without tokens, micro-batch 2 of the bucket's whole length open, beats that wait in class 0 and in class 2. -/
def arriving (h : List Holding) (w0 w2 : List Beat) : State :=
  let s := has { jobOf [] [] with tokens := [] } admRunning
  { s with mbs := [⟨0, 2, 128, some 0, some 0, false⟩], fx := { s.fx with credits := [1, 1, 1, 1], holding := h, wait0 := w0, wait2 := w2 } }

/-- A beat with no micro-batch expected, with one that is, and with its entry held. -/
theorem witness_StashSeedAndRecomputeBeats : (List.replicate 256 (0 : Byte)).length = 256 ∧ (credit job 0 1).wf = true ∧ (credit job 0 1).fxOn = true ∧
    (credit job 0 1).fx.credits.getD 0 0 = 0 + 1 ∧ (credit job 0 1).expected = none ∧
    (credit owning 0 1).wf = true ∧ (credit owning 0 1).fxOn = true ∧ (credit owning 0 1).expected = some (0, 2) ∧
    (credit owning 0 1).pushHeld ⟨4, 0, List.replicate 256 0, none, false⟩ 0 2 = false ∧ (credit owning 0 1).inWindow 0 2 = true ∧
    busyFx.wf = true ∧ busyFx.fxOn = true ∧ busyFx.fx.credits.getD 0 0 = 0 + 1 ∧ busyFx.expected = some (0, 2) ∧
    busyFx.pushHeld ⟨4, 0, List.replicate 256 0, none, false⟩ 0 2 = true ∧ (credit owning 2 1).fx.credits.getD 2 0 = 0 + 1 ∧
    (credit owning 2 1).fxOn = true ∧ (credit owning 2 1).wf = true ∧ (credit owning 2 1).expected = some (0, 2) ∧
    (credit owning 2 1).heldByOther true 6 0 0 2 = false ∧ busyFx.heldByOther true 6 0 0 2 = true ∧ busyFx.fx.credits.getD 2 0 = 0 + 1 := by
  decide +kernel

/-- A push beyond its entry, one into a held entry, one that is written; a seed beat likewise. -/
theorem witness_StashSeedAndRecomputeBeats_written :
    [arriving [] [beatAt 4 2] [], arriving [⟨false, 4, 0, 0, 1⟩] [beatAt 4 1] [], arriving [] [beatAt 4 1] [], arriving [] [] [beatAt 6 2],
      arriving [⟨true, 6, 0, 0, 1⟩] [] [beatAt 6 1], arriving [] [] [beatAt 6 1]].all (fun s => s.wf && s.fxOn &&
        decide (s.fx.credits.getD 3 0 = 0 + 1 ∧ s.mbRec 0 2 = some ⟨0, 2, 128, some 0, some 0, false⟩ ∧ s.buckets[0]? = some bucket0 ∧
          s.tokDecls = [] ∧ s.fx.pads = [] ∧ s.fx.seedPads = [] ∧ s.fx.amax = [])) = true ∧
    bucket0.len ≤ 128 ∧ (beatAt 4 1).own = none ∧ (arriving [] [beatAt 4 2] []).fx.wait0 = [beatAt 4 2] ∧ (arriving [] [] [beatAt 6 2]).fx.wait0 = [] ∧
    (arriving [] [] [beatAt 6 2]).fx.wait2 = [beatAt 6 2] ∧ stashOf bucket0 4 = some ⟨4, 0, .keg, 0, 512, 0, ⟨0, 1, 0⟩⟩ ∧ 512 ≤ 256 * 2 ∧
    256 * 1 < 512 ∧ (arriving [⟨false, 4, 0, 0, 1⟩] [beatAt 4 1] []).heldByOther false 4 (stashSet bucket0 ⟨4, 0, .keg, 0, 512, 0, ⟨0, 1, 0⟩⟩ 0).1 0 2 = true ∧
    (arriving [] [beatAt 4 1] []).heldByOther false 4 (stashSet bucket0 ⟨4, 0, .keg, 0, 512, 0, ⟨0, 1, 0⟩⟩ 0).1 0 2 = false ∧
    (stashSet bucket0 ⟨4, 0, .keg, 0, 512, 0, ⟨0, 1, 0⟩⟩ 0).2 + 256 * 1 + (beatAt 4 1).data.length ≤ 2 ^ 42 ∧
    seedOf bucket0 6 = some ⟨6, 0, 512, ⟨0, 1, 0⟩⟩ ∧ (arriving [] [] [beatAt 6 1]).descsDiffer [0] = false ∧
    (arriving [⟨true, 6, 0, 0, 1⟩] [] [beatAt 6 1]).heldByOther true 6 0 0 2 = true ∧ (arriving [] [] [beatAt 6 1]).heldByOther true 6 0 0 2 = false := by
  decide +kernel

/-- A recompute beat that a stream owes, and one that none owes. -/
theorem witness_StashSeedAndRecomputeBeats_recompute : busyFx.fx.credits.getD 1 0 = 0 + 1 ∧
    (busyFx.fx.streams.find? fun y => y.entry == 5 && decide (2 < y.beats) && !y.landed.contains 2) = none ∧
    (busyFx.fx.streams.find? fun y => y.entry == 5 && decide (1 < y.beats) && !y.landed.contains 1) = some ⟨0, 1, 0, 0, 2, 5, 0, 0, 2, []⟩ ∧
    (busyFx.fx.rings.find? fun r => r.ring == 0) = some ⟨0, 8192, 512, 0, []⟩ ∧ 8192 + 512 + 256 ≤ 2 ^ 42 ∧
    wholeFx.wf = true ∧ wholeFx.fxOn = true ∧ wholeFx.fx.credits.getD 1 0 = 0 + 1 ∧ wholeFx.fx.streams = busyFx.fx.streams ∧
    wholeFx.fx.rings = busyFx.fx.rings ∧ (∀ y ∈ wholeFx.fx.streams, (wholeFx.streamLen y).2.1 ≤ (wholeFx.streamLen y).2.2) := by
  decide +kernel

/-- The job with an FX record's credit while a re-shard runs. -/
def resharded : State := { credit opened 3 1 with chain := { opened.chain with reshard := some ⟨some 1, 0, [], false, []⟩ } }

theorem witness_MicroBatchOpensAndAttribution : ((credit opened 3 1).wf = true ∧ (credit opened 3 1).fxOn = true ∧
    (credit opened 3 1).fx.credits.getD 3 0 = 0 + 1 ∧ (credit opened 3 1).chain.reshard = none ∧ (credit opened 3 1).image = some (jobOf [] []) ∧
    (credit opened 3 1).admState = admRunning ∧ 0 = (credit opened 3 1).epoch.toNat ∧ (credit opened 3 1).mbRec 0 0 = none ∧
    (credit opened 3 1).mbRec 0 1 = none ∧ 0 < (jobOf [] []).nmb ∧
    ((jobOf [] []).buckets.findIdx? fun b => decide (128 ≤ b.len)) = some 0 ∧ (∀ b ∈ (jobOf [] []).buckets, b.len < 129) ∧
    (jobOf [] []).nmb ≤ 1 ∧ (∃ m ∈ (credit opened 3 1).mbs, m.acc.isSome = true) ∧ 1 = ((credit opened 3 1).curStep + 1) % 2 ^ 32 ∧
    resharded.wf = true ∧ resharded.fxOn = true ∧ resharded.fx.credits.getD 3 0 = 0 + 1 ∧ resharded.image.isSome = true ∧
    0 = resharded.curStep ∧ resharded.chain.reshard.isSome = true ∧
    2 ≠ (credit opened 3 1).curStep ∧ 2 ≠ ((credit opened 3 1).curStep + 1) % 2 ^ 32) ∧
    (credit opened 3 1).inWindow 0 2 = true ∧ (credit opened 3 1).inWindow 1 4000 = false ∧
    (credit opened 3 1).mbRefused 0 5 = true ∧ (credit opened 3 1).mbRefused 0 2 = false ∧
    (credit opened 3 1).tokDecls.filter (fun d => d.source == .fx .layerDone 3) = [⟨0, 2, .mb, .fx .layerDone 3⟩] ∧
    (∀ c ∈ List.range 64, ((credit opened 3 1).ctx c).running = false) ∧
    ((ctxIn (credit opened 3 1) ctxRunning { running := true, mbStep := 0, mbNum := 2 }).ctx 0).running = true ∧
    ((ctxIn (credit opened 3 1) ctxRunning { running := true, mbStep := 0, mbNum := 2 }).ctx 0).mbNum = 2 ∧
    (ctxIn (credit opened 3 1) ctxRunning { running := true, mbStep := 0, mbNum := 2 }).wf = true ∧
    (credit opened 3 1).mbRec 0 2 = some ⟨0, 2, 100, some 0, some 0, true⟩ ∧ (credit opened 3 1).mbRec 0 5 = some ⟨0, 5, 200, none, none, false⟩ ∧
    (credit opened 3 1).mbRec 0 9 = none ∧ (credit opened 3 1).fx.wait0 = [] ∧ (credit opened 3 1).fx.wait2 = [] ∧
    (credit opened 3 1).fx.pads = [] ∧ (credit opened 3 1).fx.seedPads = [] := by
  decide +kernel

/-! ## Witnesses: the sequencer -/

/-- Context 0 runs a micro-batch with the given entries in its control and side queues. -/
def running (control side : List (BitVec 512)) : State :=
  ctxIn ((has (jobOf control side) admRunning).setFld mapChainIsHead 0 1) ctxRunning { queues := [{}, {}], running := true }

/-- An entry of a kind alone, raising token 3 at its issue. -/
def entryOf (k : Nat) : BitVec 512 := fields [(0, k), (32, 3), (44, 1)]

theorem witness_WhenEntriesIssueAndBadPages :
    [kDrain, kMove, kReduce, kRaise, kWait, kRecomp, kEnd, kPass].all (fun k =>
      decide ((running [entryOf k] []).mayIssue 0 0 k = some (0, entryOf k, false)) && (running [entryOf k] []).wf) = true ∧
    (running [] [passWord]).mayIssue 0 1 kPass = some (0, passWord, false) ∧ (running [] [passWord]).staleOperand 0 1 passWord = false ∧
    (running [] [passWord]).mayPass 0 1 = some (0, passWord, false) ∧ (running [] [passWord]).wf = true ∧
    (running [] []).mayIssue 0 0 kEnd = none ∧ (running [] []).mayPass 0 1 = none ∧ 0 < (running [] []).ctxs.length := by
  decide +kernel

/-- The bytes of a header with one section, TILES, of one entry at offset 0. -/
def oneTile : List Byte :=
  toBytesLE 128 (2 ^ 48) ++ toBytesLE 8 3 ++ toBytesLE 4 0 ++ toBytesLE 4 64

/-- A job whose image's only page of TILES has another CRC than region 0 gives. -/
def mispaged : State :=
  { running [entryOf kEnd] [] with
    image := some { jobOf [] [] with bytes := oneTile, tiles := [⟨0, 0, 0, [entryOf kEnd]⟩] }
    pageCrc := [(0, 64, 1)] }

theorem witness_WhenEntriesIssueAndBadPages_page : mispaged.pageWrong 0 0 0 (entryOf kEnd) = true ∧
    mispaged.mayIssue 0 0 kEnd = some (0, entryOf kEnd, false) ∧ mispaged.wf = true ∧
    (running [entryOf kEnd] []).pageWrong 0 0 0 (entryOf kEnd) = false := by
  decide +kernel

/-- A RECOMP entry of stash entry 5, and the job that runs it in a micro-batch of the bucket's whole length. -/
def recompWord : BitVec 512 := fields [(0, kRecomp), (64, 5)]
def recomping : State := { running [recompWord] [] with mbs := [⟨0, 0, 128, some 0, some 0, true⟩] }

theorem witness_MicroBatchesAndEntriesIssue : (running [] [passWord]).mayPass 0 1 = some (0, passWord, false) ∧
    (running [] [passWord]).pageWrong 0 1 0 passWord = false ∧
    (running [] [passWord]).queueSide 0 1 = some 0 ∧ 0 < (running [] [passWord]).sides.length ∧ 1 < ((running [] [passWord]).ctx 0).queues.length ∧
    (running [] [passWord]).wf = true ∧ (running [] [entryOf kDrain]).mayIssue 0 1 kDrain = some (0, entryOf kDrain, false) ∧
    (running [] [entryOf kDrain]).pageWrong 0 1 0 (entryOf kDrain) = false ∧
    recomping.mayIssue 0 0 kRecomp = some (0, recompWord, false) ∧ recomping.wf = true ∧ recomping.pageWrong 0 0 0 recompWord = false ∧
    recomping.buckets[0]? = some bucket0 ∧ (recomping.ctx 0).bucket = 0 ∧ recomping.fx.streams = [] ∧
    (bucket0.stash.find? fun r => r.entry == recompEntry recompWord && r.place == .recomp) = some ⟨5, 0, .recomp, 0, 512, 0, ⟨0, 1, 0⟩⟩ ∧
    (bucket0.rings.find? fun r => r.ring == recompRing recompWord) = some ⟨0, 8192, 512⟩ ∧
    ((recomping.mbRec 0 0).map (·.n)).getD 0 = 128 ∧ bucket0.len ≤ 128 ∧ (recomping.ctx 0).mbStep = 0 ∧ (recomping.ctx 0).mbNum = 0 := by
  decide +kernel

theorem witness_MicroBatchesAndEntriesIssue_waits :
    (running [entryOf kRaise] []).mayIssue 0 0 kRaise = some (0, entryOf kRaise, false) ∧
    (running [entryOf kWait] []).mayIssue 0 0 kWait = some (0, entryOf kWait, false) ∧
    (running [entryOf kWait] []).pageWrong 0 0 0 (entryOf kWait) = false ∧ (running [entryOf kRaise] []).pageWrong 0 0 0 (entryOf kRaise) = false ∧
    (ctxIn (has (jobOf [entryOf kEnd] []) admRunning) ctxRunning { queues := [{}, { ended := true }], running := true }).mayIssue 0 0 kEnd =
      some (0, entryOf kEnd, false) ∧ (running [] []).nextMb 0 = none ∧ (ctxIn opened ctxIdle {}).works = true ∧
    (ctxIn opened ctxIdle {}).usedCtx.contains 0 = true ∧ (ctxIn opened ctxIdle {}).ctxState 0 = ctxIdle ∧ ((ctxIn opened ctxIdle {}).ctx 0).running = false ∧
    ((ctxIn opened ctxIdle {}).mbs.find? fun m => m.acc == some ((ctxIn opened ctxIdle {}).ctx 0).finished && m.seed && m.step == (ctxIn opened ctxIdle {}).epoch.toNat) =
      some ⟨0, 2, 100, some 0, some 0, true⟩ ∧ (ctxIn opened ctxIdle {}).wf = true := by
  decide +kernel

/-- No stream of the micro-batch takes padding. -/
theorem witness_MicroBatchesAndEntriesIssue_streams (y : Stream) (h : y ∈ recomping.fx.streams ∨ (y.step = (recomping.ctx 0).mbStep ∧ y.mb = (recomping.ctx 0).mbNum)) :
    (recomping.streamLen y).2.1 ≤ (recomping.streamLen y).2.2 := by
  have e : recomping.fx.streams = [] := rfl
  rw [e] at h
  rcases h with h | ⟨h1, h2⟩
  · cases h
  · unfold State.streamLen
    rw [h1, h2]
    decide +kernel

/-- A preempted context whose side holds a COMPLETE tile: its drain, the third entry, goes before the entries at its pointer. -/
def draining0 : State :=
  { ctxIn (has (jobOf [] [fields [(0, kPass), (176, 1)], fields [(0, kPass), (177, 1)], fields [(0, kDrain), (95, 4096)]]) admRunning) ctxPreempting
      { queues := [{}, {}], running := true } with
    tiles := { state := .complete, queue := 1, rows := 1, cols := 1, k := 2 } :: List.replicate 511 {} }

theorem witness_MicroBatchesAndEntriesIssue_early : draining0.wf = true ∧
    draining0.mayIssue 0 1 kDrain = some (2, fields [(0, kDrain), (95, 4096)], false) ∧
    draining0.pageWrong 0 1 2 (fields [(0, kDrain), (95, 4096)]) = false ∧
    draining0.nextEntry 0 1 = some (0, fields [(0, kPass), (176, 1)], false) ∧ draining0.flightOf 0 1 2 = none ∧
    (running [] [passWord]).flightOf 0 1 0 = none ∧ recomping.flightOf 0 0 0 = none ∧ (running [entryOf kEnd] []).fx.wait0 = [] ∧
    (running [entryOf kEnd] []).fx.wait2 = [] ∧ (running [entryOf kEnd] []).fx.pads = [] ∧ (running [entryOf kEnd] []).fx.seedPads = [] := by
  decide +kernel

/-- The same job with a reduction of layer 3's gradient between two engines. -/
def reducing (c : Collective) (control : List (BitVec 512)) : State :=
  ctxIn (has { jobOf control [] with links := ⟨[], [c], [], [], [], [], [], [], [], []⟩ } admRunning) ctxRunning { queues := [{}, {}], running := true }

/-- An all-reduce of layer 3 and a broadcast. -/
def allReduce : Collective := ⟨0, .allReduce, false, .s32, [0, 1], 0, 0, 0, some 3, 4, 0, 0, .data, [], [[false], [true]]⟩
def broadcast : Collective := ⟨0, .broadcast, false, .s32, [0, 1], 0, 0, 0, none, 4, 0, 0, .data, [], []⟩

/-- A reduction that has started, replayed. -/
def repeated : State :=
  let s := ctxIn (reducing broadcast [entryOf kReduce]) ctxRestarting { queues := [{ replayTo := some 1 }, {}], running := true }
  { s with chain := { s.chain with reduced := [0] } }

theorem witness_MovesAndReductionsIssue_again : repeated.mayIssue 0 0 kReduce = some (0, entryOf kReduce, true) ∧ repeated.wf = true ∧
    repeated.pageWrong 0 0 0 (entryOf kReduce) = false ∧ repeated.reduceStarts 0 0 = some true ∧ repeated.chain.reduced.contains 0 = true := by
  decide +kernel

theorem witness_MovesAndReductionsIssue : (running [entryOf kMove] []).pageWrong 0 0 0 (entryOf kMove) = false ∧
    (running [entryOf kMove] []).moverOf 0 0 0 = none ∧
    ({ running [entryOf kMove] [] with movers := List.replicate 15 (some { ctx := 0, queue := 1, index := 0 }) ++ [none] } : State).moverOf 0 0 0 = none ∧
    (running [entryOf kReduce] []).pageWrong 0 0 0 (entryOf kReduce) = false ∧ (reducing broadcast [entryOf kReduce]).chain.reduced = [] ∧
    (reducing broadcast [entryOf kReduce]).chain.colls = [] ∧
    (running [entryOf kMove] []).mayIssue 0 0 kMove = some (0, entryOf kMove, false) ∧
    (running [entryOf kMove] []).freeMover = some 0 ∧
    ({ running [entryOf kMove] [] with movers := List.replicate 16 (some { ctx := 0, queue := 1, index := 0 }) } : State).freeMover = none ∧
    ({ running [entryOf kMove] [] with movers := List.replicate 15 (some { ctx := 0, queue := 1, index := 0 }) ++ [none] } : State).freeMover = some 15 ∧
    ({ running [entryOf kMove] [] with movers := List.replicate 16 (some { ctx := 0, queue := 1, index := 0 }) } : State).mayIssue 0 0 kMove = some (0, entryOf kMove, false) ∧
    (reducing broadcast [entryOf kReduce]).mayIssue 0 0 kReduce = some (0, entryOf kReduce, false) ∧
    (reducing broadcast [entryOf kReduce]).reduceStarts 0 0 = some true ∧ (reducing broadcast [entryOf kReduce]).collective 0 = some broadcast ∧
    (running [entryOf kReduce] []).reduceStarts 0 0 = some false ∧ (running [entryOf kReduce] []).mayIssue 0 0 kReduce = some (0, entryOf kReduce, false) ∧
    (reducing allReduce [entryOf kReduce]).reduceStarts 0 0 = none ∧ (running [entryOf kMove] []).wf = true ∧ (reducing broadcast [entryOf kReduce]).wf = true := by
  decide +kernel

/-- A pass of the side queue in flight, its work done, its tile FILLING; and a move that is done on mover 15. -/
def flown : State :=
  { ctxIn job ctxRunning { queues := [{}, {}], running := true, flight := [{ queue := 1, index := 0, word := passWord, finished := true }] } with
    tiles := { state := .filling } :: List.replicate 511 {} }

def moved : State :=
  { ctxIn job ctxRunning { queues := [{}, {}], running := true, flight := [{ queue := 0, index := 4, word := entryOf kMove, finished := true }] } with
    movers := List.replicate 15 none ++ [some { ctx := 0, queue := 0, index := 4 }] }

/-- A move with its first window written and another left, and one that is preempted. -/
def halfway : State :=
  { ctxIn job ctxRunning { queues := [{}, {}], running := true, flight := [{ queue := 0, index := 4, word := entryOf kMove }] } with
    movers := some { ctx := 0, queue := 0, index := 4, next := some 1 } :: List.replicate 15 none }

theorem witness_EntriesComplete : flown.wf = true ∧ flown.flightOf 0 1 1 = none ∧ (flown.flightOf 0 1 0).isSome = true ∧ flown.outstanding 0 1 0 = false ∧
    flown.ctxState 0 ≠ ctxPreempted ∧ (∀ f, flown.flightOf 0 1 0 = some f → f.finished = true ∧ f.dead = false ∧ flown.ownParts f = false) ∧
    entRaiseAt passWord = true ∧ entRaiseEn passWord = true ∧ entKind passWord = kPass ∧ flown.queueSide 0 1 = some 0 ∧ (passOf passWord).last = true ∧
    flown.drainDone 0 1 0 (entTile passWord) = false ∧
    (flown.tile 0).state = .filling ∧ entRaiseAt (entryOf kMove) = false ∧ entKind (entryOf kMove) = kMove ∧
    moved.moverOf 0 0 4 = some 15 ∧ (moved.flightOf 0 0 4).isSome = true ∧ moved.outstanding 0 0 4 = false ∧
    (∀ f, moved.flightOf 0 0 4 = some f → f.finished = true ∧ f.dead = false ∧ moved.ownParts f = false) ∧
    moved.wf = true ∧ moved.fx.wait0 = [] ∧ moved.fx.wait2 = [] ∧ moved.fx.pads = [] ∧ moved.fx.seedPads = [] ∧ moved.chain.moves = [] ∧
    halfway.wf = true ∧ halfway.movesStand 0 = false ∧ halfway.moverOf 0 0 4 = some 0 ∧ (halfway.mover 0).bind (·.next) = some 1 ∧
    halfway.ctxState 0 ≠ ctxPreempted ∧ (∀ f, halfway.flightOf 0 0 4 = some f → f.finished = false) ∧
    (ctxIn halfway ctxPreempted {}).ctxState 0 = ctxPreempted ∧ (ctxIn halfway ctxPreempting (halfway.ctx 0)).movesStand 0 = true ∧
    (∀ f, (ctxIn halfway ctxPreempting (halfway.ctx 0)).flightOf 0 0 4 = some f → f.finished = false) := by
  decide +kernel

/-! ## Witnesses: the array and the accumulators -/

/-- Two passes of one tile, a drain of it, and a pass of rate 2: the entries of the side queue. -/
def sideWords : List (BitVec 512) :=
  [fields [(0, kPass), (176, 1)], fields [(0, kPass), (177, 1)], fields [(0, kDrain), (94, 1), (95, 4096)],
    fields [(0, kPass), (174, 1), (176, 1)]]

/-- The pass at entry i issued to side A of core 0, its tile as given. -/
def issuing (i : Nat) (t : Tile) : State :=
  { ctxIn ((has (jobOf [] sideWords) admRunning).setFld mapChainIsHead 0 1) ctxRunning
      { queues := [{}, { ptr := 3 }], running := true, flight := [{ queue := 1, index := i, word := sideWords.getD i 0 }] } with
    sides := { issued := [⟨0, 1, i, sideWords.getD i 0⟩] } :: List.replicate 255 {}
    tiles := t :: List.replicate 511 {} }

/-- The same where the tag has collided before. -/
def again (s : State) : State := { s with sides := { (s.side 0) with collided := [s.firstOf 0 1 0 0] } :: List.replicate 255 {} }

/-- Whether the hypotheses of PassesStart hold, with the answer of the tile lock. -/
def passReady (s : State) (i : Nat) (k : Lock) : Bool :=
  s.wf && !(s.side 0).poisoned && s.passesRun 0 && (s.side 0).issued == [⟨0, 1, i, sideWords.getD i 0⟩] && s.sides.length == 256 &&
    s.tiles.length == 512 && !s.operandsComing ⟨0, 1, i, sideWords.getD i 0⟩ (passOf (sideWords.getD i 0)) &&
    tileLock (s.tile 0) 0 1 (s.firstOf 0 1 i 0) (passOf (sideWords.getD i 0)).first == k && (s.flightOf 0 1 i).isSome

theorem witness_PassesStart : passReady (issuing 0 {}) 0 .run = true ∧ passReady (issuing 0 { state := .complete }) 0 .wait = true ∧
    passReady (issuing 0 { state := .filling, queue := 1 }) 0 .collide = true ∧
    passReady (again (issuing 0 { state := .filling, queue := 1 })) 0 .collide = true ∧
    ((again (issuing 0 { state := .filling, queue := 1 })).side 0).collided.contains ((again (issuing 0 {})).firstOf 0 1 0 0) = true ∧
    passReady (issuing 1 { state := .filling, queue := 1, rows := 1, cols := 1, k := 1 }) 1 .run = true ∧
    ({ state := .filling, queue := 1, rows := 1, cols := 1, k := 1 } : Tile).integer = false ∧ passReady (issuing 3 {}) 3 .run = true ∧
    1 < (passOf (sideWords.getD 3 0)).rate ∧ (passOf (sideWords.getD 3 0)).first = true ∧ 0 < (passOf (sideWords.getD 3 0)).rows ∧
    ((issuing 0 {}).readLane 0 (passOf (sideWords.getD 0 0)).sArgs false 1 0).codes.all (fun c => !(issuing 0 {}).bad.contains c) = true ∧
    ((issuing 0 {}).readLane 0 (passOf (sideWords.getD 0 0)).tArgs false 1 0).codes.all (fun c => !(issuing 0 {}).bad.contains c) = true ∧
    (passOf (sideWords.getD 0 0)).rows = 1 ∧ (passOf (sideWords.getD 0 0)).cols = 1 ∧ (passOf (sideWords.getD 0 0)).rate = 1 ∧
    (passOf (sideWords.getD 0 0)).first = true ∧ (passOf (sideWords.getD 1 0)).first = false ∧ 0 < (issuing 0 {}).ctxs.length ∧
    (({ issuing 0 {} with sides := { poisoned := true, issued := ((issuing 0 {}).side 0).issued } :: List.replicate 255 {} } : State).side 0).poisoned =
      true := by
  decide +kernel

/-- The drain of sideWords in flight after the given entries, its tile as given. -/
def draining (before : List Flight) (t : Tile) : State :=
  { ctxIn (has (jobOf [] sideWords) admRunning) ctxRunning
      { queues := [{}, { ptr := 3 }], running := true, flight := before ++ [{ queue := 1, index := 2, word := sideWords.getD 2 0 }] } with
    tiles := t :: List.replicate 511 {} }

/-- A tile of two rows and columns that is complete. -/
def full : Tile := { state := .complete, queue := 1, rows := 2, cols := 2, k := 1 }

/-- A tracker entry of tensor 0 of layer 3, of a kind. -/
def weight1 (k n : Nat) : Track := { tracked with stat := { tracked.stat with tnum := n, kind := k } }

/-- A layer record of a context: SGD, weight tensor 1, gradient in descriptor 1, master in 2, narrow weights in 3, unit 0. -/
def layer3 : LayerRec :=
  ⟨3, 0, false, 0, 0, 0, 0, 0, 0, 0, 0x3F800000, 0x3F800000, false, 1, 2, 3, 4, 1, 2, 2, 2, 3, 0, [⟨0, 0, 4096⟩]⟩

/-- The same job whose destination is the tracked weight gradient of layer 3, which a unit still has to read. -/
def heldBack : State :=
  let s := draining [] full
  { s with
    image := some { jobOf [] sideWords with
      optim := some ⟨[layer3], [(0, 0x3F800000)], 0, 0, 0, false⟩
      descs := [fields [(0, 0), (42, 1), (52, fmtG16C), (63, 1), (64, 128), (88, 2), (112, 1), (136, 1), (160, 1), (184, 2), (224, 256), (447, 9)]] }
    trk := [tracked, weight1 3 1]
    epoch := 1
    upd := { s.upd with layers := [{ token := true, step := 0 }], units := { queue := [0] } :: List.replicate 15 {} } }

/-- Whether the hypotheses of DrainsRead hold. -/
def drainReady (s : State) (f : Flight) : Bool :=
  s.wf && s.sideOwner 0 false == some (0, 1) && s.works && s.admState == admRunning && s.tiles.length == 512 && !s.ctxs.isEmpty &&
    !(s.tile 0).poisoned && s.drainFlight 0 1 0 == some f && drainAddr f.word % 32 == 0 && !(s.drainAt 0 1 0 f).add && !(s.tile 0).sat &&
    !(s.desc (s.drainAt 0 1 0 f).dst).dist

/-- The drain in flight. -/
def drainF : Flight := { queue := 1, index := 2, word := sideWords.getD 2 0 }

/-- The same while the side's other tile still drains. -/
def twoDrains : State := { draining [] full with tiles := full :: { full with state := .draining } :: List.replicate 510 {} }

theorem witness_DrainsRead : drainReady (draining [] full) drainF = true ∧ drainReady twoDrains drainF = true ∧
    (twoDrains.tile 1).state = .draining ∧ (twoDrains.tile 1).poisoned = false ∧ ((draining [] full).tile 1).state ≠ .draining ∧ (draining [] full).drainHeld ((draining [] full).drainAt 0 1 0 drainF) = false ∧
    (draining [] full).drainBehind ((draining [] full).drainAt 0 1 0 drainF) drainF = false ∧ ((draining [] full).tile 0).state = .complete ∧
    drainReady (draining [{ queue := 0, index := 0, word := entryOf kMove }] full) drainF = true ∧
    (draining [{ queue := 0, index := 0, word := entryOf kMove }] full).drainBehind
      ((draining [{ queue := 0, index := 0, word := entryOf kMove }] full).drainAt 0 1 0 drainF) drainF = true ∧
    drainReady heldBack drainF = true ∧ heldBack.drainHeld (heldBack.drainAt 0 1 0 drainF) = true ∧ 1 < ((draining [] full).tile 0).rows ∧
    ((draining [] full).tile 0).rows ≤ 2 ∧ drainReady (draining [] { full with state := .draining, rowsRead := 0 }) drainF = true ∧
    drainReady (draining [] { full with state := .draining, rowsRead := 1 }) drainF = true := by
  decide +kernel

/-- Side A of core 0 with a pass in its array, poisoned or not; its tile in a state, which has faulted n times. -/
def hit (p : Bool) (n : Nat) (t : TileState) : State :=
  { ctxIn job ctxRunning { queues := [{}, {}], running := true, tileFaults := [(0, 0, n)] } with
    sides := { inArray := [⟨0, 1, 0, passWord⟩], poisoned := p } :: List.replicate 255 {}
    tiles := { state := t, queue := 1 } :: List.replicate 511 {} }

theorem witness_PoisonAndReissue : (hit false 0 .filling).wf = true ∧ (hit false 0 .filling).sideOwner 0 false = some (0, 1) ∧
    (hit false 0 .filling).works = true ∧ ((hit false 0 .filling).side 0).poisoned = false ∧ ((hit true 0 .filling).side 0).poisoned = true ∧
    (((hit false 0 .filling).side 0).inArray ++ ((hit false 0 .filling).side 0).issued).head? = some ⟨0, 1, 0, passWord⟩ ∧
    2 ≤ (hit false 2 .filling).tileFaultCount 0 0 ((hit false 2 .filling).faultTile 0) ∧
    (hit false 1 .filling).tileFaultCount 0 0 ((hit false 1 .filling).faultTile 0) < 2 ∧ ((hit false 1 .filling).tile 0).state = .filling ∧
    (hit true 0 .filling).admState = admRunning ∧ ((hit true 0 .filling).ctx 0).halted = none ∧ (hit true 0 .filling).ctxState 0 ≠ ctxPreempted ∧
    (hit true 0 .filling).outstanding 0 saveQueue 0 = false ∧ (hit true 0 .draining).outstanding 0 saveQueue 0 = false ∧
    ((hit true 0 .draining).tile 0).state = .draining ∧ (hit true 0 .draining).wf = true ∧ (hit false 2 .filling).wf = true := by
  decide +kernel

/-! ## Witnesses: moves, stack ports, the narrow path -/

/-- A copy of two G16 elements of the Keg to three places from a byte address on, in Keg or in attached memory. -/
def copyTo (space base : Nat) : MoveArgs :=
  let d := fun (sp b n : Nat) => descOf (fields [(0, b), (42, sp), (52, fmtG16C), (64, n), (88, 1), (112, 1), (136, 1), (160, 1), (184, 2)])
  ⟨0, d 1 0 2, d space base 3, d 1 0 2, 0, 0, 0, 0, [0, 0, 0, 0, 0], false, false, 0, []⟩

/-- The destinations and the sources of a copy. -/
def copyDsts (s : State) (m : MoveArgs) : List (Option Loc) :=
  (s.copyItems m).flatMap (fun i => match i.dst with | .here l => l | .away _ => []) ++ (copyPads m).flatMap fun p => s.elemLocs m.dst m.src.elem p
def copySrcs (s : State) (m : MoveArgs) : List (Option Loc) :=
  (s.copyItems m).flatMap fun i => match i.src with | .here l => l | .away _ => []

theorem witness_LayoutCopies : ([(1, 64), (1, 4), (0, 64)].all fun x =>
    let m := copyTo x.1 x.2
    m.kind == 0 && !m.add && !stacked.converts m && !m.src.dist && !m.dst.dist && decide (copyDsts stacked m).Nodup &&
      (copyDsts stacked m).all (fun l => !(copySrcs stacked m).contains l) && (copyDsts stacked m).length == 6 && (copyPads m).length == 1 &&
      (copyDsts stacked m).all fun l => match l with
        | some k => k.space != 0 || (match stacked.mapAddr (k.key / 64 * 64) with | some q => !stacked.portFailed q.1 | none => false)
        | none => false) = true ∧ stacked.wf = true ∧ stacked.fx.streams = [] := by
  decide +kernel

/-- Unit 0's data, all ones, and its sidecar unit with the given check bytes in their place. -/
def ones : List Byte := List.replicate 64 1
def beside (c : List Byte) : List Byte := c ++ List.replicate 60 0

/-- Port 0 with a read (tag 3) and a write (tag 4) outstanding, of the unit given. -/
def asked (unit : Nat) : State :=
  { stacked with sp := {
    rd := [⟨3, unit, 1, ⟨some 0, 0, 0, [[]], false⟩, 0, 7, [], [], []⟩]
    wr := [⟨4, unit, 1, ⟨some 0, 0, 0, [[]], false⟩, 0, 7, [], [ones], [zeros64]⟩] } :: List.replicate 23 {} }

/-- Port 0 with a read of a sidecar unit (tag 5) outstanding for the data of unit 0, which has come. -/
def halved : State :=
  { stacked with sp := {
      rd := [⟨5, stacked.sideUnit 0, 1, ⟨some 0, 0, 0, [[]], false⟩, 0, 7, [0], [], []⟩]
      halves := [⟨7, 0, ones, ⟨some 0, 0, 0, [[]], false⟩, []⟩] } :: List.replicate 23 {} }

theorem witness_StackResponses : (asked 0).wf = true ∧ (asked 0).spOn 0 = true ∧ 0 < (asked 0).sp.length ∧ (asked 0).portFailed 0 = false ∧
    ((asked 0).sp.getD 0 {}).rd.find? (fun r => r.tag == 2) = none ∧ ((asked 0).sp.getD 0 {}).wr.find? (fun r => r.tag == 3) = none ∧
    ((asked 0).sp.getD 0 {}).rdWait = [] ∧ ((asked 0).sp.getD 0 {}).wrWait = [] ∧ (asked 0).noneWaits = true ∧ halved.noneWaits = true ∧ (asked 7).noneWaits = true ∧
    (((asked 0).sp.getD 0 {}).rd.find? (fun r => r.tag == 3)).map (fun r => (r.covers, r.unit)) = some ([], 0) ∧
    64 * 0 < (asked 0).portData ∧ ((asked 0).sp.getD 0 {}).sides = [] ∧ (((asked 0).sp.getD 0 {}).wr.find? (fun r => r.tag == 4)).isSome = true ∧
    (∀ r ∈ ((asked 7).sp.getD 0 {}).wr, ∀ u ∈ r.units, 64 * u < (asked 7).portData) ∧ ((asked 0).sp.getD 0 {}).rd ≠ [] ∧
    ((asked 0).mapAddr (0 / 64 * 64)).isSome = true ∧
    halved.wf = true ∧ halved.spOn 0 = true ∧ (halved.sp.getD 0 {}).rdWait = [] ∧ (halved.sp.getD 0 {}).wrWait = [] ∧
    ((halved.sp.getD 0 {}).rd.find? (fun r => r.tag == 5)).map (fun r => (r.covers, r.batch)) = some ([0], 7) ∧
    ((halved.sp.getD 0 {}).halves.filter fun h => h.batch == 7 && [0].contains h.unit) = [⟨7, 0, ones, ⟨some 0, 0, 0, [[]], false⟩, []⟩] ∧
    halved.coded (halved.unmapAddr 0 (64 * 0)) = true ∧ (halved.portData + 4 * 0) % 64 = 0 ∧
    sc8Check (ones ++ ((beside (sc8Good ones)).drop 0).take 4) = .good ∧
    sc8Check (ones ++ ((beside ((sc8Good ones).modify 2 (· ^^^ 0x40))).drop 0).take 4) = .corrected 66 0x40 ∧
    sc8Check (ones ++ ((beside (sc8Poison ones)).drop 0).take 4) = .poisoned := by
  decide +kernel

theorem witness_NarrowPath : stacked.wf = true ∧ stacked.fx.streams = [] ∧ stacked.alive = true ∧ stacked.narrowOn .debug = false ∧ stacked.narrowOn .coder = true ∧
    ({ stacked.setFld pwrStatusState 0 1 with boot := .alive } : State).narrowOn .mc = false ∧
    ({ stacked.setFld pwrStatusState 0 1 with boot := .alive } : State).alive = true ∧ (debugged 2 secOpen 0).narrowOn .debug = true ∧ (debugged 2 secOpen 0).wf = true ∧
    ((positions rowMajor (copyTo 0 64).src.ext).filter fun p => inExt (copyTo 0 64).dst.ext (p.map Int.ofNat)).length = 2 := by
  decide +kernel

/-! ## Witnesses: collectives -/

/-- An ordered reduce-scatter of two parts, and the same in progress. -/
def halves : Collective := ⟨0, .reduceScatter, true, .pair, [0, 1], 0, 0, 0, none, 4, 0, 0, .data, [], [[false], [true]]⟩
def halving (finished : Bool) : State :=
  let s := ctxIn (reducing halves []) ctxRunning
    { queues := [{}, {}], running := true, flight := [{ queue := 0, index := 0, word := entryOf kReduce }] }
  { s with chain := { s.chain with colls := [⟨0, 0, 0, 0, false, 0, [(0, ⟨1, 0⟩)], finished, 0, 0⟩] } }

theorem witness_Collectives : (halving false).wf = true ∧ (halving false).admState = admRunning ∧ (∀ x ∈ (reducing halves []).chain.colls, x.num ≠ 0) ∧
    (reducing halves []).admState = admRunning ∧ on.admState ≠ admRunning ∧ (reducing halves []).collective 0 = some halves ∧
    (reducing halves []).collective 9 = none ∧ (reducing broadcast []).collective 0 = some broadcast ∧ collReduces broadcast = false ∧
    (∀ x ∈ (reducing broadcast []).chain.colls, x.num ≠ 0) ∧ ([⟨2, 0⟩] : List Pair).length ≤ segValues halves.width ∧
    halves.staging + 65536 * (0 / segValues halves.width) < 2 ^ 42 ∧ ((halving false).flightOf 0 0 0).isSome = true ∧ 0 < (halving false).ctxs.length ∧ (halving false).works = true ∧ (reducing halves []).works = true ∧
    (reducing broadcast []).works = true ∧ (reducing halves []).chain.opened.contains 0 = false ∧ halves.num = 0 ∧ (halving false).collective 0 = some halves ∧
    (halving false).chain.colls.find? (fun x => x.num == 0) = some ⟨0, 0, 0, 0, false, 0, [(0, ⟨1, 0⟩)], false, 0, 0⟩ ∧
    (collPhases halves)[0]? = some (.swap 0 1) ∧ (collPhases halves).length = 1 ∧
    segAll ((halving false).chain.segs ++ [⟨0, 0, 1, 1, [⟨2, 0⟩]⟩]) 0 0 1 1 = none ∧
    segAll ((halving false).chain.segs ++ [⟨0, 0, 1, 0, [⟨2, 0⟩]⟩]) 0 0 1 1 = some [⟨2, 0⟩] ∧
    (halving true).chain.colls.find? (fun x => x.num == 0) = some ⟨0, 0, 0, 0, false, 0, [(0, ⟨1, 0⟩)], true, 0, 0⟩ ∧ (halving true).wf = true ∧
    (collPhases { halves with ranks := [0, 1, 2] })[1]? = some (.take 100 2) := by
  decide +kernel

/-! ## Witnesses: the update units -/

/-- The job with the optimiser section's layer 3, in Keg: gradient, master and narrow weights; its weight tensor in a format. -/
def learning (format n : Nat) : State :=
  let d := fun (f base size : Nat) =>
    fields [(0, base), (42, 1), (52, f), (64, n), (88, 1), (112, 1), (136, 1), (160, 1), (184, size), (384, 2 ^ 22)]
  let s := ctxIn (has { jobOf [] [] with
      optim := some ⟨[{ layer3 with slices := [⟨0, 0, n⟩] }], [(0, 0x3F800000)], 0, 0, 0x3F800000, false⟩
      descs := [d fmtG16C 0 2, d fmtG16C 0 2, d fmtS32C (2 ^ 20) 4, d format (2 ^ 21) 1] } admRunning) ctxRunning { queues := [{}, {}] }
  { s.setFld mapChainIsHead 0 1 with trk := [{ tracked with stat := { tracked.stat with tnum := 1, kind := 3, format := format } }] }

/-- The same with a unit in a state and the layer in a state. -/
def learns (format n : Nat) (u : UnitSt) (x : LayerSt) : State :=
  let s := learning format n
  { s with upd := { s.upd with units := u :: List.replicate 15 {}, layers := [x] } }

/-- A read of a tensor in the Keg finds no poison where no word holds any. -/
theorem keg_good (s : State) (hb : s.bad = []) (d : Desc) (hs : d.space = 1) (hg : d.elem.groups = false) (se : Int) (j : Nat) :
    (s.shardRead d se j).2.1 = false := by
  have h : ∀ o, (s.readLoc (s.spaceLoc 1 d.target o)).2 = false := by
    intro o
    unfold State.spaceLoc
    rw [if_neg (by decide), if_pos rfl]
    simp only
    split
    · rfl
    · simp only [State.readLoc, State.readCode, Loc.code]
      rw [if_neg (by omega)]
      simp [hb]
  simp only [State.shardRead, State.readLocs, State.shardLocs, State.elemLocs, State.elemStreams, hg, State.placeAt, hs]
  simp [h]

/-- An SGD block whose gradient and masters lie in the Keg has good inputs. -/
theorem sgd_good (s : State) (r : LayerRec) (k : Coef) (dl : Int) (i : Nat) (hb : s.bad = []) (hf : r.family = famSgd)
    (h1 : (s.desc r.dg).space = 1 ∧ (s.desc r.dg).elem.groups = false) (h2 : (s.desc r.dw).space = 1 ∧ (s.desc r.dw).elem.groups = false) :
    (s.updElem r k dl [] i).bad = false := by
  have a := keg_good s hb _ h1.1 h1.2 (s.descSe (s.desc r.dg)) (i - firstMin r)
  have b := keg_good s hb _ h2.1 h2.2 0 (i - firstMin r)
  simp [State.updElem, hf, famSgd, famAdapt, a, b]

/-- Unit 0 in block 0 of a slice of 16,385 elements. -/
def inBlock : State := learns fmtF8AC 16385 { queue := [0], cur := some 0 } { token := true }

theorem witness_UpdateWork : (inBlock.wf = true ∧ inBlock.works = true ∧ inBlock.admState = admRunning ∧ inBlock.probe = false ∧
    inBlock.upd.units[0]? = some { queue := [0], cur := some 0 } ∧
    inBlock.layerAt 0 = some ({ layer3 with slices := [⟨0, 0, 16385⟩] }, { token := true }) ∧
    (blockOf ⟨0, 0, 16385⟩ 0).2 = false ∧ inBlock.updCtxOpen 0 = true ∧ (inBlock.ctx 0).halted = none ∧ inBlock.ctxState 0 ≠ ctxPreempted ∧
    inBlock.fx.streams = [] ∧
    0 < Config.units inBlock.conf ∧ (learns fmtF8AC 16385 { queue := [0] } { token := true }).upd.skipped = false ∧
    (learns fmtF8AC 16385 { queue := [0] } { token := true }).pickLayer 0 { queue := [0] } = some (0, 0, 0, false) ∧
    (learns fmtF8AC 16385 {} {}).pickLayer 0 {} = none ∧ (learns fmtF8AC 16385 { queue := [0] } { token := true }).wf = true ∧
    inBlock.snp.active = false) ∧
    inBlock.blockWaits { queue := [0], cur := some 0 } { layer3 with slices := [⟨0, 0, 16385⟩] } ⟨0, 0, 16385⟩ = false := by
  have h : inBlock.snp.active = false := by decide +kernel
  exact ⟨by decide +kernel, by simp [State.blockWaits, h]⟩

/-- Every element of the block has good inputs. -/
theorem witness_UpdateWork_good (r : LayerRec) (x : LayerSt) (h : inBlock.layerAt 0 = some (r, x)) :
    ∀ e ∈ (blockOf ⟨0, 0, 16385⟩ 0).1.map (inBlock.updElem r (inBlock.layerCoef r x) (inBlock.rxDelta r) []), e.bad = false := by
  have hr : inBlock.layerAt 0 = some ({ layer3 with slices := [⟨0, 0, 16385⟩] }, { token := true }) := by decide +kernel
  rw [hr] at h
  cases h
  intro e he
  obtain ⟨i, _, rfl⟩ := List.mem_map.mp he
  exact sgd_good _ _ _ _ _ (by decide +kernel) (by decide +kernel) ⟨by decide +kernel, by decide +kernel⟩ ⟨by decide +kernel, by decide +kernel⟩

/-- The same with the masters in attached memory, whose first units a capture still has to read. -/
def captured : State :=
  let s := inBlock.setFld cfgSpcapCapGib 0 16
  let d := fields [(0, 0), (52, fmtS32C), (64, 16385), (88, 1), (112, 1), (136, 1), (160, 1), (184, 4), (384, 2 ^ 22)]
  { s with
    image := s.image.map fun i => { i with descs := i.descs.set 2 d }
    snp := { s.snp with active := true }
    sp := { rd := [⟨0, 0, 1, ⟨none, 0, 0, [[]], false⟩, clsCod, 0, [], [], []⟩] } :: List.replicate 23 {} }

/-- A block waits where a unit that it writes, of one of its elements, is still to be read. -/
theorem waits_for (s : State) (q : UnitSt) (r : LayerRec) (sl : Slice) (n i u : Nat) (ha : s.snp.active = true) (hq : q.normPass = false)
    (hp : s.probe = false) (hn : n = r.dw) (hi : i ∈ (blockOf sl q.block).1) (hu : u ∈ s.coderUnread)
    (hc : u ∈ locCodes (s.shardLocs (s.desc n) (i - firstMin r))) : s.blockWaits q r sl = true := by
  have h : u ∈ s.blockUnits r (blockOf sl q.block).1 := by
    simp only [State.blockUnits, List.mem_eraseDups, List.mem_flatMap]
    exact ⟨n, List.mem_append_left _ (List.mem_append_left _ (List.mem_singleton.mpr hn)), i, hi, hc⟩
  have he : s.coderUnread.isEmpty = false := by
    cases e : s.coderUnread with
    | nil => rw [e] at hu; cases hu
    | cons _ _ => rfl
  simp only [State.blockWaits, ha, he, hq, hp, Bool.not_false, Bool.true_and, List.any_eq_true, List.contains_iff_mem]
  exact ⟨u, h, hu⟩

/-- The first element of a slice lies in its first block. -/
theorem first_in_block (sl : Slice) (h : 0 < sl.count) : sl.first ∈ (blockOf sl 0).1 := by
  simp [blockOf]
  omega

theorem witness_UpdateWork_waits : (captured.wf = true ∧ captured.layerAt 0 = some ({ layer3 with slices := [⟨0, 0, 16385⟩] }, { token := true }) ∧
    captured.upd.units[0]? = some { queue := [0], cur := some 0 } ∧ captured.updCtxOpen 0 = true) ∧
    captured.blockWaits { queue := [0], cur := some 0 } { layer3 with slices := [⟨0, 0, 16385⟩] } ⟨0, 0, 16385⟩ = true :=
  ⟨by decide +kernel, waits_for captured _ _ _ 2 0 0 (by decide +kernel) rfl (by decide +kernel) rfl (first_in_block _ (by decide))
    (by decide +kernel) (by decide +kernel)⟩

/-- A header with one section, DESC, of one page at offset 0. -/
def oneDesc : List Byte := toBytesLE 128 (2 ^ 48) ++ toBytesLE 8 4 ++ toBytesLE 4 0 ++ toBytesLE 4 4096

/-- The layer whose descriptors' page has another CRC than region 0 gives. -/
def misdescribed : State :=
  let s := learns fmtF8AC 16385 { queue := [0] } { token := true }
  { s with image := s.image.map fun i => { i with bytes := oneDesc }, pageCrc := [(64, 64, 1)] }

theorem witness_UpdateWork_page : misdescribed.wf = true ∧ misdescribed.pickLayer 0 { queue := [0] } = some (0, 0, 0, false) ∧
    misdescribed.upd.units[0]? = some { queue := [0] } ∧ misdescribed.upd.skipped = false ∧
    misdescribed.layerRecs[0]? = some { layer3 with slices := [⟨0, 0, 16385⟩] } ∧
    misdescribed.descsDiffer (layerDescs { layer3 with slices := [⟨0, 0, 16385⟩] }) = true ∧ misdescribed.works = true ∧
    misdescribed.admState = admRunning ∧ layer3.ctx < 64 ∧ 0 < misdescribed.ctxs.length ∧
    (learns fmtF8AC 16385 { queue := [0] } { token := true }).descsDiffer (layerDescs { layer3 with slices := [⟨0, 0, 16385⟩] }) = false := by
  decide +kernel

/-- The head of a Chain of two in clip mode EXACT with policy SKIP or not. -/
def clipped (skip : Nat) : State :=
  ((((learns fmtF8AC 2 {} {}).setFld mapChainIsHead 0 1).setFld mapChainSizeM1 0 1).setFld updCfgClipMode 0 clipExact).setFld updCfgNfPolicy 0 skip

theorem witness_ClipProtocol : (clipped 0).wf = true ∧ (clipped 0).works = true ∧ (clipped 1).works = true ∧ (clipped 0).mcHalted = false ∧
    ((clipped 0).setFld dbgStatusMcHalted 0 1).mcHalted = true ∧ ((clipped 0).setFld dbgStatusMcHalted 0 1).works = true ∧
    ((clipped 0).setFld dbgStatusMcHalted 0 1).flag mapChainIsHead 0 = true ∧ (clipped 0).admState = admRunning ∧
    (clipped 0).flag mapChainIsHead 0 = true ∧ (clipped 0).chainSize = 2 ∧ (clipped 0).chain.partials = [] ∧
    ({ clipped 0 with chain := { (clipped 0).chain with partials := [(1, Pair.zero)] } } : State).chain.partials = [(1, Pair.zero)] ∧
    (clipped 0).holdMode = true ∧ (clipped 0).upd.released = false ∧ (clipped 1).flag updCfgNfPolicy 0 = true ∧ (clipped 1).holdMode = true ∧
    (clipped 0).flag updCfgNfPolicy 0 = false ∧ (clipped 1).wf = true ∧ ((clipped 1).setFld updCfgClipMode 0 clipPrev).holdMode = true ∧
    ((clipped 1).setFld updCfgClipMode 0 clipPrev).fld updCfgClipMode 0 ≠ clipExact ∧ ((clipped 0).setFld updCfgClipMode 0 clipPrev).holdMode = false ∧
    ({ clipped 0 with upd := { (clipped 0).upd with released := true } } : State).upd.released = true := by
  decide +kernel

/-- The layer written and not emitted; emitted and not sent. -/
def written : LayerSt := { token := true, written := [0] }
def emitted : LayerSt := { token := true, written := [0], emitted := true, gathered := [(0, [1, 2])] }

/-- Layer 3 with a slice of two elements, in a Chain cut by data or by sequence as given, in a state. -/
def layer2 : LayerRec := { layer3 with slices := [⟨0, 0, 2⟩] }
def cutLearns (f : Nat) (c : Nat × Nat) (x : LayerSt) : State :=
  (((learns f 2 {} x).setFld mapChainNdM1 0 c.1).setFld mapChainNsM1 0 c.2).setFld mapChainSizeM1 0 (c.1 + c.2)

/-- The same where the image gives the gather's channels, and keeps the whole. -/
def gathers (c : Nat × Nat) (x : LayerSt) : State :=
  let s := cutLearns fmtF8AC c x
  { s with image := s.image.map fun i => { i with links := { i.links with gathers := [⟨0, [⟨0, 0, 2⟩], [], some 8192⟩] } } }

theorem witness_NarrowWeights_gather : (gathers (1, 0) written).gatherOf 0 = some ⟨0, [⟨0, 0, 2⟩], [], some 8192⟩ ∧ (gathers (1, 0) written).wf = true ∧
    (gathers (1, 0) written).dataPeers = [1] ∧ (gathers (1, 0) written).layerAt 0 = some (layer2, written) ∧ (gathers (1, 0) written).works = true ∧
    (gathers (1, 0) emitted).wf = true ∧ (gathers (1, 0) emitted).works = true ∧
    ((gathers (1, 0) emitted).gatherOf 0).bind (·.keep) = some 8192 ∧ (gathers (1, 0) emitted).admState = admRunning ∧
    (gathers (1, 0) emitted).layerAt 0 = some (layer2, emitted) ∧ (cutLearns fmtF8AC (1, 0) emitted).gatherOf 0 = none := by
  decide +kernel

theorem witness_NarrowWeights : ([fmtF8AC, fmtBQn].all fun f => [(0, 0), (1, 0), (0, 1)].all fun c =>
      let s := cutLearns f c written
      s.wf && s.works && s.admState == admRunning && !s.probe && !s.upd.skipped && s.layerAt 0 == some (layer2, written) &&
        allSlices layer2 written.written && !written.emitted && !s.layerBusy 0 && written.token && s.updCtxOpen layer2.ctx &&
        s.fx.streams.isEmpty && s.dataPeers.all fun k => [(1, (⟨1, 3, false, false⟩ : Meas))].any fun p => p.1 == k) = true ∧
    (cutLearns fmtF8AC (1, 0) written).dataPeers = [1] ∧ (cutLearns fmtF8AC (0, 1) written).cutD = 1 ∧
    (cutLearns fmtF8AC (0, 1) written).seqPeers = [1] ∧
    (cutLearns fmtBQn (0, 0) written).wtBq layer2 = true ∧ (cutLearns fmtF8AC (0, 0) written).wtBq layer2 = false ∧
    (cutLearns fmtF8AC (0, 0) {}).layerAt 0 = some (layer2, {}) ∧ (cutLearns fmtF8AC (0, 0) emitted).layerAt 0 = some (layer2, emitted) ∧
    emitted.emitted = true ∧ emitted.sent = false ∧ (cutLearns fmtF8AC (1, 0) emitted).works = true ∧ (cutLearns fmtF8AC (1, 0) emitted).wf = true ∧
    (cutLearns fmtF8AC (1, 0) emitted).admState = admRunning ∧ (cutLearns fmtF8AC (1, 0) emitted).probe = false ∧
    (cutLearns fmtF8AC (1, 0) emitted).allPieces = [0, 1] ∧ holdsPieces (emitted.gathered ++ [(1, [5])]) [0, 1] = true ∧
    holdsPieces emitted.gathered [0, 1] = false ∧
    ({ cutLearns fmtF8AC (0, 0) emitted with probe := true } : State).probeReads layer2 = true ∧
    ({ cutLearns fmtF8AC (0, 0) emitted with probe := true, trk := [] } : State).probeReads layer2 = false := by
  decide +kernel

/-! ## Witnesses: steps and epochs -/

/-- The job between micro-batches, its context idle: every micro-batch opened or not, and a fault of the step or not. -/
def closing (opened : Bool) (fault : Option Nat) : State :=
  let s := (has (jobOf [] []) admRunning).setFld seqStatusState 0 ctxIdle
  { s with mbs := (if opened then [⟨0, 0, 1, none, none, false⟩] else []), chain := { s.chain with stepFailed := fault } }

/-- A report of a rank for a step. -/
def report (rank step : Nat) (failed : Option Nat) (probe : Bool) : StepReport := ⟨rank, step, false, failed, [⟨9, 3, false, false⟩], none, probe⟩

/-- The head of two, holding rank 1's report. -/
def held1 : State := { job2 with chain := { job2.chain with reports := [report 1 0 none true] } }

theorem witness_StepReports : (closing false (some 1)).wf = true ∧ (closing false (some 1)).works = true ∧ (closing false (some 1)).admState = admRunning ∧
    (closing false (some 1)).chain.reported = false ∧ (closing false (some 1)).chain.reshard = none ∧ (closing false (some 1)).stepFault = some 1 ∧
    (closing true none).stepFault = none ∧ (closing true none).stepComplete = true ∧ (closing true none).chain.stepFailed = none ∧
    (closing true none).usedCtx = [0] ∧ ((closing true none).ctx 0).failed = none ∧ (closing true none).works = true ∧ (closing true none).wf = true ∧
    (closing false none).stepFault = none ∧ (closing false none).stepComplete = false ∧
    job2.wf = true ∧ job2.onChain = true ∧ job2.flag mapChainIsHead 0 = true ∧ job2.chainSize = 2 ∧ job2.admState = admRunning ∧ job2.epoch.toNat = 0 ∧
    (report 1 (2 ^ 32 - 1) none false).step ≠ job2.epoch.toNat ∧ job2.chain.reports = [] ∧ job2.chain.failRank = none ∧ job2.chain.pending = none ∧
    job2.probe = false ∧ held1.wf = true ∧ held1.onChain = true ∧ held1.chainSize = 2 ∧ held1.chain.reports = [report 1 0 none true] ∧
    held1.flag mapChainIsHead 0 = true ∧ held1.admState = admRunning ∧ held1.chain.failRank = none ∧ held1.chain.pending = none ∧ held1.probe = false ∧
    held1.mcHalted = false ∧ (held1.setFld dbgStatusMcHalted 0 1).mcHalted = true ∧ (held1.setFld dbgStatusMcHalted 0 1).onChain = true ∧
    (held1.setFld dbgStatusMcHalted 0 1).flag mapChainIsHead 0 = true ∧ (held1.setFld cfgAdmitState 0 admHalted).admState = admHalted ∧
    (held1.setFld cfgAdmitState 0 admHalted).wf = true ∧ (held1.setFld cfgAdmitState 0 admHalted).onChain = true ∧
    (held1.setFld cfgAdmitState 0 admHalted).flag mapChainIsHead 0 = true ∧ (held1.setFld cfgAdmitState 0 admHalted).chainSize = 2 ∧
    (held1.setFld cfgAdmitState 0 admHalted).epoch.toNat = 0 ∧ (held1.setFld cfgAdmitState 0 admLoaded).admState ≠ admHalted ∧
    (held1.setFld cfgAdmitState 0 admLoaded).onChain = true := by
  decide +kernel

/-- The job with its report sent, its tracker as given; and an engine that dispatches. -/
def reportedJob : State := { job with trk := [tracked], chain := { job.chain with reported := true, tags := [(0, 3)], expects := [(0, 3)], committed := some 9 } }
def dispatching : State := let s := has (jobOf [] []) admDispatching; { s with chain := { s.chain with readySent := true } }

theorem witness_EpochTokens : job.wf = true ∧ job.onChain = true ∧ job.admState = admRunning ∧ job.chain.reported = false ∧ reportedJob.wf = true ∧
    reportedJob.onChain = true ∧ reportedJob.admState = admRunning ∧ reportedJob.chain.reported = true ∧ reportedJob.chain.reshard = none ∧
    reportedJob.chain.committed.isSome = true ∧ reportedJob.probe = false ∧ reportedJob.upd.skipped = false ∧ reportedJob.fx.earlyOpens = [] ∧
    reportedJob.trk[0]? = some tracked ∧ ({ reportedJob with chain := { reportedJob.chain with committed := none } } : State).chain.committed = none ∧
    reportedJob.bushel = none ∧ reportedJob.readsOpen (· == markJournal) = false ∧ dispatching.readsOpen (· == markJournal) = false ∧
    reportedJob.image.all (fun i => i.reshard.isEmpty) = true ∧ reportedJob.image.isSome = true ∧ dispatching.wf = true ∧
    dispatching.onChain = true ∧ dispatching.admState = admDispatching ∧ dispatching.image.all (fun i => i.reshard.isEmpty) = true ∧
    dispatching.chain.readySent = true ∧ dispatching.chain.committed = none ∧ dispatching.bushel = none ∧
    dispatching.fx.earlyOpens = [] ∧ (has (jobOf [] []) admDispatching).onChain = true ∧ (has (jobOf [] []) admDispatching).chain.readySent = false := by
  decide +kernel

/-! ## Witnesses: Furlong -/

/-- The job with port 1 used and routed on to port 2, both in a link state with the given port states. -/
def linked (st : Nat) (p q : PortSt) : State :=
  let s := has { jobOf [] [] with links := ⟨[⟨1, 0, false, 1, 2, [(5, some 2)], [16, 16, 16, 16], []⟩], [], [], [], [], [], [], [], [], []⟩ } admRunning
  { (s.setFld furLinkState 1 st).setFld furLinkState 2 st with fur := {} :: p :: q :: List.replicate 13 {} }

/-- Control bits: destination, VC, kind, IDLE, SEQ, NAK. -/
def control (dest vc kind idle seq nak : Nat) : BitVec 160 :=
  BitVec.ofNat 160 (dest + 2 ^ 10 * vc + 2 ^ 12 * kind + 2 ^ 17 * idle + 2 ^ 20 * seq + 2 ^ 45 * nak)

/-- Zeros of a frame's data. -/
def zeros : List Byte := List.replicate 5120 0

/-- A sealed frame keeps the fields below its CRC. -/
theorem sealed_fields (c : BitVec 160) (d : List Byte) : frIdle (sealFrame c d) = c.getLsbD 17 ∧ frNak (sealFrame c d) = c.getLsbD 45 ∧
    frSeq (sealFrame c d) = bitsOf c 20 12 ∧ frDest (sealFrame c d) = bitsOf c 0 10 ∧ frVc (sealFrame c d) = bitsOf c 10 2 ∧
    frKind (sealFrame c d) = bitsOf c 12 5 := by
  refine ⟨?_, ?_, ?_, ?_, ?_, ?_⟩
  · exact (Laws.putBits_bit c 128 32 _ 17 (by omega)).trans (if_neg (by omega))
  · exact (Laws.putBits_bit c 128 32 _ 45 (by omega)).trans (if_neg (by omega))
  · exact Laws.bitsOf_putBits_ne c 128 32 _ 20 12 (by omega) (by omega)
  · exact Laws.bitsOf_putBits_ne c 128 32 _ 0 10 (by omega) (by omega)
  · exact Laws.bitsOf_putBits_ne c 128 32 _ 10 2 (by omega) (by omega)
  · exact Laws.bitsOf_putBits_ne c 128 32 _ 12 5 (by omega) (by omega)

/-- A frame for destination 5 on VC 0 with 16 symbols of a codeword in error. -/
def spoiled : Frame := ⟨control 5 0 5 0 0 0, zeros, (List.range 16).map fun i => (0, i, 1)⟩

/-- Port 1 UP with a state, its neighbour on the route to 5 with a credit of VC 0. -/
def up1 (p : PortSt) : State := linked linkUp p { credits := [1, 0, 0, 0] }

/-- A warm reset in which the retimer joins ports 2 and 3. -/
def retiming : State :=
  let s := ((up1 {}).setFld mapRingRtmPair 0 1).setFld mapRingRtmActive 0 1
  { s with pwr := { s.pwr with warm := true } }

theorem witness_FramesArrive :
    ((up1 {}).wf = true ∧ 1 < (up1 {}).fur.length ∧ (up1 {}).portUp 1 = true ∧ (up1 {}).portUp 0 = false ∧ (up1 {}).retimed 1 = none ∧
      (up1 {}).retimed 0 = none ∧ retiming.retimed 2 = some 3 ∧ retiming.wf = true ∧ ((up1 {}).port 1).rxBuf = [] ∧ 7 ≤ ((up1 { sinceAck := 7 }).port 1).sinceAck ∧ (up1 { sinceAck := 7 }).portUp 1 = true ∧
      (up1 {}).lightFec 1 = false ∧
      ((up1 { sameFail := 15, failSeq := 0 }).port 1).sameFail + 1 = 16 ∧ ((up1 { sameFail := 15 }).port 1).retrainTimes = [] ∧
      (up1 { sameFail := 15 }).portUp 1 = true ∧ ((up1 { rxNaked := true }).port 1).rxNaked = true ∧
      ((up1 { rxExpect := 4095 }).port 1).rxExpect = 4095 ∧ (up1 { rxExpect := 4095 }).portUp 1 = true ∧
      ((up1 { sinceAck := 6 }).port 1).sinceAck < 7 ∧ (up1 {}).routeOf 1 5 = some 2 ∧ (up1 {}).routeOf 1 6 = none ∧ (up1 {}).routeOf 1 0 = none ∧
      (up1 {}).slotOpen 0 = false ∧ (up1 {}).mayLeave 2 spoiled = true) ∧
    (zeros.length = 5120 ∧ frFailed false spoiled = true ∧ frIdle spoiled = false ∧ frSeq spoiled = 0 ∧
      (kindVcs (frKind spoiled)).contains (frVc spoiled) = true ∧ frDest spoiled = 5) ∧
    (∀ c, frFailed false (sealFrame c zeros) = false) ∧
    (frIdle (sealFrame (control 0 0 0 1 0 1) zeros) = true ∧ frNak (sealFrame (control 0 0 0 1 0 1) zeros) = true) ∧
    (frIdle (sealFrame (control 0 0 0 1 0 0) zeros) = true ∧ frNak (sealFrame (control 0 0 0 1 0 0) zeros) = false) ∧
    (frIdle (sealFrame (control 5 0 5 0 4095 0) zeros) = false ∧ frNak (sealFrame (control 5 0 5 0 4095 0) zeros) = false ∧
      frSeq (sealFrame (control 5 0 5 0 4095 0) zeros) = 4095 ∧ frDest (sealFrame (control 5 0 5 0 4095 0) zeros) = 5 ∧
      (kindVcs (frKind (sealFrame (control 5 0 5 0 4095 0) zeros))).contains (frVc (sealFrame (control 5 0 5 0 4095 0) zeros)) = true) ∧
    (frDest (sealFrame (control 0 1 0 0 0 0) zeros) = 0 ∧ frKind (sealFrame (control 0 1 0 0 0 0) zeros) = 0 ∧
      frVc (sealFrame (control 0 1 0 0 0 0) zeros) = 1 ∧ frSeq (sealFrame (control 0 1 0 0 0 0) zeros) = 0) ∧
    (kindVcs (frKind (sealFrame (control 5 3 5 0 0 0) zeros))).contains (frVc (sealFrame (control 5 3 5 0 0 0) zeros)) = false := by
  have h : 0 < fecUncorrectable false spoiled := by decide +kernel
  have f : frFailed false spoiled = true := by simp [frFailed, h]
  refine ⟨by decide +kernel, ⟨List.length_replicate, f, by decide +kernel, by decide +kernel, by decide +kernel, by decide +kernel⟩, fun c => by simp, ?_⟩
  simp only [sealed_fields]
  decide +kernel

/-- A segment of slot 0, which is not open, for this engine. -/
def early : Frame := ⟨control 0 1 0 0 0 0, [], []⟩

/-- A frame that may be delivered, a segment that may not, one that waits behind such a segment, and a frame for port 2 that waits behind one. -/
theorem witness_FramesArrive_waits : (up1 {}).mayDeliver (sealFrame (control 0 0 5 0 0 0) zeros) = true ∧
    (up1 {}).queued 1 (sealFrame (control 0 0 5 0 0 0) zeros) = false ∧ (up1 {}).queued 1 (sealFrame (control 5 0 5 0 0 0) zeros) = false ∧
    (up1 {}).mayDeliver (sealFrame (control 0 1 0 0 0 0) zeros) = false ∧
    (up1 { rxBuf := [early] }).queued 1 (sealFrame (control 0 1 0 0 0 0) zeros) = true ∧
    (((up1 { rxBuf := [early] }).port 1).rxBuf.filter fun f => (up1 { rxBuf := [early] }).isLocal 1 f && (up1 { rxBuf := [early] }).mayDeliver f) = [] ∧
    (up1 { rxBuf := [early] }).portUp 1 = true ∧ (up1 { rxBuf := [early] }).wf = true ∧
    (up1 { rxBuf := [⟨control 5 0 5 0 0 0, [], []⟩] }).queued 1 (sealFrame (control 5 0 5 0 0 0) zeros) = true := by
  simp only [State.mayDeliver, State.queued, sealed_fields]
  decide +kernel

/-- A frame in port 1's receive buffer for destination 5, on VC 0. -/
def kept : Frame := ⟨control 5 0 5 0 0 0, [], []⟩

/-- The same job with a request for rank 5 among its messages. -/
def asking : State :=
  let s := up1 {}
  { s with
    image := s.image.map fun i => { i with links := { i.links with routes := [⟨0, none, 5, 1⟩] } }
    chain := { s.chain with sent := [.readReq 5 ⟨0, 0, 0, 0, 0, []⟩] } }

theorem witness_FramesLeave :
    let s := linked linkUp { rxBuf := [kept] } { credits := [1, 0, 0, 0] }
    let none2 := linked linkUp { rxBuf := [kept] } {}
    let own := linked linkUp {} { inject := [kept], credits := [2, 0, 0, 0] }
    let owes := fun (l : List Nat) => linked linkUp {} { replay := [kept], retrainTimes := l }
    (s.wf = true ∧ 2 < s.fur.length ∧ s.portUp 2 = true ∧ s.portUp 15 = false ∧ ((s.port 2).rxBuf.filter fun f => s.isLocal 2 f && s.mayDeliver f) = [] ∧ s.chain.packed = s.chain.sent.length ∧
      s.maySend 2 = true ∧ s.transitFor 2 = some (1, kept) ∧ none2.transitFor 2 = none ∧ none2.ownFor 2 = none ∧ own.maySend 2 = true ∧
      own.transitFor 2 = none ∧ own.ownFor 2 = some (kept, {}) ∧ own.wf = true ∧ (linked linkUp {} { replay := List.replicate 64 kept }).maySend 2 = false ∧
      (s.port 2).replay = [] ∧ ((owes []).port 2).replay ≠ [] ∧ (owes []).portUp 2 = true ∧
      (((owes []).port 2).retrainTimes.filter fun t => decide ((owes []).time < t + 1000000)).length < 3 ∧
      3 ≤ (((owes [0, 0, 0]).port 2).retrainTimes.filter fun t => decide ((owes [0, 0, 0]).time < t + 1000000)).length) ∧
    (asking.chain.sent = [] ++ [.readReq 5 ⟨0, 0, 0, 0, 0, []⟩] ∧ asking.chain.packed = ([] : List NetMsg).length ∧
      (asking.outMsg (.readReq 5 ⟨0, 0, 0, 0, 0, []⟩)).dests = [(5, some 1)] ∧ 5 ≠ asking.rank ∧
      (asking.outMsg (.readReq 5 ⟨0, 0, 0, 0, 0, []⟩)).head.length < 65536 ∧ 1 < asking.fur.length) := by
  exact ⟨by decide +kernel, rfl, rfl, by decide +kernel, by decide +kernel, by decide +kernel, by decide +kernel⟩

/-- A retraining port 1 whose peer is rank 0, port 0, and over which context 0's tokens for rank 5 travel. -/
def retrained : State :=
  let s := linked linkRetrain {} {}
  { s with image := s.image.map fun i => { i with links := { i.links with routes := [⟨0, none, 5, 1⟩] } } }

theorem witness_RetrainsEnd : (linked linkRetrain {} {}).wf = true ∧ (linked linkRetrain {} {}).linkOn 1 = true ∧ 1 < (linked linkRetrain {} {}).fur.length ∧
    (linked linkRetrain {} {}).linkState 1 = linkRetrain ∧ (linked linkUp {} {}).linkState 1 ≠ linkRetrain ∧ (linked linkRetrain {} {}).loaded = true ∧
    (linked linkRetrain {} {}).usedPorts.contains 1 = true ∧ (linked linkRetrain {} {}).admState = admRunning ∧ (linked linkRetrain {} {}).usedCtx = [0] ∧
    ((linked linkRetrain {} {}).fld mapStatusDownPorts 0).testBit 1 = false ∧ (on.setFld furLinkState 15 linkRetrain).linkOn 15 = true ∧
    (on.setFld furLinkState 15 linkRetrain).linkState 15 = linkRetrain ∧ (on.setFld furLinkState 15 linkRetrain).loaded = false ∧
    (linked linkUp {} {}).linkState 1 = linkUp ∧ ((linked linkUp {} {}).port 1).retrainTimes = [] ∧ (linked linkAligned {} {}).linkState 1 = linkAligned ∧
    (linked linkHello {} {}).linkState 1 = linkHello ∧ (linked linkHello {} {}).linkOn 1 = true ∧
    (linked linkTraining {} {}).linkState 1 ∉ [linkUp, linkAligned, linkHello] ∧ (linked linkTraining {} {}).linkOn 1 = true ∧
    (linked linkRetrain {} {}).retrainCause 1 ⟨0, 2, 2, 0, false, 0⟩ = some 6 ∧ retrained.retrainCause 1 ⟨0, 0, 0, 0, false, 0⟩ = none ∧
    retrained.linkState 1 = linkRetrain ∧ retrained.linkOn 1 = true ∧ retrained.wf = true ∧ (retrained.ctxPorts 0).contains 1 = true ∧ retrained.snp.restore.waiting = false ∧
    ((linked linkRetrain {} {}).ctxPorts 0).contains 1 = false := by
  decide +kernel

/-- The hello that agrees with the image of `linked`. -/
def agreeing (s : State) (r : PortRec) : Hello :=
  ⟨s.fld mapChainChainId 0, s.fld furCfgPeerRank 1, s.fld furCfgPeerPort 1, r.tier, r.light, s.fld cfgImgidImageId 0⟩

/-- An engine that dispatches and waits for port 1 alone. -/
def waitsForPort : State := let s := linked linkHello { stage := 4 } {}; s.setFld cfgAdmitState 0 admDispatching

theorem witness_BringUp :
    ([1, 2, 3, 5, 0, 6].all fun k => (linked linkTraining { stage := k } {}).wf && (linked linkTraining { stage := k } {}).linkOn 1 &&
      ((linked linkTraining { stage := k } {}).port 1).stage == k) = true ∧
    ([0, 0, 0, 0] : List Nat).length = 4 ∧ ((linked linkTraining { stage := 1, tries := 2 } {}).port 1).tries < 3 ∧
    3 ≤ ((linked linkTraining { stage := 2, tries := 3 } {}).port 1).tries ∧ (linked linkTraining { stage := 1 } {}).linkState 1 ≠ linkFailed ∧
    (linked linkTraining { stage := 1 } {}).security ≠ secLockdown ∧ (linked linkTraining { stage := 1 } {}).retimed 1 = none ∧
    (linked linkTraining { stage := 3 } {}).linkState 1 ≠ linkFailed ∧ waitsForPort.snp.restore.waiting = false ∧
    (((linked linkLoopback { stage := 3 } {}).setFld mapRingBypPorts 0 2).setFld mapRingBypAsserted 0 1).loopsBack 1 = true ∧
    ((((linked linkLoopback { stage := 3 } {}).setFld mapRingBypPorts 0 2).setFld mapRingBypAsserted 0 1).port 1).stage = 3 ∧
    (linked linkAligned { stage := 3 } {}).loopsBack 1 = false ∧ (linked linkAligned { stage := 3 } {}).linkState 1 = linkAligned ∧
    ((linked linkAligned { stage := 3 } {}).port 1).helloIn = none ∧ ((linked linkAligned { stage := 3 } {}).portRec 1).isSome = true ∧
    (linked linkAligned { stage := 3 } {}).admState ≠ admDispatching ∧ (linked linkAligned { stage := 3 } {}).snp.restore.waiting = false ∧
    (linked linkUp {} {}).linkState 1 ≠ linkHello ∧ (linked linkUp {} {}).linkState 1 ≠ linkAligned ∧ waitsForPort.linkState 1 = linkHello ∧
    waitsForPort.linkOn 1 = true ∧ waitsForPort.wf = true ∧
    (match waitsForPort.portRec 1 with
      | some r => helloCause waitsForPort 1 r (agreeing waitsForPort r) == none &&
          helloCause waitsForPort 1 r { agreeing waitsForPort r with light := true, tier := 1 } == some 4 &&
          helloCause waitsForPort 1 r { agreeing waitsForPort r with tier := 1, chainId := 99 } == some 5 &&
          helloCause waitsForPort 1 r { agreeing waitsForPort r with imageId := 99, rank := 99 } == some 7 &&
          helloCause waitsForPort 1 r { agreeing waitsForPort r with port := 9 } == some 6
      | none => false) = true ∧
    waitsForPort.admState = admDispatching ∧ waitsForPort.chain.readySent = false ∧ waitsForPort.usedPorts = [1] := by
  decide +kernel

/-! ## Witnesses: remote gather and scatter -/

/-- A descriptor of two G16 elements, distributed over ranks 0 and 1 under holder entry 0, one element each; an entry that keeps them in
the Keg. -/
def spread : BitVec 512 :=
  fields [(0, 0), (42, 1), (52, fmtG16C), (62, 1), (64, 2), (88, 1), (112, 1), (136, 1), (160, 1), (184, 2)]
def holder0 : BitVec 256 := BitVec.ofNat 256 (2 ^ 3 * 1 + 2 ^ 27 * 1 + 2 ^ 47 * 1 + 2 ^ 57 * 1 + 2 ^ 149 * 7)

/-- A Chain of two whose rank 0 runs a move from the distributed tensor to the Keg. -/
def shared : State :=
  let plain := fields [(0, 4096), (42, 1), (52, fmtG16C), (64, 2), (88, 1), (112, 1), (136, 1), (160, 1), (184, 2)]
  let s := ctxIn ((has { jobOf [] [] with
      descs := [spread, plain]
      links := ⟨[], [], [], [], [], [], [], [], [(0, 2)], []⟩ } admRunning).setFld mapChainSizeM1 0 1) ctxRunning
        { queues := [{}, {}], running := true, flight := [{ queue := 0, index := 0, word := fields [(0, kMove), (86, 1)] }] }
  { s with
    movers := some { ctx := 0, queue := 0, index := 0 } :: List.replicate 15 none
    chain := { s.chain with
      holders := [holder0], moves := [⟨0, 0, 0, [(0, 1, [1, 0, 0, 0, 0])], [], []⟩], uses := [⟨0, 0, 0, 0, 1, 0, 0, 0, 7, false⟩] } }

/-- The answer of rank 1. -/
def answer : ReadResp := ⟨1, 0, 0, 0, [([1, 0, 0, 0, 0], [5, 6], false)]⟩

/-- The same after an update of step 9 wrote piece 1. -/
def retagged : State := { shared with chain := { shared.chain with pieces := [(0, 1, 9)] } }

theorem witness_RemoteReads : (shared.wf = true ∧ shared.onChain = true ∧ shared.works = true ∧ on.onChain = false ∧ doze.works = false ∧
    shared.staleTag 0 6 [[0, 0, 0, 0, 0]] = some 7 ∧ (∀ p ∈ [([0, 0, 0, 0, 0] : List Nat)], shared.pieceTag 0 (shared.pieceOf 0 p) = 7) ∧
    retagged.staleTag 0 7 [[0, 0, 0, 0, 0], [1, 0, 0, 0, 0]] = some 9 ∧ retagged.onChain = true ∧ retagged.wf = true ∧ shared.fx.streams = [] ∧
    (shared.heldPlace (shared.desc 0) [0, 0, 0, 0, 0]).isSome = true ∧ shared.heldPlace (shared.desc 0) [1, 0, 0, 0, 0] = none ∧
    job.chain.moves = []) ∧ shared.chain.moves = [⟨0, 0, 0, [(0, 1, [1, 0, 0, 0, 0])], [], []⟩] ∧ answer.desc = 0 ∧ answer.rank = 1 ∧
    answer.items.any (fun x => x.1 == [1, 0, 0, 0, 0]) = true ∧ shared.movesStand 0 = false ∧ (shared.flightOf 0 0 0).isSome = true ∧
    shared.moverOf 0 0 0 = some 0 ∧
    shared.moveNeeds (shared.moveOf (fields [(0, kMove), (86, 1)])) = [(0, 1, [1, 0, 0, 0, 0])] ∧
    shared.moveNeeds { shared.moveOf (fields [(0, kMove), (86, 1)]) with got := [(0, [1, 0, 0, 0, 0], [5, 6], false)] } = [] ∧
    (shared.windowsFrom { shared.moveOf (fields [(0, kMove), (86, 1)]) with got := [(0, [1, 0, 0, 0, 0], [5, 6], false)] } 0).length = 1 ∧
    (∀ u ∈ shared.chain.uses, (u.rank == 1 && u.holder == 0 && u.desc == 0 && u.part == 0 && u.vtag == 8) = false) ∧
    shared.chain.uses.find? (fun u => u.rank == 1 && u.holder == 0 && u.desc == 0 && u.part == 0 && u.vtag == 7) =
      some ⟨0, 0, 0, 0, 1, 0, 0, 0, 7, false⟩ ∧ 0 < shared.ctxs.length ∧ (shared.ctx 0).accMb = 0 := by
  decide +kernel

/-- A remote write of the element that rank 0 holds. -/
def remote (vtag : Nat) (add arrival : Bool) (part : Nat) (mb : Option Nat := none) : WriteReq :=
  ⟨1, 0, 0, vtag, add, arrival, part, mb, [⟨0, [0, 0, 0, 0, 0], Pair.zero, [1, 2], false⟩]⟩

/-- The same Chain after PART 1 of a round of overwrites has written the element. -/
def overwritten : State := { shared with chain := { shared.chain with overwrites := [(0, [1], [([0, 0, 0, 0, 0], 1, 0)])] } }

theorem witness_RemoteWrites : shared.wf = true ∧ shared.onChain = true ∧ overwritten.onChain = true ∧ shared.staleTag 0 6 [[0, 0, 0, 0, 0]] = some 7 ∧
    (remote 6 false false 0).holder = 0 ∧ (remote 6 false false 0).items.map (·.pos) = [[0, 0, 0, 0, 0]] ∧
    shared.staleTag 0 7 [[0, 0, 0, 0, 0]] = none ∧ (remote 7 false false 0).items.length = 1 ∧
    shared.chain.overwrites.find? (fun o => o.1 == (remote 7 false false 0).desc) = none ∧ overwritten.wf = true ∧
    overwritten.staleTag 0 7 [[0, 0, 0, 0, 0]] = none ∧
    overwritten.chain.overwrites.find? (fun o => o.1 == (remote 7 false false 0).desc) = some (0, [1], [([0, 0, 0, 0, 0], 1, 0)]) ∧
    [1].contains (remote 7 false false 0).part = false ∧ (remote 7 false false 0).part < 1 := by
  decide +kernel

theorem witness_RemoteWrites_adds : (remote 7 true false 0 (some 3)).drainMb.isSome = true ∧
    shared.chain.writes = [] ∧ shared.nextPart 0 = 0 ∧ shared.partCount 0 = 2 ∧
    (remote 7 true false 1).part ≠ shared.nextPart 0 ∧ (remote 7 true false 0).part = shared.nextPart 0 ∧ (remote 7 true true 0).arrival = true ∧
    (remote 7 true false 1).drainMb = none := by
  decide +kernel

/-! ## Witnesses: re-shards, partners, snapshots -/

/-- A plan of n rounds of one block of 64 bytes from rank 1 into slot 0. -/
def plan1 (n : Nat) : Plan := ⟨1, 64, [0], List.replicate n ⟨[], [(1, 0)], []⟩, []⟩

/-- The head of two in round 0 of the plan. -/
def resharding (n : Nat) (done : Bool) : State :=
  let s := ((has { jobOf [] [] with reshard := [plan1 n] } admRunning).setFld mapChainIsHead 0 1).setFld mapChainSizeM1 0 1
  { s with chain := { s.chain with reshard := some ⟨some 1, 0, [], done, []⟩ } }

/-- The same while its journal is still read. -/
def unread : State := { resharding 1 false with chain := { (resharding 1 false).chain with reshard := some ⟨none, 0, [], false, []⟩, journal := some false } }

theorem witness_Reshards : job.wf = true ∧ job.onChain = true ∧ job.admState = admRunning ∧ job.chain.reshard = none ∧ job.reshardStaged = false ∧
    (resharding 1 false).wf = true ∧ (resharding 1 false).onChain = true ∧ (resharding 1 false).admState = admRunning ∧
    (resharding 1 false).chain.reshard = some ⟨some 1, 0, [], false, []⟩ ∧ (resharding 1 false).planOf 1 = some (plan1 1) ∧
    (1, 0) ∈ (roundOf (plan1 1) 0).recvs ∧ (plan1 1).slots.getD 0 0 % 64 = 0 ∧ (∀ v ∈ (roundOf (plan1 1) 0).recvs, v.2 = 0 ∨ v.2 ∈ ([] : List Nat)) ∧
    (resharding 2 true).chain.reshard = some ⟨some 1, 0, [], true, []⟩ ∧ (resharding 2 true).planOf 1 = some (plan1 2) ∧ 0 + 1 < (plan1 2).rounds.length ∧
    (resharding 1 true).chain.reshard = some ⟨some 1, 0, [], true, []⟩ ∧ (resharding 1 true).planOf 1 = some (plan1 1) ∧ 0 + 1 = (plan1 1).rounds.length ∧
    (resharding 1 false).flag mapChainIsHead 0 = true ∧ (resharding 1 false).chainSize = 2 ∧ (resharding 1 false).chain.roundDones = [] ∧
    (1, 0) ∉ (0, 0) :: (resharding 1 false).chain.roundDones.filter (· ≠ (0, 0)) ∧ job.flag mapChainIsHead 0 = true ∧ job.chainSize = 1 ∧
    (resharding 2 true).wf = true ∧ (resharding 1 true).wf = true ∧ (resharding 1 true).bushel = none ∧ (resharding 1 true).fx.earlyOpens = [] ∧
    unread.chain.reshard = some ⟨none, 0, [], false, []⟩ ∧ unread.wf = true ∧ unread.onChain = true ∧ unread.admState = admRunning ∧
    (∀ k, k < (resharding 1 false).chainSize → k = 0 ∨ k = 1) := by
  decide +kernel

/-- A job whose mirror source is the given rank, at AON time t. -/
def guarded (source : Nat) (t : Nat) : State :=
  let s := has { jobOf [] [] with bushel := some { group4 with source := source } } admRunning
  { s.setFld mgtTimeTime 0 t with snp := { s.snp with lost := false } }

/-- The same halted, in a restore. -/
def silent : State := ((guarded 3 2000000).setFld cfgAdmitState 0 admHalted).setFld snpStatusPhase 0 5

theorem witness_Partners : (guarded 3 2000000).wf = true ∧ (guarded 3 2000000).onChain = true ∧
    (guarded 3 2000000).bushel = some { group4 with source := 3 } ∧ (2 : Nat) ≠ 3 ∧ (guarded 3 2000000).snp.lost = false ∧
    (guarded 3 2000000).snp.lastMsg + 2000000 ≤ (guarded 3 2000000).time ∧ (guarded 3 1999999).time < (guarded 3 1999999).snp.lastMsg + 2000000 ∧
    (guarded 3 2000000).fld snpStatusPartnerLost 0 = 0 ∧ (guarded 3 2000000).admState = admRunning ∧ (guarded 0 2000000).admState = admRunning ∧
    (guarded 0 2000000).bushel = some { group4 with source := 0 } ∧ (guarded 0 2000000).snp.lastMsg + 2000000 ≤ (guarded 0 2000000).time ∧
    ({ guarded 3 0 with snp := { (guarded 3 0).snp with lost := true } } : State).snp.lost = true ∧
    group4.mirror % 64 = 0 ∧ group4.mirror < 2 ^ 41 ∧ (guarded 3 0).wf = true ∧ silent.wf = true ∧ silent.restoring = true ∧ silent.admState ≠ admRunning ∧
    silent.onChain = true ∧ silent.bushel = some { group4 with source := 3 } ∧ silent.snp.lost = false ∧ silent.snp.lastMsg + 2000000 ≤ silent.time := by
  decide +kernel

/-- The head of a Chain of n with a snapshot of step 10 in progress. -/
def snapping (n : Nat) (x : SnapSt) : State :=
  let s := ((safe admRunning).setFld mapChainIsHead 0 1).setFld mapChainSizeM1 0 (n - 1)
  { s.setFld snpCfgCellUnits 0 1 with snp := { x with active := true, step := 10 } }

/-- The same on port 0 with 16 GiB attached, whose last write of the coder has the given tag. -/
def sealed (l : List Nat) : State :=
  let s := (snapping 1 { doneSent := true, sealing := some false }).setFld cfgSpcapCapGib 0 16
  { s with sp := { wr := l.map fun tag => ⟨tag, 0, 1, ⟨none, 0, 0, [[]], false⟩, clsCod, 0, [], [zeros64], [zeros64]⟩ } :: List.replicate 23 {} }

theorem witness_SnapshotsEnd :
    ([{}, { poisonSeen := true }, { pieces := [(0, 0), (1, 0)] }, { doneSent := true }] : List SnapSt).all (fun x =>
      (snapping 1 x).wf && (snapping 1 x).works && (snapping 1 x).onChain && (snapping 1 x).bushel == some group4 && (snapping 1 x).snp.active) = true ∧
    (safe admRunning).snp.active = false ∧ (snapping 1 { doneSent := true }).snp.doneSent = true ∧ (snapping 1 {}).snp.doneSent = false ∧
    (snapping 1 { poisonSeen := true }).snp.poisonSeen = true ∧ (snapping 1 {}).snp.poisonSeen = false ∧ (snapping 1 {}).parityComplete = false ∧
    (snapping 1 { pieces := [(0, 0), (1, 0)] }).parityComplete = true ∧ (snapping 1 { pieces := [(0, 0), (1, 0)] }).coderBusy = false ∧
    (sealed [0]).coderBusy = true ∧
    (snapping 2 {}).flag mapChainIsHead 0 = true ∧ (snapping 2 {}).admState = admRunning ∧ (snapping 2 {}).chainSize = 2 ∧ (snapping 2 {}).snp.dones = [] ∧
    (snapping 2 {}).wf = true ∧ (snapping 2 { dones := [(1, 10, 5, 6)] }).snp.dones = [(1, 10, 5, 6)] ∧ (snapping 2 { dones := [(1, 10, 5, 6)] }).wf = true ∧
    (snapping 1 { doneSent := true }).snp.step = 10 ∧ (snapping 1 { doneSent := true }).snp.step ≠ 11 ∧ (snapping 1 { doneSent := true }).snp.sealing = none := by
  decide +kernel

theorem witness_SnapshotsEnd_seal :
    ((snapping 1 { doneSent := true }).writeTable false [(0, 0), (0, 0), (0, 0), (0, 0)]).coderBusy = false ∧
    ((snapping 1 { doneSent := true }).setFld cfgSpcapCapGib 0 16).wf = true ∧
    (((snapping 1 { doneSent := true }).setFld cfgSpcapCapGib 0 16).writeTable false [(0, 0), (0, 0), (0, 0), (0, 0)]).coderBusy = true ∧
    (sealed [7]).wf = true ∧ (sealed [7]).works = true ∧ (sealed [7]).onChain = true ∧ (sealed [7]).bushel = some group4 ∧
    (sealed [7]).snp.active = true ∧ (sealed [7]).snp.sealing = some false ∧ (sealed [7]).snp.restore.waiting = false ∧
    (sealed [7]).chain.journal = none ∧ (sealed [7]).spOn 0 = true ∧
    (((sealed [7]).sp.getD 0 {}).wr.find? fun r => r.tag == 7).isSome = true ∧
    ((sealed [7]).setSp 0 fun p => p.endWrite (sealed [7]).classWeight 7).coderBusy = false := by
  decide +kernel

/-- The head of a Chain of n in a restore, in a phase, with what it has heard. -/
def restoring (n : Nat) (r : RestoreSt) : State :=
  let s := ((safe admHalted).setFld mapChainIsHead 0 1).setFld mapChainSizeM1 0 (n - 1)
  { s with snp := { s.snp with restore := r } }

/-- A unit of region 0 of a port that has not failed reads good. -/
theorem uncoded_good (s : State) (a : Nat) (hc : s.coded (a / 64 * 64) = false)
    (hp : ∀ n, n < Config.sports s.conf → s.portFailed n = false) : (s.readUnit a).2 = false := by
  unfold State.readUnit
  split
  · rfl
  · next port p h =>
    have hn : port < Config.sports s.conf := by
      unfold State.mapAddr at h
      split at h
      · cases h
        exact Nat.mod_lt _ (by cases s.conf <;> decide)
      · cases h
    simp [hc, hp port hn]

/-- A control block is found where the magic stands in good units. -/
theorem ctl_found (s : State) (i : Image) (a : Nat) (hi : s.image = some i) (hg : ∀ k, k < ctlSize → (s.readLoc (some ⟨0, a + k⟩)).2 = false)
    (hm : bytesLE ((List.range 4).map fun k => (s.readLoc (some ⟨0, a + k⟩)).1) = recMagic) : ∃ c, s.ctlAt a = some c := by
  have h : (s.loadBytes 0 a ctlSize).2 = false := by
    simp only [State.loadBytes, List.any_map, List.any_eq_false, List.mem_range, Function.comp]
    intro k hk
    simp [hg k hk]
  have g : (s.loadBytes 0 a ctlSize).1.take 4 = (List.range 4).map fun k => (s.readLoc (some ⟨0, a + k⟩)).1 := by
    simp only [State.loadBytes, List.map_map, ← List.map_take, List.take_range]
    rfl
  simp only [State.ctlAt, h, hi, Bool.false_eq_true, if_false, Option.bind_some, ctlFrom, List.drop_zero, g, hm, ne_eq, not_true_eq_false]
  exact ⟨_, rfl⟩

/-- A job whose mirror of slot A starts with the magic, in region 0. -/
def mirroring : State :=
  let s := ((guarded 3 0).setFld cfgSpcapCapGib 0 16).setFld cfgRegionSize 0 1
  { s with mem := (s.writeUnit 0x400000 (toBytesLE 64 recMagic) false).mem }

/-- It finds a control block for the step that the block names. -/
theorem witness_BushelMessages_control : mirroring.wf = true ∧ mirroring.onChain = true ∧ mirroring.bushel = some { group4 with source := 3 } ∧
    (2 : Nat) ≠ 3 ∧ ∃ x, mirroring.mirrorCtl x.2.step = some x := by
  refine ⟨by decide +kernel, by decide +kernel, by decide +kernel, by decide, ?_⟩
  have hb : mirroring.fld cfgRegionBase 0 = 0 := by decide +kernel
  have hs : mirroring.fld cfgRegionSize 0 = 1 := by decide +kernel
  have hm : mirroring.mirrorSlot false = 0x400000 := by decide +kernel
  have hf : (List.range 24).all (fun n => !mirroring.portFailed n) = true := by decide +kernel
  have hn : Config.sports mirroring.conf = 24 := by decide +kernel
  obtain ⟨c, hc⟩ := ctl_found mirroring { jobOf [] [] with bushel := some { group4 with source := 3 } } (mirroring.mirrorSlot false) rfl
    (fun k hk => by
      unfold ctlSize at hk
      have e : Loc.code ⟨0, mirroring.mirrorSlot false + k⟩ = (0x400000 + k) / 64 := by
        rw [hm]
        simp only [Loc.code, if_true]
        omega
      simp only [State.readLoc, State.readCode, e, show (0x400000 + k) / 64 / 2 ^ 40 = 0 by omega, if_true]
      refine uncoded_good _ _ ?_ fun n h => by
        rw [hn] at h
        simpa using List.all_eq_true.mp hf n (List.mem_range.mpr h)
      simp only [State.coded, hb, hs, codeKey, show (0x400000 + k) / 64 / 2 ^ 40 = 0 by omega, if_true, Bool.not_eq_false', Bool.and_eq_true,
        decide_eq_true_eq]
      omega)
    (by decide +kernel)
  exact ⟨(mirroring.mirrorSlot false, c), by simp [State.mirrorCtl, hc]⟩

theorem witness_BushelMessages : (safe admRunning).wf = true ∧ (safe admRunning).onChain = true ∧ (safe admRunning).bushel = some group4 ∧
    groupRank group4 3 = 3 ∧ group4.n = 4 ∧ group4.stateBytes = 65536 ∧ (4, 65535) ≠ (group4.n, group4.stateBytes) ∧ (snapping 1 {}).snp.active = true ∧
    (snapping 1 {}).snp.step = 10 ∧ (snapping 1 {}).admState = admRunning ∧ (1, 65472) ∉ (snapping 1 {}).snp.pieces ∧ 65472 % 64 = 0 ∧
    (1, 0) ∈ (snapping 1 { pieces := [(1, 0)] }).snp.pieces ∧ stripeCell group4 2 group4.pos = 0 ∧ 0 + 1 < dataCells group4 ∧
    (safe admHalted).mayRestore = true ∧ (safe admRunning).mayRestore = false ∧ (restoring 2 {}).mayRestore = true ∧ (restoring 2 {}).wf = true ∧
    (restoring 2 {}).onChain = true ∧ (restoring 2 {}).bushel = some group4 ∧ (restoring 2 {}).flag mapChainIsHead 0 = true ∧
    (restoring 2 {}).chainSize = 2 ∧ (restoring 2 {}).snp.restore.heard = [] ∧ (restoring 1 {}).chainSize = 1 ∧
    (restoring 1 { phase := 5 }).snp.restore.phase = 5 ∧ (restoring 1 { phase := 6 }).snp.restore.phase = 6 ∧ (restoring 1 { phase := 6 }).wf = true ∧
    (restoring 2 { phase := 6, ends := [1] }).snp.restore.ends = [1] ∧ (safe admHalted).flag mapChainIsHead 0 = false := by
  decide +kernel

/-! ## Witnesses: number formats, identity -/

theorem witness_FormatsAgree : 0x7E < 256 ∧ valIsNan (decodeF8A 0x7E) = false ∧ valIsNan (decodeF8A 0x80) = false ∧ valIsNan (decodeF8B 0xFC) = false ∧
    valIsNan (decodeF8B 0x01) = false ∧ valIsNan (decodeG16 0x7E00) = false ∧ valIsNan (decodeG16 0x8001) = false ∧ valIsNan (decodeH16 0xFC00) = false ∧
    valIsNan (decodeH16 0x03FF) = false ∧ valIsNan (decodeB16 0x7F80) = false ∧ valIsNan (decodeB16 0x0001) = false ∧
    valIsNan (decodeS32 0xFF7FFFFF) = false ∧ valIsNan (decodeS32 0x80000001) = false := by
  decide +kernel

theorem witness_CapabilitiesOfE64 : (State.resetFor .e64).conf = .e64 := rfl

/-! ## Witness: the system commands -/

theorem witness_SystemCommandsComplete_power : on.wf = true ∧ on.accepts .cp .pwrCtrl 0 = true ∧ on.pwr.trans = none ∧ on.pwr.warm = false ∧
    on.flag secStateBusy 0 = false ∧ on.mcHalted = false ∧ on.fld pwrStatusState 0 = 0 ∧ on.admState ≠ admAdmitting ∧ on.maySleep = true ∧
    [(0, 2), (0, 3), (2, 0)].all (fun x => (moving x.1 x.2).wf && (moving x.1 x.2).pwr.waiting.isNone &&
      (moving x.1 x.2).pwr.trans == some x.2 && (moving x.1 x.2).pwr.fromState == x.1) = true ∧
    doze.wf = true ∧ doze.boot = .alive ∧ doze.power = 1 ∧ doze.pwr.waiting = none ∧ doze.pwr.trans = none ∧ WakeCause.doorbell ≠ .targetWrite ∧
    (moving 1 0).wf = true ∧ (moving 1 0).boot = .alive ∧ (moving 1 0).power = 1 ∧ (moving 1 0).pwr.waiting = none ∧ (moving 1 0).pwr.trans = some 0 ∧
    (moving 0 2).maySleep = true ∧ (moving 0 3).maySleep = true := by
  decide +kernel

theorem witness_SystemCommandsComplete_resets : on.accepts .cp .pwrReset 0 = true ∧ on.aonRuns = true ∧ on.power ≤ 1 ∧ warm.wf = true ∧
    warm.pwr.warm = true ∧ warm.pwr.waiting = none ∧ warm.accepts .cp .pwrReset 0 = true ∧ warm.flag mapRingRtmActive 0 = true ∧
    [Boot.porHeld, .coldHeld, .rom, .firmware].all (fun b => ({ State.reset with boot := b } : State).wf) = true := by
  decide +kernel

/-- OPEN, SEALED or LOCKDOWN with the presence pin asserted. -/
def attended (n : Nat) : State := (on.setFld secStatePresence 0 1).setFld secStateState 0 n

theorem witness_SystemCommandsComplete_security : on.accepts .cp .secCmd 0 = true ∧ on.security ≠ secLockdown ∧ on.admState = admUnloaded ∧
    [secOpen, secSealed].all (fun n => (attended n).wf && (attended n).accepts .cp .secPcmd 0 && (attended n).flag secStatePresence 0 &&
      !(attended n).flag secStateBusy 0) = true ∧ (attended secOpen).security = secOpen ∧ (attended secSealed).security ≠ secOpen ∧
    (attended secSealed).security ≠ secLockdown ∧ (commanded 1 true).wf = true ∧ (commanded 1 true).mcHalted = false ∧
    (commanded 1 true).pwr.waiting = none ∧ (commanded 1 true).sec.cmd = some ⟨1, true, 0⟩ ∧ (zeroing true true).wf = true ∧
    (zeroing true true).sec.zero = some ⟨true, true⟩ ∧ on.alive = true ∧ on.sec.cmd = none := by
  decide +kernel

theorem witness_SystemCommandsComplete_debug : on.accepts .tap .dbgCtrl 0 = true ∧ on.security = secOpen ∧
    (debugged 2 secOpen 0).wf = true ∧ (debugged 2 secOpen 0).accepts .tap .dbgCtrl 0 = true ∧ (debugged 2 secOpen 0).debugLevel = 2 ∧
    (debugged 2 secSealed 0).wf = true ∧ (debugged 2 secSealed 0).accepts .tap .dbgCtrl 0 = true ∧ 1 < (debugged 2 secSealed 0).debugLevel ∧ on.boot ≠ .porHeld ∧
    ((debugged 2 secOpen 0).setFld dbgStatusMcHalted 0 1).mcHalted = true ∧ ((debugged 2 secOpen 0).setFld dbgStatusMcHalted 0 1).wf = true ∧
    ((debugged 2 secOpen 0).setFld dbgStatusMcHalted 0 1).accepts .tap .dbgCtrl 0 = true ∧
    ((debugged 2 secOpen 0).setFld dbgStatusMcHalted 0 1).debugLevel = 2 ∧ (debugged 2 secOpen 0).security = secOpen ∧
    (debugged 2 secOpen 0).power = 0 ∧ (debugged 2 secOpen 0).admState = admUnloaded := by
  decide +kernel

theorem witness_SystemCommandsComplete_images : on.accepts .cp .cfgCtrl 0 = true ∧ on.flag dbgStatusScanned 0 = false ∧
    (has least admLoaded).wf = true ∧ (has least admLoaded).accepts .cp .cfgCtrl 0 = true ∧ (has least admLoaded).admState = admLoaded ∧
    (has least admHalted).wf = true ∧ (has least admHalted).accepts .cp .cfgCtrl 0 = true ∧ (has least admHalted).admState = admHalted ∧
    checking.wf = true ∧ checking.admState = admAdmitting ∧ checking.mcHalted = false ∧ checking.storeReads = false ∧ 128 ≤ least.bytes.length ∧
    min (headerOf least.bytes).bytes 268435456 ≤ least.bytes.length ∧
    checking.region0Bytes (4096 * checking.fld cfgImageOffset 0) least.bytes.length = least.bytes ∧ checking.admissionFails (readImage least) = [] := by
  decide +kernel

end Sys2Proof.Tests
end

section
/-!
PROOFS. Register writes: fields under their access codes, what an operation does to the other fields, the address map, and the gate's
refusals.
-/
namespace Sys2Proof.Machine

/-! ## Fields of a word under their access codes (R16, R439) -/

/-- The value of a field after a write of `new` over `old` under its access code. -/
def fldAfter (f : Fld) (blocked : Bool) (new old : Nat) : Nat :=
  match f.access with
  | .rw => new
  | .rwl | .rwp => if blocked then old else new
  | .w1c => old ^^^ (old &&& new)
  | .w1s => old ||| new
  | .ro | .wo => old

theorem fldAfter_rw {f : Fld} (ha : f.access = .rw) (b : Bool) (new old : Nat) : fldAfter f b new old = new := by
  simp only [fldAfter, ha]

theorem fldAfter_ro {f : Fld} (ha : f.access = .ro) (b : Bool) (new old : Nat) : fldAfter f b new old = old := by
  simp only [fldAfter, ha]

theorem fldAfter_rwl {f : Fld} (ha : f.access = .rwl) (b : Bool) (new old : Nat) : fldAfter f b new old = if b then old else new := by
  simp only [fldAfter, ha]

theorem fldAfter_rwp {f : Fld} (ha : f.access = .rwp) (b : Bool) (new old : Nat) : fldAfter f b new old = if b then old else new := by
  simp only [fldAfter, ha]

theorem fldAfter_w1c_bit {f : Fld} (ha : f.access = .w1c) (b : Bool) (new old i : Nat) :
    (fldAfter f b new old).testBit i = (old.testBit i && !new.testBit i) := by
  simp only [fldAfter, ha, Nat.testBit_xor, Nat.testBit_and]
  cases old.testBit i <;> simp

/-- Words that agree on the bits of a field agree on the field. -/
theorem fldGet_congr {g : Fld} {x w : Word} (h : ∀ i < g.width, x.getLsbD (g.lo + i) = w.getLsbD (g.lo + i)) :
    fldGet g x = fldGet g w := by
  apply Nat.eq_of_testBit_eq
  intro i
  rw [fldGet_bit, fldGet_bit]
  by_cases hi : i < g.width
  · rw [h i hi]
  · simp [hi]

/-- A write of one field leaves a field that shares no bit with it. -/
theorem fldGet_fldWrite_other {f g : Fld} (hg : g.lo + g.width ≤ 64) (h : g.lo + g.width ≤ f.lo ∨ f.lo + f.width ≤ g.lo)
    (b : Bool) (v w : Word) : fldGet g (fldWrite f b v w) = fldGet g w := by
  have hput : fldGet g (fldPut f (fldGet f v) w) = fldGet g w := fldGet_put_other f g hg h _ w
  have hmask : ∀ i < g.width, (fldMask f).getLsbD (g.lo + i) = false := by
    intro i hi
    rw [fldMask_bit]
    simp only [Bool.and_eq_false_iff, decide_eq_false_iff_not]
    omega
  unfold fldWrite
  cases f.access with
  | ro | wo => rfl
  | rw => exact hput
  | rwl | rwp =>
    cases b
    · exact hput
    · rfl
  | w1c =>
    refine fldGet_congr fun i hi => ?_
    rw [BitVec.getLsbD_and, BitVec.getLsbD_not, BitVec.getLsbD_and, hmask i hi]
    simp [show g.lo + i < 64 by omega]
  | w1s =>
    refine fldGet_congr fun i hi => ?_
    rw [BitVec.getLsbD_or, BitVec.getLsbD_and, hmask i hi]
    simp

/-- A write of a field gives it the value of its access code. -/
theorem fldGet_fldWrite_same {f : Fld} (hf : f.lo + f.width ≤ 64) (b : Bool) (v w : Word) :
    fldGet f (fldWrite f b v w) = fldAfter f b (fldGet f v) (fldGet f w) := by
  have hput : fldGet f (fldPut f (fldGet f v) w) = fldGet f v := by
    rw [fldGet_put_same f hf, Nat.mod_eq_of_lt (fldGet_lt f v)]
  have hmask : ∀ i < f.width, f.lo + i < 64 ∧ (fldMask f).getLsbD (f.lo + i) = true := by
    intro i hi
    rw [fldMask_bit]
    simp only [Bool.and_eq_true, decide_eq_true_eq]
    omega
  unfold fldWrite fldAfter
  cases f.access with
  | ro | wo => rfl
  | rw => exact hput
  | rwl | rwp =>
    cases b
    · exact hput
    · rfl
  | w1c =>
    apply Nat.eq_of_testBit_eq
    intro i
    simp only [Nat.testBit_xor, Nat.testBit_and, fldGet_bit, BitVec.getLsbD_and, BitVec.getLsbD_not]
    by_cases hi : i < f.width
    · obtain ⟨h64, hm⟩ := hmask i hi
      simp only [hi, h64, hm, decide_true, Bool.true_and, Bool.and_true]
      cases w.getLsbD (f.lo + i) <;> cases v.getLsbD (f.lo + i) <;> rfl
    · simp only [hi, decide_false, Bool.false_and, Bool.xor_false]
  | w1s =>
    apply Nat.eq_of_testBit_eq
    intro i
    simp only [Nat.testBit_or, fldGet_bit, BitVec.getLsbD_and, BitVec.getLsbD_or]
    by_cases hi : i < f.width
    · obtain ⟨-, hm⟩ := hmask i hi
      simp only [hm, Bool.and_true, Bool.and_or_distrib_left]
    · simp only [hi, decide_false, Bool.false_and, Bool.or_self]

/-- A run of writes of fields that share no bit with g leaves g. -/
theorem fldGet_foldl_fldWrite_other {g : Fld} (hg : g.lo + g.width ≤ 64) (b : Fld → Bool) (v : Word) {fs : List Fld}
    (h : ∀ f ∈ fs, g.lo + g.width ≤ f.lo ∨ f.lo + f.width ≤ g.lo) (w : Word) :
    fldGet g (fs.foldl (fun w f => fldWrite f (b f) v w) w) = fldGet g w :=
  List.foldlRecOn (motive := fun x => fldGet g x = fldGet g w) fs _ rfl
    fun x hx f hf => (fldGet_fldWrite_other hg (h f hf) _ v x).trans hx

theorem regFields_nodup (k : RegKind) : (regFields k).Nodup := by cases k <;> decide

/-- The word of register k of unit u after a write of every field under its own access code. -/
def State.writtenWord (s : State) (k : RegKind) (u : Nat) (v : Word) : Word :=
  (regFields k).foldl (fun w f => fldWrite f (s.blocked f) v w) (s.word k u)

/-- Each field of a register that is written gets the value of its own access code, whatever the others are. -/
theorem State.fldGet_writtenWord (s : State) {k : RegKind} {f : Fld} (hf : f ∈ regFields k) (u : Nat) (v : Word) :
    fldGet f (s.writtenWord k u v) = fldAfter f (s.blocked f) (fldGet f v) (s.fld f u) := by
  have hw := regFields_width hf
  obtain ⟨l, m, hl⟩ := List.append_of_mem hf
  have hnd := regFields_nodup k
  rw [hl, List.nodup_append, List.nodup_cons] at hnd
  obtain ⟨-, ⟨hm, -⟩, hne⟩ := hnd
  have hapart : ∀ g ∈ regFields k, g ≠ f → f.lo + f.width ≤ g.lo ∨ g.lo + g.width ≤ f.lo :=
    fun g hg hgf => regFields_apart hg hf hgf
  have before := fldGet_foldl_fldWrite_other hw s.blocked v (fs := l)
    (fun g hg => hapart g (by rw [hl]; exact List.mem_append_left _ hg) (hne g hg f List.mem_cons_self)) (s.word k u)
  have after := fldGet_foldl_fldWrite_other hw s.blocked v (fs := m)
    (fun g hg => hapart g (by rw [hl]; exact List.mem_append_right _ (List.mem_cons_of_mem f hg)) fun he => hm (he ▸ hg))
  unfold State.writtenWord State.fld
  rw [hl, List.foldl_append, List.foldl_cons, after, fldGet_fldWrite_same hw, before, regFields_kind hf]

/-! ## Reading fields across operations -/

/-- A field of the map that an operation keeps reads as before. -/
theorem State.keepsFields.fld {s t : State} {l : List (Fld × Nat)} (h : s.keepsFields t l) (f : Fld) (u : Nat)
    (hf : f ∈ regFields f.kind := by decide) (hu : u < 1024 := by decide) (hn : (f, u) ∉ l := by decide) : t.fld f u = s.fld f u :=
  h f.kind f hf u hu hn

/-- So does a bit. -/
theorem State.keepsFields.flag {s t : State} {l : List (Fld × Nat)} (h : s.keepsFields t l) (f : Fld) (u : Nat)
    (hf : f ∈ regFields f.kind := by decide) (hu : u < 1024 := by decide) (hn : (f, u) ∉ l := by decide) : t.flag f u = s.flag f u := by
  unfold State.flag
  rw [h.fld f u hf hu hn]

/-- The engine's write of a field of the map keeps every field but it. -/
theorem State.keepsFields_put {s : State} (h : s.wf = true) (f : Fld) (u v : Nat) {l : List (Fld × Nat)} (hl : (f, u) ∈ l)
    (hf : f ∈ regFields f.kind := by decide) (hu : u < 1024 := by decide) : s.keepsFields (s.setFld f u v) l :=
  State.keepsFields_setFld (State.wf_regs h) hf hu v hl

theorem State.keepsFields_bump {s : State} (h : s.wf = true) {k : RegKind} {f : Fld} (hf : f ∈ regFields k) {u : Nat} (hu : u < 1024)
    (n : Nat) {l : List (Fld × Nat)} (hl : (f, u) ∈ l) : s.keepsFields (s.bump f u n) l :=
  State.keepsFields_setFld (State.wf_regs h) hf hu _ hl

theorem State.keepsFields_logEv {s : State} (h : s.wf = true) (c b u a : Nat) {l : List (Fld × Nat)}
    (hl : (mgtLogStatusDropped, 0) ∈ l) : s.keepsFields (s.logEv c b u a) l :=
  State.keepsFields_logSide (State.wf_regs h) c b u 0 a hl

/-- The engine's write of a field of the map, read back. -/
theorem State.fld_setFld {s : State} (h : s.wf = true) {k : RegKind} {f : Fld} (hf : f ∈ regFields k) (u v : Nat) :
    (s.setFld f u v).fld f u = v % 2 ^ f.width := State.fld_setFld_same (State.wf_regs h) f (regFields_width hf) u v

/-- A count goes up and stops at its maximum. -/
theorem State.fld_bump {s : State} (h : s.wf = true) {k : RegKind} {f : Fld} (hf : f ∈ regFields k) (u n : Nat) :
    (s.bump f u n).fld f u = min (s.fld f u + n) (2 ^ f.width - 1) := by
  unfold State.bump
  rw [State.fld_setFld h hf]
  exact Nat.mod_eq_of_lt (by have := Nat.two_pow_pos f.width; omega)

/-- A register that is written whole reads, field by field, as the word written. -/
theorem State.fld_setWord_same {s : State} (h : s.wf = true) {k : RegKind} {f : Fld} (hf : f ∈ regFields k) (u : Nat) (w : Word) :
    (s.setWord k u w).fld f u = fldGet f w := by
  unfold State.fld
  rw [regFields_kind hf, State.word_setWord_same (State.wf_regs h)]

/-- A write of a whole register leaves the fields of every other kind. -/
theorem State.fld_setWord_kind {s : State} (h : s.wf = true) {k : RegKind} {g : Fld} (hg : g.kind ≠ k) (t u : Nat) (w : Word) :
    (s.setWord k u w).fld g t = s.fld g t := by
  unfold State.fld
  rw [State.word_setWord_kind (State.wf_regs h) hg]

theorem State.onlyRegs_bump (s : State) (f : Fld) (u n : Nat) : s.onlyRegs (s.bump f u n) := rfl

/-! ## A write of every field of a register (R16, R439) -/

/-- The counts that a discarded write may change: LOCKED, and the events that a full log queue loses. -/
abbrev discardCounts : List (Fld × Nat) := [(mgtCperrLocked, 0), (mgtLogStatusDropped, 0)]

/-- A write that is discarded in part is counted in LOCKED, and recorded where PRESENCE is what was missing. -/
def State.countDiscard (s : State) (k : RegKind) (u : Nat) (presence : Bool) : State :=
  if presence then (s.bump mgtCperrLocked 0 1).logEv 0x0201 (regBlock k) 0 (regAddr k u) else s.bump mgtCperrLocked 0 1

theorem State.countDiscard_only (s : State) (k : RegKind) (u : Nat) (p : Bool) : s.onlyRegsLog (s.countDiscard k u p) := by
  unfold State.countDiscard
  have hb := State.onlyRegsLog_of_onlyRegs (s.onlyRegs_bump mgtCperrLocked 0 1)
  cases p
  · exact hb
  · exact State.onlyRegsLog_trans hb (State.onlyRegsLog_logEv _ _ _ _ _)

theorem State.countDiscard_wf {s : State} (h : s.wf = true) (k : RegKind) (u : Nat) (p : Bool) : (s.countDiscard k u p).wf = true := by
  unfold State.countDiscard
  cases p
  · exact State.bump_wf h _ _ _
  · exact State.logEv_wf (State.bump_wf h _ _ _) _ _ _ _

theorem State.countDiscard_keeps {s : State} (h : s.wf = true) (k : RegKind) (u : Nat) (p : Bool) :
    s.keepsFields (s.countDiscard k u p) discardCounts := by
  have hb : s.keepsFields (s.bump mgtCperrLocked 0 1) discardCounts :=
    State.keepsFields_bump h (k := .mgtCperr) (by decide) (by decide) 1 (by decide)
  unfold State.countDiscard
  cases p
  · exact hb
  · exact State.keepsFields_trans hb (State.keepsFields_logEv (State.bump_wf h _ _ _) _ _ _ _ (by decide))

theorem State.countDiscard_locked {s : State} (h : s.wf = true) (k : RegKind) (u : Nat) (p : Bool) :
    (s.countDiscard k u p).fld mgtCperrLocked 0 = min (s.fld mgtCperrLocked 0 + 1) 65535 := by
  have hb : (s.bump mgtCperrLocked 0 1).fld mgtCperrLocked 0 = min (s.fld mgtCperrLocked 0 + 1) 65535 :=
    State.fld_bump h (k := .mgtCperr) (by decide) 0 1
  unfold State.countDiscard
  cases p
  · exact hb
  · exact ((State.keepsFields_logEv (State.bump_wf h _ _ _) _ _ _ _ (l := [(mgtLogStatusDropped, 0)]) (by decide)).fld
      mgtCperrLocked 0).trans hb

/-- Where no field refuses its value the register takes its new word, and nothing else happens. -/
theorem State.fieldWrite_of_taken {s : State} {k : RegKind} {u : Nat} {v : Word} (h : ∀ f ∈ regFields k, s.refusesFld f u v = false) :
    s.fieldWrite k u v = s.setWord k u (s.writtenWord k u v) := by
  have he : (regFields k).filter (fun f => s.refusesFld f u v) = [] :=
    List.filter_eq_nil_iff.2 fun f hf => by simp [h f hf]
  simp only [State.fieldWrite, he, List.isEmpty_nil, if_true]
  rfl

/-- Where a field refuses its value the discard is counted too. -/
theorem State.fieldWrite_of_refused {s : State} {k : RegKind} {u : Nat} {v : Word} (h : ∃ f ∈ regFields k, s.refusesFld f u v = true) :
    ∃ p, s.fieldWrite k u v = (s.setWord k u (s.writtenWord k u v)).countDiscard k u p := by
  obtain ⟨f, hf, hr⟩ := h
  have hne : ((regFields k).filter (fun f => s.refusesFld f u v)).isEmpty = false :=
    List.isEmpty_eq_false_iff.2 (List.ne_nil_of_mem (List.mem_filter.2 ⟨hf, hr⟩))
  refine ⟨((regFields k).filter fun f => s.refusesFld f u v).any fun f => f.access == .rwp, ?_⟩
  simp only [State.fieldWrite, hne]
  rfl

/-- What a write of a register does at all: the register's new word, and perhaps the count of a discard. -/
theorem State.fieldWrite_cases (s : State) (k : RegKind) (u : Nat) (v : Word) :
    s.fieldWrite k u v = s.setWord k u (s.writtenWord k u v) ∨
      ∃ p, s.fieldWrite k u v = (s.setWord k u (s.writtenWord k u v)).countDiscard k u p := by
  by_cases h : ∃ f ∈ regFields k, s.refusesFld f u v = true
  · exact .inr (State.fieldWrite_of_refused h)
  · exact .inl (State.fieldWrite_of_taken fun f hf => by simpa using fun hr => h ⟨f, hf, hr⟩)

theorem State.fieldWrite_only (s : State) (k : RegKind) (u : Nat) (v : Word) : s.onlyRegsLog (s.fieldWrite k u v) := by
  rcases s.fieldWrite_cases k u v with he | ⟨p, he⟩ <;> rw [he]
  · rfl
  · exact State.onlyRegsLog_trans (s := s.setWord k u (s.writtenWord k u v)) rfl (State.countDiscard_only _ k u p)

/-- Every field but the counts of discards stands as the register's new word gives it. -/
theorem State.fieldWrite_keeps {s : State} (h : s.wf = true) (k : RegKind) (u : Nat) (v : Word) :
    (s.setWord k u (s.writtenWord k u v)).keepsFields (s.fieldWrite k u v) discardCounts := by
  rcases s.fieldWrite_cases k u v with he | ⟨p, he⟩ <;> rw [he]
  · exact State.keepsFields_refl _ _
  · exact State.countDiscard_keeps (State.setWord_wf h _ _ _) _ _ _

/-- A field of a register that is written has the value of its access code, unless it is one of the counts. -/
theorem State.fld_fieldWrite {s : State} (h : s.wf = true) {k : RegKind} {f : Fld} (hf : f ∈ regFields k) {u : Nat} (hu : u < 1024)
    (v : Word) (hc : (f, u) ∉ discardCounts) :
    (s.fieldWrite k u v).fld f u = fldAfter f (s.blocked f) (fldGet f v) (s.fld f u) := by
  rw [State.fieldWrite_keeps h k u v k f hf u hu hc, State.fld_setWord_same h hf, s.fldGet_writtenWord hf u v]

/-- A write of a register keeps the fields of every other one but the counts of discards. -/
theorem State.fld_fieldWrite_kind {s : State} (h : s.wf = true) {j k : RegKind} (hjk : j ≠ k) {g : Fld} (hg : g ∈ regFields j)
    (u : Nat) {w : Nat} (hw : w < 1024) (v : Word) (hc : (g, w) ∉ discardCounts) : (s.fieldWrite k u v).fld g w = s.fld g w := by
  rw [State.fieldWrite_keeps h k u v j g hg w hw hc, State.fld_setWord_kind h (regFields_kind hg ▸ hjk)]

/-- Where a field refuses its value, LOCKED counts one discard for the whole write, unless it is the register written. -/
theorem State.fieldWrite_locked {s : State} (h : s.wf = true) {k : RegKind} (hk : k ≠ .mgtCperr) {u : Nat} {v : Word}
    (hr : ∃ f ∈ regFields k, s.refusesFld f u v = true) :
    (s.fieldWrite k u v).fld mgtCperrLocked 0 = min (s.fld mgtCperrLocked 0 + 1) 65535 := by
  obtain ⟨p, he⟩ := State.fieldWrite_of_refused hr
  rw [he, State.countDiscard_locked (State.setWord_wf h _ _ _), State.fld_setWord_kind h (g := mgtCperrLocked) hk.symm]

/-! ## The address map (R418) -/

/-- The unit of a register at an address: 0 where the register is single, and below the number of units otherwise. -/
theorem regAt_unit {addr : Nat} {k : RegKind} {u : Nat} (h : regAt addr = some (k, u)) :
    ((regPlace k).2.1 = 0 → u = 0) ∧ (u = 0 ∨ u < (regPlace k).2.2) := by
  unfold regAt at h
  obtain ⟨j, hj, he⟩ := Option.map_eq_some_iff.1 h
  have hp := List.find?_some hj
  rcases hr : regPlace j with ⟨b, st, n⟩
  simp only [hr, Prod.mk.injEq] at hp he
  obtain ⟨rfl, hu⟩ := he
  rw [hr]
  by_cases hs : st = 0
  · simp only [hs, if_true] at hu
    exact ⟨fun _ => hu.symm, .inl hu.symm⟩
  · simp only [hs, if_false, Bool.and_eq_true, decide_eq_true_eq] at hp hu
    exact ⟨fun h0 => absurd h0 hs, .inr (hu ▸ hp.2)⟩

theorem regPlace_units (k : RegKind) : (regPlace k).2.2 ≤ 128 := by cases k <;> decide

/-- Unit numbers lie below 1,024. -/
theorem regAt_unit_lt {addr : Nat} {k : RegKind} {u : Nat} (h : regAt addr = some (k, u)) : u < 1024 := by
  have := regPlace_units k
  rcases (regAt_unit h).2 with hu | hu <;> omega

/-! ## The gate of register writes, refusal by refusal -/

/-- A write of a register is its effect behind the gate. -/
theorem exec_registerWrite {addr : Nat} {k : RegKind} {u : Nat} (h : regAt addr = some (k, u)) (v : Word) (src : Src) (s : State) :
    exec (.registerWrite addr v src) s = .next (s.gate src k u fun s => s.effWrite k u v src) := by
  show execRegisterWrite addr v src s = _
  simp only [execRegisterWrite, h]

/-- An accepted write of a register has its effect. -/
theorem exec_registerWrite_accepted {addr : Nat} {k : RegKind} {u : Nat} (h : regAt addr = some (k, u)) (v : Word) {src : Src}
    {s : State} (ha : s.accepts src k u = true) : exec (.registerWrite addr v src) s = .next (s.effWrite k u v src) := by
  rw [exec_registerWrite h, State.gate_accepts ha]

/-- A write of a register without commands acts on its fields alone. -/
theorem State.effWrite_plain {k : RegKind} (h : plainRegister k = true) (s : State) (u : Nat) (v : Word) (src : Src) :
    s.effWrite k u v src = s.fieldWrite k u v := by
  cases k <;> simp [plainRegister, State.effWrite] at h ⊢

section
variable {s : State} {src : Src} {k : RegKind} {u : Nat} (f : State → State)

/-- Before CP_ALIVE a write has no effect (R395). -/
theorem State.gate_dead (ha : s.alive = false) : s.gate src k u f = s := by
  simp only [State.gate, ha, Bool.not_false, if_true]

/-- The TAP below Intrusive is refused (R384). -/
theorem State.gate_tap (ha : s.alive = true) (hl : s.debugLevel < 2) (hk : k ≠ .dbgCtrl) :
    s.gate .tap k u f = s.dbgRefuse.cperrState := by
  simp [State.gate, ha, hl, hk]

/-- The bank of an absent resource discards what the control port writes (R9). -/
theorem State.gate_absent (hn : regAbsent s.conf k u = true) : s.gate .cp k u f = s := by
  cases ha : s.alive <;> simp [State.gate, ha, hn]

/-- In Lockdown, or while ZPEND is set, a write outside PWR, SEC/DBG and MGT is recorded and counted (R368, R377). -/
theorem State.gate_lockdown (ha : s.alive = true) (hn : regAbsent s.conf k u = false)
    (hz : s.security = secLockdown ∨ s.flag secStateZpend 0 = true) (h1 : regBlock k ≠ 11) (h2 : regBlock k ≠ 12) (h3 : regBlock k ≠ 14) :
    s.gate .cp k u f = (s.logEv 0x0202 (regBlock k) 0 (regAddr k u)).cperrState := by
  simp [State.gate, ha, hn, hz, h1, h2, h3]

/-- In Sleep and Hibernate a write outside the AON island is counted (R354). -/
theorem State.gate_asleep (ha : s.alive = true) (hn : regAbsent s.conf k u = false) (hs : s.security ≠ secLockdown)
    (hz : s.flag secStateZpend 0 = false) (hp : 2 ≤ s.power) (hk : regAon k = false) : s.gate .cp k u f = s.cperrState := by
  simp [State.gate, ha, hn, hs, hz, hp, hk]

end

end Sys2Proof.Machine
end

section
/-!
PROOFS. The register words at reset.
-/
namespace Sys2Proof.Machine

/-! ## Reset values (R359) -/

theorem regKinds_ctorIdx (k : RegKind) : regKinds[k.ctorIdx]? = some k := by cases k <;> rfl

/-- An unlisted register word is the reset value of its register. -/
theorem regDefault_regKey (k : RegKind) {u : Nat} (hu : u < 1024) : regDefault (regKey k u) = resetWord k u := by
  have hk : regKey k u / 1024 = k.ctorIdx := by unfold regKey; omega
  have hm : regKey k u % 1024 = u := by unfold regKey; omega
  simp only [regDefault, hk, hm, regKinds_ctorIdx]

/-- The units of a register have one reset value, but that regions 1 to 6 differ from region 0. -/
theorem resetWord_unit (k : RegKind) (u : Nat) : resetWord k u = resetWord k (if u = 0 then 0 else 1) := by
  by_cases hu : u = 0 <;> simp [resetWord, hu]

/-- Each field's part of the reset word is the reset value of its table; CODED is 1 in the regions from 1 on. -/
theorem fldGet_resetWord (k : RegKind) : ∀ f ∈ regFields k, ∀ b ∈ [0, 1],
    fldGet f (resetWord k b) = if f = cfgRegionCoded ∧ b ≠ 0 then 1 else f.reset := by
  cases k <;> decide

/-- At reset every field reads its reset value. -/
theorem State.resetFor_fld (c : Configuration) {k : RegKind} {f : Fld} (hf : f ∈ regFields k) {u : Nat} (hu : u < 1024) :
    (State.resetFor c).fld f u = if f = cfgRegionCoded ∧ u ≠ 0 then 1 else f.reset := by
  have hw : (State.resetFor c).fld f u = fldGet f (resetWord k u) := by
    rw [← regDefault_regKey k hu, ← regFields_kind hf]
    rfl
  rw [hw, resetWord_unit, fldGet_resetWord k f hf _ (by by_cases h0 : u = 0 <;> simp [h0])]
  by_cases h0 : u = 0 <;> simp [h0]

/-- At reset every table has its entries. -/
theorem State.resetFor_sized (c : Configuration) : (State.resetFor c).sized = true := by
  simp only [State.sized, State.resetFor, List.length_replicate]
  rfl

end Sys2Proof.Machine
end

section
/-!
PROOFS. Registers of which a write acts: command bits, the caps of the clocks, SEC.POLICY.
-/
namespace Sys2Proof.Machine

/-! ## Registers that act on one command bit (R424) -/

/-- The registers of which a write acts on one command bit. -/
abbrev oneCommandRegs : List RegKind := [.cfgCtrl, .seqCtrl, .snpCtrl, .pwrReset]

/-- Their command bits, with the effect of each. -/
def commandBits (k : RegKind) (u : Nat) : List (Fld × (State → State)) :=
  match k with
  | .cfgCtrl => [(cfgCtrlAdmit, State.effAdmit), (cfgCtrlDispatch, State.effDispatch), (cfgCtrlUnload, State.effUnload)]
  | .seqCtrl => [(seqCtrlPreempt, fun s => s.preemptCtx u), (seqCtrlResume, fun s => (s.resumeCtx u).resumeMoves u)]
  | .snpCtrl => [(snpCtrlRestore, State.effRestore), (snpCtrlLocalHalt, State.effLocalHalt)]
  | .pwrReset => [(pwrResetCold, State.effCold), (pwrResetWarm, State.effWarm), (pwrResetRtmRelease, State.effRtmRelease)]
  | _ => []

/-- A write of such a register acts by its command bits. -/
theorem State.effWrite_oneCommand {k : RegKind} (hk : k ∈ oneCommandRegs) (s : State) (u : Nat) (v : Word) (src : Src) :
    s.effWrite k u v src = s.oneOf k u v (commandBits k u) := by
  simp only [List.mem_cons, List.not_mem_nil, or_false] at hk
  rcases hk with rfl | rfl | rfl | rfl <;> rfl

/-- The command bits of such a register are its write-only fields. -/
theorem commandBits_fields {k : RegKind} (hk : k ∈ oneCommandRegs) (u : Nat) :
    (commandBits k u).map (·.1) = (regFields k).filter (·.access == .wo) := by
  simp only [List.mem_cons, List.not_mem_nil, or_false] at hk
  rcases hk with rfl | rfl | rfl | rfl <;> rfl

/-- Two command bits at 1: none acts. -/
theorem State.oneOf_several {cmds : List (Fld × (State → State))} {a b : Fld × (State → State)} {v : Word} (ha : a ∈ cmds)
    (hb : b ∈ cmds) (hab : a.1 ≠ b.1) (hva : wbit a.1 v = true) (hvb : wbit b.1 v = true) (s : State) (k : RegKind) (u : Nat) :
    s.oneOf k u v cmds = s.severalBits k u v := by
  have hma : a ∈ cmds.filter fun c => wbit c.1 v := List.mem_filter.2 ⟨ha, hva⟩
  have hmb : b ∈ cmds.filter fun c => wbit c.1 v := List.mem_filter.2 ⟨hb, hvb⟩
  unfold State.oneOf
  split
  next h => exact absurd (h ▸ hma) List.not_mem_nil
  next c h =>
    rw [h] at hma hmb
    exact absurd (congrArg Prod.fst ((List.mem_singleton.1 hma).trans (List.mem_singleton.1 hmb).symm)) hab
  next => rfl

/-- Of commands with different bits, those whose bit is 1 are one command alone when no other bit is 1. -/
theorem filter_wbit_alone {a : Fld × (State → State)} {v : Word} (hva : wbit a.1 v = true) {cmds : List (Fld × (State → State))}
    (hn : (cmds.map (·.1)).Nodup) (ha : a ∈ cmds) (hrest : ∀ f ∈ cmds.map (·.1), f ≠ a.1 → wbit f v = false) :
    cmds.filter (fun c => wbit c.1 v) = [a] := by
  induction cmds with
  | nil => cases ha
  | cons c cs ih =>
    rw [List.map_cons] at hn hrest
    obtain ⟨hc, hcs⟩ := List.nodup_cons.1 hn
    have htail : ∀ f ∈ cs.map (·.1), f ≠ a.1 → wbit f v = false := fun f hf => hrest f (List.mem_cons_of_mem _ hf)
    rcases List.mem_cons.1 ha with rfl | ha
    · have hnil : cs.filter (fun c => wbit c.1 v) = [] := List.filter_eq_nil_iff.2 fun b hb => by
        have hm : b.1 ∈ cs.map (·.1) := List.mem_map_of_mem hb
        exact Bool.eq_false_iff.1 (htail b.1 hm fun he => hc (he ▸ hm))
      simp only [List.filter_cons, hva, if_true, hnil]
    · have hm : a.1 ∈ cs.map (·.1) := List.mem_map_of_mem ha
      have hoff : wbit c.1 v = false := hrest c.1 List.mem_cons_self fun he => hc (he ▸ hm)
      simp only [List.filter_cons, hoff, Bool.false_eq_true, if_false, ih hcs ha htail]

/-- One command bit alone at 1: it acts. -/
theorem State.oneOf_alone {cmds : List (Fld × (State → State))} (hn : (cmds.map (·.1)).Nodup) {a : Fld × (State → State)} {v : Word}
    (ha : a ∈ cmds) (hva : wbit a.1 v = true) (hrest : ∀ f ∈ cmds.map (·.1), f ≠ a.1 → wbit f v = false) (s : State) (k : RegKind)
    (u : Nat) : s.oneOf k u v cmds = a.2 s := by
  simp only [State.oneOf, filter_wbit_alone hva hn ha hrest]

theorem State.severalBits_only (s : State) (k : RegKind) (u : Nat) (v : Word) : s.onlyRegsLog (s.severalBits k u v) :=
  State.onlyRegsLog_trans (State.onlyRegsLog_logEv _ _ _ _ _) (State.onlyRegsLog_of_onlyRegs (State.onlyRegs_bump _ _ _ _))

/-- A write of several command bits counts in CPERR.STATE. -/
theorem State.severalBits_count {s : State} (h : s.wf = true) (k : RegKind) (u : Nat) (v : Word) :
    (s.severalBits k u v).fld mgtCperrState 0 = min (s.fld mgtCperrState 0 + 1) 65535 := by
  have hlog : ∀ c b u a, (s.logEv c b u a).fld mgtCperrState 0 = s.fld mgtCperrState 0 := fun c b u a =>
    (State.keepsFields_logEv h c b u a (l := [(mgtLogStatusDropped, 0)]) (by decide)).fld mgtCperrState 0
  unfold State.severalBits State.cperrState
  rw [State.fld_bump (State.logEv_wf h _ _ _ _) (k := .mgtCperr) (by decide), hlog]
  rfl

theorem State.severalBits_keeps {s : State} (h : s.wf = true) (k : RegKind) (u : Nat) (v : Word) :
    s.keepsFields (s.severalBits k u v) [(mgtCperrState, 0), (mgtLogStatusDropped, 0)] :=
  State.keepsFields_trans (State.keepsFields_logEv h _ _ _ _ (by decide))
    (State.keepsFields_bump (State.logEv_wf h _ _ _ _) (k := .mgtCperr) (by decide) (by decide) 1 (by decide))

/-- Of a register that acts on one command bit, an accepted write of two has no effect of theirs. -/
theorem exec_registerWrite_several {addr : Nat} {k : RegKind} {u : Nat} (hat : regAt addr = some (k, u)) (hk : k ∈ oneCommandRegs)
    {src : Src} {s : State} (hacc : s.accepts src k u = true) {f g : Fld} (hf : f ∈ regFields k) (hg : g ∈ regFields k) (hfg : f ≠ g)
    (haf : f.access = .wo) (hag : g.access = .wo) {v : Word} (hvf : fldGet f v = 1) (hvg : fldGet g v = 1) :
    exec (.registerWrite addr v src) s = .next (s.severalBits k u v) := by
  have hmem : ∀ x ∈ regFields k, x.access = .wo → ∃ e, (x, e) ∈ commandBits k u := by
    intro x hx hax
    have hx' : x ∈ (commandBits k u).map (·.1) := by
      rw [commandBits_fields hk]
      exact List.mem_filter.2 ⟨hx, by simp [hax]⟩
    obtain ⟨⟨_, e⟩, he, rfl⟩ := List.mem_map.1 hx'
    exact ⟨e, he⟩
  obtain ⟨d, hd⟩ := hmem f hf haf
  obtain ⟨e, he⟩ := hmem g hg hag
  rw [exec_registerWrite_accepted hat v hacc, State.effWrite_oneCommand hk,
    State.oneOf_several hd he hfg (by simp [wbit, hvf]) (by simp [wbit, hvg])]

/-- Of such a register an accepted write of one command bit alone is that command. -/
theorem exec_registerWrite_alone {addr : Nat} {k : RegKind} {u : Nat} (hat : regAt addr = some (k, u)) (hk : k ∈ oneCommandRegs)
    {src : Src} {s : State} (hacc : s.accepts src k u = true) {f : Fld} {e : State → State} (hf : (f, e) ∈ commandBits k u) {v : Word}
    (hv : fldGet f v = 1) (hrest : ∀ g ∈ regFields k, g.access = .wo → g ≠ f → fldGet g v ≠ 1) :
    exec (.registerWrite addr v src) s = .next (s.gate src k u e) := by
  have hn : ((commandBits k u).map (·.1)).Nodup := by
    rw [commandBits_fields hk]
    exact (regFields_nodup k).filter _
  have hoff : ∀ g ∈ (commandBits k u).map (·.1), g ≠ f → wbit g v = false := by
    intro g hg hgf
    rw [commandBits_fields hk] at hg
    obtain ⟨hgm, hga⟩ := List.mem_filter.1 hg
    simpa [wbit] using hrest g hgm (by simpa using hga) hgf
  rw [exec_registerWrite_accepted hat v hacc, State.effWrite_oneCommand hk, State.gate_accepts hacc,
    State.oneOf_alone hn hf (by simp [wbit, hv]) hoff]

/-- The command of each command bit. -/
def bitCommands (u : Nat) (src : Src) : List (Fld × Instr) :=
  [(cfgCtrlAdmit, .admit_ src), (cfgCtrlDispatch, .dispatch src), (cfgCtrlUnload, .unload src), (seqCtrlPreempt, .preempt u src),
    (seqCtrlResume, .resume u src), (snpCtrlRestore, .restore src), (snpCtrlLocalHalt, .localHalt src), (pwrResetCold, .coldReset false src),
    (pwrResetWarm, .warmReset src), (pwrResetRtmRelease, .rtmRelease src)]

/-- A command is the effect of its bit behind the gate of its register. -/
theorem bitCommands_gate {u : Nat} {src : Src} {f : Fld} {c : Instr} (h : (f, c) ∈ bitCommands u src)
    (hu : (regPlace f.kind).2.1 = 0 → u = 0) :
    f.kind ∈ oneCommandRegs ∧ ∃ e, (f, e) ∈ commandBits f.kind u ∧ ∀ s, exec c s = .next (s.gate src f.kind u e) := by
  simp only [bitCommands, List.mem_cons, Prod.mk.injEq, List.not_mem_nil, or_false] at h
  rcases h with ⟨rfl, rfl⟩ | ⟨rfl, rfl⟩ | ⟨rfl, rfl⟩ | ⟨rfl, rfl⟩ | ⟨rfl, rfl⟩ | ⟨rfl, rfl⟩ | ⟨rfl, rfl⟩ | ⟨rfl, rfl⟩ | ⟨rfl, rfl⟩ | ⟨rfl, rfl⟩
  · exact ⟨by decide, State.effAdmit, .head _, fun s => by rw [hu rfl]; rfl⟩
  · exact ⟨by decide, State.effDispatch, .tail _ (.head _), fun s => by rw [hu rfl]; rfl⟩
  · exact ⟨by decide, State.effUnload, .tail _ (.tail _ (.head _)), fun s => by rw [hu rfl]; rfl⟩
  · exact ⟨by decide, fun s => s.preemptCtx u, .head _, fun _ => rfl⟩
  · exact ⟨by decide, fun s => (s.resumeCtx u).resumeMoves u, .tail _ (.head _), fun _ => rfl⟩
  · exact ⟨by decide, State.effRestore, .head _, fun s => by rw [hu rfl]; rfl⟩
  · exact ⟨by decide, State.effLocalHalt, .tail _ (.head _), fun s => by rw [hu rfl]; rfl⟩
  · exact ⟨by decide, State.effCold, .head _, fun s => by rw [hu rfl]; rfl⟩
  · exact ⟨by decide, State.effWarm, .tail _ (.head _), fun s => by rw [hu rfl]; rfl⟩
  · exact ⟨by decide, State.effRtmRelease, .tail _ (.tail _ (.head _)), fun s => by rw [hu rfl]; rfl⟩

/-! ## Writes that no lock can refuse, and what such a write keeps -/

/-- A field without a lock and without PRESENCE refuses no value. -/
theorem State.refusesFld_free {f : Fld} (hl : f.access ≠ .rwl) (hp : f.access ≠ .rwp) (s : State) (u : Nat) (v : Word) :
    s.refusesFld f u v = false := by
  cases ha : f.access <;> simp_all [State.refusesFld, State.blocked]

/-- The new word of a register keeps every field of the map but those that the access codes change. -/
theorem State.keepsFields_writtenWord {s : State} (h : s.wf = true) (k : RegKind) {u : Nat} (hu : u < 1024) (v : Word)
    {l : List (Fld × Nat)}
    (hl : ∀ f ∈ regFields k, (f, u) ∉ l → fldAfter f (s.blocked f) (fldGet f v) (s.fld f u) = s.fld f u) :
    s.keepsFields (s.setWord k u (s.writtenWord k u v)) l := by
  intro j g hg t ht hn
  by_cases hj : j = k ∧ t = u
  · obtain ⟨rfl, rfl⟩ := hj
    rw [State.fld_setWord_same h hg, s.fldGet_writtenWord hg, hl g hg hn]
  · unfold State.fld
    rw [State.word_setWord_other (State.wf_regs h) ht hu (by rwa [regFields_kind hg])]

/-! ## The caps of the clocks (R348, R352, R353) -/

/-- Nothing but register words and the fraction of UPD differs: all that a fall of a cap can do. -/
def State.onlyCaps (s t : State) : Prop := t = { s with regs := t.regs, pwr := { s.pwr with updN := t.pwr.updN } }

theorem State.onlyCaps_carried : Carried State.onlyCaps :=
  ⟨fun _ => rfl, fun h1 h2 => by unfold State.onlyCaps at *; rw [h2, h1]⟩

theorem State.onlyCaps_of_onlyRegs {s t : State} (h : s.onlyRegs t) : s.onlyCaps t := by
  unfold State.onlyRegs at h
  unfold State.onlyCaps
  rw [h]

/-- What of power and clocks stands as before. -/
theorem State.onlyCaps_pwr {s t : State} (h : s.onlyCaps t) : t.pwr.trans = s.pwr.trans ∧ t.pwr.fromState = s.pwr.fromState ∧
    t.pwr.clusters = s.pwr.clusters ∧ t.pwr.trip = s.pwr.trip ∧ t.pwr.comparator = s.pwr.comparator := by
  unfold State.onlyCaps at h
  rw [h]
  exact ⟨rfl, rfl, rfl, rfl, rfl⟩

theorem State.onlyCaps_boot {s t : State} (h : s.onlyCaps t) : t.boot = s.boot := by rw [h]

/-- The clocks run as before where the power state reads as before. -/
theorem State.clocksOn_congr {s t : State} (h : s.onlyCaps t) (hp : t.fld pwrStatusState 0 = s.fld pwrStatusState 0) :
    t.clocksOn = s.clocksOn := by
  obtain ⟨htrans, hfrom, -⟩ := State.onlyCaps_pwr h
  unfold State.clocksOn State.alive State.power
  rw [State.onlyCaps_boot h, htrans, hfrom, hp]

theorem State.clockOn_congr {s t : State} (h : s.onlyCaps t) (hp : t.fld pwrStatusState 0 = s.fld pwrStatusState 0) {c : Nat}
    (hg : t.fld pwrClkGated c = s.fld pwrClkGated c) : t.clockOn c = s.clockOn c := by
  simp only [State.clockOn, State.clocksOn_congr h hp, State.flag, hg]

/-- The fields that the caps are read from. -/
abbrev capFields : List Fld := [pwrThrotActive, pwrThrotNThr, pwrThermHostAlm, pwrThermHot, pwrThermNTherm, dbgStatusMcHalted]

/-- The caps stand where their fields do. -/
theorem State.capLimit_congr {s t : State} (h : s.onlyCaps t) (hf : ∀ f ∈ capFields, t.fld f 0 = s.fld f 0) :
    t.capLimit = s.capLimit := by
  simp only [List.forall_mem_cons] at hf
  obtain ⟨h1, h2, h3, h4, h5, h6, -⟩ := hf
  obtain ⟨-, -, -, htrip, hcomp⟩ := State.onlyCaps_pwr h
  unfold State.capLimit State.throttleCap State.thermalCap State.mcHalted State.flag
  rw [htrip, hcomp, h1, h2, h3, h4, h5, h6]

theorem State.nLimit_congr {s t : State} (h : s.onlyCaps t) (hf : ∀ f ∈ capFields, t.fld f 0 = s.fld f 0) (c : Nat) :
    t.nLimit c = s.nLimit c := by
  obtain ⟨-, -, hclusters, -⟩ := State.onlyCaps_pwr h
  unfold State.nLimit State.cluster
  rw [State.capLimit_congr h hf, hclusters]

/-- No cap is 0. -/
theorem State.nLimit_pos (s : State) (c : Nat) : 0 < s.nLimit c := by
  have hcap : ∀ n, 0 < capOf n := fun n => by unfold capOf; split <;> omega
  have hthr : 0 < s.throttleCap := by
    unfold State.throttleCap
    split
    · exact hcap _
    · decide
  have hth : 0 < s.thermalCap := by
    unfold State.thermalCap
    split
    · decide
    · split
      · exact hcap _
      · decide
  unfold State.nLimit State.capLimit
  split <;> omega

/-- A fall of a cap, for one cluster. -/
def State.capCluster (s : State) (c : Nat) : State :=
  if s.clockOn c && decide (s.nLimit c < s.clusterN c) then s.setN c (s.nLimit c) else s

theorem State.applyCaps_eq (s : State) : s.applyCaps =
    let t := s.clusterList.foldl State.capCluster s
    if t.clocksOn && !t.pwr.updGated then { t with pwr := { t.pwr with updN := min t.pwr.updN t.capLimit } } else t := rfl

/-- The fractions N of clusters. -/
abbrev fractions (cs : List Nat) : List (Fld × Nat) := cs.map (pwrClkNM1, ·)

theorem not_mem_fractions {f : Fld} (hf : f ≠ pwrClkNM1) (u : Nat) (cs : List Nat) : (f, u) ∉ fractions cs := by
  simp [Ne.symm hf]

/-- The caps are not read from the fractions. -/
theorem State.capFields_kept {s t : State} {cs : List Nat} (h : s.keepsFields t (fractions cs)) : ∀ f ∈ capFields, t.fld f 0 = s.fld f 0 := by
  have hmap : ∀ f ∈ capFields, f ∈ regFields f.kind ∧ f ≠ pwrClkNM1 := by decide
  exact fun f hf => h.fld f 0 (hmap f hf).1 (by decide) (not_mem_fractions (hmap f hf).2 0 cs)

theorem State.capCluster_only (s : State) (c : Nat) : s.onlyRegs (s.capCluster c) := by
  unfold State.capCluster
  split <;> rfl

theorem State.capCluster_wf {s : State} (h : s.wf = true) (c : Nat) : (s.capCluster c).wf = true := by
  unfold State.capCluster
  split
  · exact State.setFld_wf h _ _ _
  · exact h

theorem State.capCluster_keeps {s : State} (h : s.wf = true) {c : Nat} (hc : c < 8) : s.keepsFields (s.capCluster c) [(pwrClkNM1, c)] := by
  unfold State.capCluster
  split
  · exact State.keepsFields_setFld (State.wf_regs h) (k := .pwrClk) (by decide) (by omega) _ List.mem_cons_self
  · exact State.keepsFields_refl _ _

/-- The cluster's N falls to its limit where its clock runs. -/
theorem State.capCluster_clusterN {s : State} (h : s.wf = true) (c : Nat) :
    (s.capCluster c).clusterN c = if s.clockOn c then min (s.clusterN c) (s.nLimit c) else s.clusterN c := by
  have hpos := s.nLimit_pos c
  have hmax : s.clusterN c ≤ 16 := s.fld_lt pwrClkNM1 c
  unfold State.capCluster
  cases hon : s.clockOn c
  · simp
  · by_cases hlt : s.nLimit c < s.clusterN c
    · have hset : (s.setN c (s.nLimit c)).clusterN c = (s.nLimit c - 1) % 16 + 1 :=
        congrArg (· + 1) (State.fld_setFld h (k := .pwrClk) (by decide) c (s.nLimit c - 1))
      simp only [hlt, decide_true, Bool.and_self, if_true, hset]
      omega
    · simp only [hlt, decide_false, Bool.and_false, Bool.false_eq_true, if_false, if_true]
      omega

/-- What the fall of the caps over a list of clusters keeps. -/
theorem State.foldl_capCluster_keeps {s : State} (h : s.wf = true) {cs : List Nat} (hcs : ∀ c ∈ cs, c < 8) :
    (cs.foldl State.capCluster s).wf = true ∧ s.onlyRegs (cs.foldl State.capCluster s) ∧
      s.keepsFields (cs.foldl State.capCluster s) (fractions cs) := by
  refine List.foldlRecOn (motive := fun t => t.wf = true ∧ s.onlyRegs t ∧ s.keepsFields t (fractions cs)) cs _
    ⟨h, State.onlyRegs_refl s, State.keepsFields_refl _ _⟩ fun t ⟨hw, ho, hk⟩ c hc => ?_
  refine ⟨State.capCluster_wf hw c, State.onlyRegs_trans ho (t.capCluster_only c), State.keepsFields_trans hk ?_⟩
  exact State.keepsFields_mono (State.capCluster_keeps hw (hcs c hc)) (by simpa using hc)

/-- The fall of the caps leaves the N of a cluster that it does not reach. -/
theorem State.foldl_capCluster_other {s : State} (h : s.wf = true) {cs : List Nat} (hcs : ∀ c ∈ cs, c < 8) {c : Nat} (hc : c < 8)
    (hn : c ∉ cs) : (cs.foldl State.capCluster s).clusterN c = s.clusterN c :=
  congrArg (· + 1) ((State.foldl_capCluster_keeps h hcs).2.2.fld pwrClkNM1 c (by decide) (by omega) (by simpa using hn))

/-- Every N of a running clock falls with its cap, whatever the clusters before and after it did. -/
theorem State.foldl_capCluster_clusterN {s : State} (h : s.wf = true) {cs : List Nat} (hn : cs.Nodup) (hcs : ∀ c ∈ cs, c < 8) {c : Nat}
    (hc : c ∈ cs) : (cs.foldl State.capCluster s).clusterN c = if s.clockOn c then min (s.clusterN c) (s.nLimit c) else s.clusterN c := by
  have hc8 := hcs c hc
  obtain ⟨l, m, rfl⟩ := List.append_of_mem hc
  rw [List.nodup_append, List.nodup_cons] at hn
  obtain ⟨-, ⟨hm, -⟩, hne⟩ := hn
  have hl : ∀ d ∈ l, d < 8 := fun d hd => hcs d (List.mem_append_left _ hd)
  obtain ⟨hw, ho, hk⟩ := State.foldl_capCluster_keeps h hl
  have ho := State.onlyCaps_of_onlyRegs ho
  have hon : (l.foldl State.capCluster s).clockOn c = s.clockOn c :=
    State.clockOn_congr ho (hk.fld pwrStatusState 0 (hn := not_mem_fractions (by decide) 0 l))
      (hk.fld pwrClkGated c (hu := by omega) (hn := not_mem_fractions (by decide) c l))
  have hlim : (l.foldl State.capCluster s).nLimit c = s.nLimit c := State.nLimit_congr ho (State.capFields_kept hk) c
  have hN : (l.foldl State.capCluster s).clusterN c = s.clusterN c :=
    State.foldl_capCluster_other h hl hc8 fun hcl => hne c hcl c List.mem_cons_self rfl
  rw [List.foldl_append, List.foldl_cons, State.foldl_capCluster_other (State.capCluster_wf hw c)
    (fun d hd => hcs d (List.mem_append_right _ (List.mem_cons_of_mem c hd))) hc8 hm, State.capCluster_clusterN hw, hon, hlim, hN]

theorem clusters_le (c : Configuration) : Config.clusters c ≤ 8 := by cases c <;> decide

/-- A fall of the caps (R348, R352): what it keeps, and where N and the fraction of UPD stand after it. -/
theorem State.applyCaps_spec {s : State} (h : s.wf = true) :
    s.onlyCaps s.applyCaps ∧ s.keepsFields s.applyCaps (fractions (List.range 8)) ∧
      (∀ c < Config.clusters s.conf, s.applyCaps.clusterN c = if s.clockOn c then min (s.clusterN c) (s.nLimit c) else s.clusterN c) ∧
      s.applyCaps.pwr.updN = if s.clocksOn && !s.pwr.updGated then min s.pwr.updN s.capLimit else s.pwr.updN := by
  have hcs : ∀ c ∈ s.clusterList, c < 8 := fun c hc => by
    have := clusters_le s.conf
    have := List.mem_range.1 hc
    omega
  have hN : ∀ c < Config.clusters s.conf, (s.clusterList.foldl State.capCluster s).clusterN c = _ := fun c hc =>
    State.foldl_capCluster_clusterN h List.nodup_range hcs (List.mem_range.2 hc)
  obtain ⟨-, ho, hk⟩ := State.foldl_capCluster_keeps h hcs
  have hpwr : (s.clusterList.foldl State.capCluster s).pwr = s.pwr := by rw [ho]
  have ho := State.onlyCaps_of_onlyRegs ho
  have hon := State.clocksOn_congr ho (hk.fld pwrStatusState 0 (hn := not_mem_fractions (by decide) 0 _))
  have hcap := State.capLimit_congr ho (State.capFields_kept hk)
  have hk8 := State.keepsFields_mono hk (m := fractions (List.range 8)) fun x hx => by
    obtain ⟨c, hc, rfl⟩ := List.mem_map.1 hx
    exact List.mem_map_of_mem (List.mem_range.2 (hcs c hc))
  rw [State.applyCaps_eq]
  generalize s.clusterList.foldl State.capCluster s = t at *
  simp only [hon, hpwr, hcap]
  cases s.clocksOn && !s.pwr.updGated
  · simp only [Bool.false_eq_true, if_false, hpwr]
    exact ⟨ho, hk8, hN, trivial⟩
  · simp only [if_true]
    refine ⟨State.onlyCaps_carried.2 ho (by unfold State.onlyCaps; rw [hpwr]), ?_, hN, trivial⟩
    exact State.keepsFields_trans hk8 (State.keepsFields_of_regs rfl _)

/-- The registers of the caps. -/
abbrev capRegs : List RegKind := [.pwrThrot, .pwrPace, .pwrTherm]

theorem State.effWrite_caps {k : RegKind} (hk : k ∈ capRegs) (s : State) (u : Nat) (v : Word) (src : Src) :
    s.effWrite k u v src = (s.setWord k u (s.writtenWord k u v)).applyCaps := by
  have htable : ∀ k ∈ capRegs, ∀ f ∈ regFields k, f.access ≠ .rwl ∧ f.access ≠ .rwp := by decide
  rw [← State.fieldWrite_of_taken fun f hf => State.refusesFld_free (htable k hk f hf).1 (htable k hk f hf).2 s u v]
  simp only [List.mem_cons, List.not_mem_nil, or_false] at hk
  rcases hk with rfl | rfl | rfl <;> rfl

/-- A write of a register of the caps: its fields by their access codes, and at once the N of every clock that runs. -/
theorem State.writeCaps_spec {s : State} (h : s.wf = true) {k : RegKind} (hk : k ∈ capRegs) (v : Word) :
    let t := (s.setWord k 0 (s.writtenWord k 0 v)).applyCaps
    s.onlyCaps t ∧ (∀ f ∈ regFields k, t.fld f 0 = fldAfter f (s.blocked f) (fldGet f v) (s.fld f 0)) ∧
      (∀ c < Config.clusters s.conf, t.clusterN c = if s.clockOn c then min (s.clusterN c) (t.nLimit c) else s.clusterN c) ∧
      (t.pwr.updN = if s.clocksOn && !s.pwr.updGated then min s.pwr.updN t.capLimit else s.pwr.updN) ∧
      s.keepsFields t ((regFields k).map (·, 0) ++ fractions (List.range 8)) := by
  have hkinds : RegKind.pwrStatus ≠ k ∧ RegKind.pwrClk ≠ k ∧ ∀ f ∈ regFields k, f ≠ pwrClkNM1 :=
    (by decide : ∀ k ∈ capRegs, RegKind.pwrStatus ≠ k ∧ RegKind.pwrClk ≠ k ∧ ∀ f ∈ regFields k, f ≠ pwrClkNM1) k hk
  obtain ⟨hstat, hclk, hne⟩ := hkinds
  have hwritten : s.keepsFields (s.setWord k 0 (s.writtenWord k 0 v)) ((regFields k).map (·, 0)) :=
    State.keepsFields_setWord (State.wf_regs h) k (by decide) _ fun f hf => List.mem_map_of_mem hf
  have hpower := State.fld_setWord_kind h (g := pwrStatusState) hstat 0 0 (s.writtenWord k 0 v)
  have hgated := fun c => State.fld_setWord_kind h (g := pwrClkGated) hclk c 0 (s.writtenWord k 0 v)
  have hfraction := fun c => State.fld_setWord_kind h (g := pwrClkNM1) hclk c 0 (s.writtenWord k 0 v)
  have hfields := fun f (hf : f ∈ regFields k) =>
    (State.fld_setWord_same h hf 0 _).trans (s.fldGet_writtenWord hf 0 v)
  obtain ⟨hcaps, hkeep, hN, hupd⟩ := State.applyCaps_spec (State.setWord_wf h k 0 (s.writtenWord k 0 v))
  have hsame : s.onlyCaps (s.setWord k 0 (s.writtenWord k 0 v)) := rfl
  refine ⟨State.onlyCaps_carried.2 hsame hcaps, fun f hf => ?_, fun c hc => ?_, ?_, ?_⟩
  · rw [hkeep k f hf 0 (by decide) (not_mem_fractions (hne f hf) 0 _), hfields f hf]
  · rw [State.nLimit_congr hcaps (State.capFields_kept hkeep), hN c hc, State.clockOn_congr hsame hpower (hgated c)]
    unfold State.clusterN
    rw [hfraction]
  · rw [State.capLimit_congr hcaps (State.capFields_kept hkeep), hupd, State.clocksOn_congr hsame hpower]
    rfl
  · exact State.keepsFields_trans (State.keepsFields_mono hwritten fun x hx => List.mem_append_left _ hx)
      (State.keepsFields_mono hkeep fun x hx => List.mem_append_right _ hx)

/-! ## SEC.POLICY (R371, R439) -/

/-- ZERO_MEM is blocked without PRESENCE. -/
theorem State.blocked_zeroMem (s : State) : s.blocked secPolicyZeroMem = !s.flag secStatePresence 0 := rfl

/-- Under PRESENCE ZERO_MEM takes the value written, and a change queues the record. -/
theorem State.writePolicy_present {s : State} (h : s.wf = true) (hp : s.flag secStatePresence 0 = true) (v : Word) :
    (s.writePolicy v).fld secPolicyZeroMem 0 = fldGet secPolicyZeroMem v ∧
      s.writePolicy v = { s with regs := (s.writePolicy v).regs, sec := { s.sec with recPend := (s.writePolicy v).sec.recPend } } ∧
      s.keepsFields (s.writePolicy v) [(secPolicyZeroMem, 0)] ∧
      (s.writePolicy v).sec.recPend = (s.sec.recPend || decide (fldGet secPolicyZeroMem v ≠ s.fld secPolicyZeroMem 0)) := by
  have hopen : s.blocked secPolicyZeroMem = false := by rw [State.blocked_zeroMem, hp]; rfl
  have htaken : ∀ f ∈ regFields .secPolicy, s.refusesFld f 0 v = false := by
    simp only [regFields, List.forall_mem_cons]
    exact ⟨rfl, by simp [State.refusesFld, hopen], by simp⟩
  have hkeep : s.keepsFields (s.setWord .secPolicy 0 (s.writtenWord .secPolicy 0 v)) [(secPolicyZeroMem, 0)] :=
    State.keepsFields_writtenWord h .secPolicy (by decide) v (by
      simp only [regFields, List.forall_mem_cons]
      exact ⟨fun _ => rfl, fun hn => absurd List.mem_cons_self hn, by simp⟩)
  have hfld : (s.setWord .secPolicy 0 (s.writtenWord .secPolicy 0 v)).fld secPolicyZeroMem 0 = fldGet secPolicyZeroMem v := by
    have hm : secPolicyZeroMem ∈ regFields .secPolicy := by decide
    rw [State.fld_setWord_same h hm, s.fldGet_writtenWord hm, fldAfter_rwp rfl, hopen]
    rfl
  unfold State.writePolicy
  rw [State.fieldWrite_of_taken htaken]
  simp only [hfld]
  by_cases hv : fldGet secPolicyZeroMem v = s.fld secPolicyZeroMem 0
  · simp only [if_pos hv]
    exact ⟨hfld, rfl, hkeep, by simp [hv]⟩
  · simp only [if_neg hv]
    exact ⟨hfld, rfl, hkeep, by simp [State.queueRecord, hv]⟩

/-- Without PRESENCE ZERO_MEM stands, and a changed value is counted in LOCKED. -/
theorem State.writePolicy_absent {s : State} (h : s.wf = true) (hp : s.flag secStatePresence 0 = false) (v : Word) :
    s.onlyRegsLog (s.writePolicy v) ∧ s.keepsFields (s.writePolicy v) discardCounts ∧
      (s.writePolicy v).fld mgtCperrLocked 0 = (if fldGet secPolicyZeroMem v = s.fld secPolicyZeroMem 0 then s.fld mgtCperrLocked 0
        else min (s.fld mgtCperrLocked 0 + 1) 65535) := by
  have hshut : s.blocked secPolicyZeroMem = true := by rw [State.blocked_zeroMem, hp]; rfl
  have hrefuses : s.refusesFld secPolicyZeroMem 0 v = decide (fldGet secPolicyZeroMem v ≠ s.fld secPolicyZeroMem 0) := by
    rw [State.refusesFld, hshut, Bool.true_and]
  have hword : s.keepsFields (s.setWord .secPolicy 0 (s.writtenWord .secPolicy 0 v)) [] :=
    State.keepsFields_writtenWord h .secPolicy (by decide) v (by
      simp only [regFields, List.forall_mem_cons]
      exact ⟨fun _ => rfl, fun _ => by rw [fldAfter_rwp rfl, hshut]; rfl, by simp⟩)
  have hkeep : s.keepsFields (s.fieldWrite .secPolicy 0 v) discardCounts :=
    State.keepsFields_trans (State.keepsFields_mono hword (by simp)) (State.fieldWrite_keeps h .secPolicy 0 v)
  have hpolicy : s.writePolicy v = s.fieldWrite .secPolicy 0 v := if_pos (hkeep.fld secPolicyZeroMem 0)
  rw [hpolicy]
  refine ⟨s.fieldWrite_only _ _ _, hkeep, ?_⟩
  by_cases hv : fldGet secPolicyZeroMem v = s.fld secPolicyZeroMem 0
  · rw [if_pos hv, State.fieldWrite_of_taken (by
      simp only [regFields, List.forall_mem_cons]
      exact ⟨rfl, by simp [hrefuses, hv], by simp⟩)]
    exact hword.fld mgtCperrLocked 0
  · rw [if_neg hv]
    exact State.fieldWrite_locked h (by decide) ⟨secPolicyZeroMem, by decide, by simp [hrefuses, hv]⟩

end Sys2Proof.Machine
end

section
/-!
PROOFS. Security commands under PRESENCE.
-/
namespace Sys2Proof.Machine

/-! ## Security commands (R371, R372) -/

/-- The fields in which the result of a command stands, and those of its interrupt and its event. -/
abbrev resultFields : List (Fld × Nat) :=
  [(secCmdstatCode, 0), (secCmdstatPresenceCmd, 0), (secCmdstatResult, 0), (mgtIrqPendSec, 0), (mgtLogStatusDropped, 0)]

theorem State.cmdResult_only (s : State) (code : Nat) (p : Bool) (r : Nat) : s.onlyRegsLog (s.cmdResult code p r) := by
  exact State.onlyRegsLog_trans (s := (((s.setFld secCmdstatCode 0 code).setFlag secCmdstatPresenceCmd 0 p).setFld secCmdstatResult 0 r).irq
    mgtIrqPendSec) rfl (State.onlyRegsLog_logEv _ _ _ _ _)

/-- CMDSTAT of a command shows its code and its result, and nothing else of the map is written but the interrupt and the lost event. -/
theorem State.cmdResult_spec {s : State} (h : s.wf = true) (code : Nat) (p : Bool) (r : Nat) :
    (s.cmdResult code p r).fld secCmdstatCode 0 = code % 16 ∧ (s.cmdResult code p r).fld secCmdstatResult 0 = r % 8 ∧
      s.keepsFields (s.cmdResult code p r) resultFields := by
  have hw1 := State.setFld_wf h secCmdstatCode 0 code
  have hw2 := State.setFlag_wf hw1 secCmdstatPresenceCmd 0 p
  have hw3 := State.setFld_wf hw2 secCmdstatResult 0 r
  have hcode := State.fld_setFld h (k := .secCmdstat) (f := secCmdstatCode) (by decide) 0 code
  have hres := State.fld_setFld hw2 (k := .secCmdstat) (f := secCmdstatResult) (by decide) 0 r
  have k1 := State.keepsFields_put h secCmdstatCode 0 code (l := resultFields) (by decide)
  have k2 := State.keepsFields_put hw1 secCmdstatPresenceCmd 0 (if p then 1 else 0) (l := resultFields.tail) (by decide)
  have k3 := State.keepsFields_put hw2 secCmdstatResult 0 r (l := resultFields.tail) (by decide)
  have k4 := State.keepsFields_trans (State.keepsFields_put hw3 mgtIrqPendSec 0 1 (l := resultFields.drop 3) (by decide))
    (State.keepsFields_logEv (State.irq_wf hw3 mgtIrqPendSec) 0x0605 12 0 (code + (if p then 16 else 0) + 32 * r) (by decide))
  have k24 := State.keepsFields_trans k2 (State.keepsFields_trans k3 (State.keepsFields_mono k4 (by decide)))
  exact ⟨(k24.fld secCmdstatCode 0).trans hcode, (k4.fld secCmdstatResult 0).trans hres,
    State.keepsFields_trans k1 (State.keepsFields_mono k24 (by decide))⟩

/-- A command starts: BUSY, and the command in progress. -/
theorem State.startCmd_spec {s : State} (h : s.wf = true) (c : SecCmd) :
    (s.startCmd c).flag secStateBusy 0 = true ∧ (s.startCmd c).sec = { s.sec with cmd := some c } ∧
      s.keepsFields (s.startCmd c) [(secStateBusy, 0)] := by
  have hbusy : (s.startCmd c).fld secStateBusy 0 = 1 := State.fld_setFld h (k := .secState) (f := secStateBusy) (by decide) 0 1
  have hkeep := State.keepsFields_put h secStateBusy 0 1 (l := [(secStateBusy, 0)]) (by decide)
  exact ⟨by simp [State.flag, hbusy], rfl, hkeep⟩

/-! ## SEC.PCMD (R371, R439) -/

/-- Under PRESENCE, with no command in progress and in a state that allows it, the command starts. -/
theorem State.effPcmd_start {s : State} (h : s.wf = true) (hp : s.flag secStatePresence 0 = true) (hb : s.flag secStateBusy 0 = false)
    {code : Nat} (h1 : 1 ≤ code) (h5 : code ≤ 5) (ha : presAllowed code s.security = true) (arg : Nat) :
    s.effPcmd code arg = ((s.setFld secPcmdArg 0 arg).setFld secPcmdCode 0 code).startCmd ⟨code, true, arg⟩ := by
  have hsec : (s.setFld secPcmdArg 0 arg).security = s.security :=
    (State.keepsFields_put h secPcmdArg 0 arg (l := [(secPcmdArg, 0)]) (by decide)).fld secStateState 0
  simp [State.effPcmd, hp, hb, hsec, ha, show ¬(code = 0 ∨ 5 < code) by omega]

/-- In a state that does not allow it, the command is answered WRONG_STATE. -/
theorem State.effPcmd_wrongState {s : State} (h : s.wf = true) (hp : s.flag secStatePresence 0 = true)
    (hb : s.flag secStateBusy 0 = false) {code : Nat} (h1 : 1 ≤ code) (h5 : code ≤ 5) (ha : presAllowed code s.security = false)
    (arg : Nat) : s.effPcmd code arg = (s.setFld secPcmdArg 0 arg).cmdResult code true 2 := by
  have hsec : (s.setFld secPcmdArg 0 arg).security = s.security :=
    (State.keepsFields_put h secPcmdArg 0 arg (l := [(secPcmdArg, 0)]) (by decide)).fld secStateState 0
  simp [State.effPcmd, hp, hb, hsec, ha, show ¬(code = 0 ∨ 5 < code) by omega]

/-- While a command is in progress the answer is BUSY, after the count of the discard where PRESENCE is missing. -/
theorem State.effPcmd_busy {s : State} (h : s.wf = true) (hb : s.flag secStateBusy 0 = true) (code arg : Nat) :
    s.effPcmd code arg = s.cmdResult code true 6 ∨
      s.flag secStatePresence 0 = false ∧ s.effPcmd code arg = (s.countDiscard .secPcmd 0 true).cmdResult code true 6 := by
  have hb' : (s.countDiscard .secPcmd 0 true).flag secStateBusy 0 = true :=
    ((State.countDiscard_keeps h .secPcmd 0 true).flag secStateBusy 0).trans hb
  unfold State.effPcmd
  cases hp : s.flag secStatePresence 0
  · by_cases hsame : (code == s.fld secPcmdCode 0 && arg == s.fld secPcmdArg 0) = true
    · simp [hsame, hb]
    · right
      simp only [hsame, Bool.not_false, Bool.and_self, if_true]
      exact ⟨trivial, if_pos hb'⟩
  · simp [hb]

/-- Without PRESENCE a write that would change the register is counted and recorded. -/
theorem State.effPcmd_absent {s : State} (h : s.wf = true) (hp : s.flag secStatePresence 0 = false) (hb : s.flag secStateBusy 0 = false)
    {code : Nat} (hc : code ≠ s.fld secPcmdCode 0) (arg : Nat) : s.effPcmd code arg = s.countDiscard .secPcmd 0 true := by
  have hb' : (s.countDiscard .secPcmd 0 true).flag secStateBusy 0 = false :=
    ((State.countDiscard_keeps h .secPcmd 0 true).flag secStateBusy 0).trans hb
  have hc' : (code == s.fld secPcmdCode 0) = false := by simpa using hc
  simp only [State.effPcmd, hp, hc', Bool.false_and, Bool.not_false, Bool.and_self, if_true]
  exact if_neg (Bool.eq_false_iff.1 hb')

/-- A command that starts: PCMD reads it with its argument, BUSY, and the command in progress. -/
theorem State.effPcmd_start_spec {s : State} (h : s.wf = true) (hp : s.flag secStatePresence 0 = true)
    (hb : s.flag secStateBusy 0 = false) {code : Nat} (h1 : 1 ≤ code) (h5 : code ≤ 5) (ha : presAllowed code s.security = true) (a : Nat) :
    (s.effPcmd code a).fld secPcmdCode 0 = code ∧ (s.effPcmd code a).flag secStateBusy 0 = true ∧
      (s.effPcmd code a).sec = { s.sec with cmd := some ⟨code, true, a⟩ } ∧
      s.keepsFields (s.effPcmd code a) [(secPcmdCode, 0), (secPcmdArg, 0), (secStateBusy, 0)] ∧
      s.effPcmd code a = { s with regs := (s.effPcmd code a).regs, sec := (s.effPcmd code a).sec } := by
  have hwa := State.setFld_wf h secPcmdArg 0 a
  have hwc := State.setFld_wf hwa secPcmdCode 0 code
  obtain ⟨hbusy, hsec, hkeep⟩ := State.startCmd_spec hwc ⟨code, true, a⟩
  have hcode := State.fld_setFld hwa (k := .secPcmd) (f := secPcmdCode) (by decide) 0 code
  have hmod : code % 2 ^ secPcmdCode.width = code := Nat.mod_eq_of_lt (Nat.lt_of_le_of_lt h5 (by decide))
  rw [State.effPcmd_start h hp hb h1 h5 ha]
  refine ⟨(hkeep.fld secPcmdCode 0).trans (hcode.trans hmod), hbusy, hsec, ?_, rfl⟩
  exact State.keepsFields_trans (State.keepsFields_put h secPcmdArg 0 a (by decide))
    (State.keepsFields_trans (State.keepsFields_put hwa secPcmdCode 0 code (by decide)) (State.keepsFields_mono hkeep (by decide)))

/-- A command refused as BUSY: CMDSTAT shows it, with PRESENCE or without. -/
theorem State.effPcmd_busy_spec {s : State} (h : s.wf = true) (hb : s.flag secStateBusy 0 = true) {code : Nat} (h5 : code ≤ 5) (a : Nat) :
    s.onlyRegsLog (s.effPcmd code a) ∧ (s.effPcmd code a).fld secCmdstatCode 0 = code ∧ (s.effPcmd code a).fld secCmdstatResult 0 = 6 := by
  have hanswer : ∀ t : State, t.wf = true → s.onlyRegsLog t → s.onlyRegsLog (t.cmdResult code true 6) ∧
      (t.cmdResult code true 6).fld secCmdstatCode 0 = code ∧ (t.cmdResult code true 6).fld secCmdstatResult 0 = 6 := fun t ht ho => by
    obtain ⟨hc, hr, -⟩ := State.cmdResult_spec ht code true 6
    exact ⟨State.onlyRegsLog_trans ho (t.cmdResult_only code true 6), hc.trans (Nat.mod_eq_of_lt (by omega)), hr⟩
  rcases State.effPcmd_busy h hb code a with he | ⟨-, he⟩ <;> rw [he]
  · exact hanswer s h rfl
  · exact hanswer _ (State.countDiscard_wf h _ _ _) (s.countDiscard_only _ _ _)

/-- A command refused as WRONG_STATE: CMDSTAT shows it, and nothing starts. -/
theorem State.effPcmd_wrongState_spec {s : State} (h : s.wf = true) (hp : s.flag secStatePresence 0 = true)
    (hb : s.flag secStateBusy 0 = false) {code : Nat} (h1 : 1 ≤ code) (h5 : code ≤ 5) (ha : presAllowed code s.security = false) (a : Nat) :
    (s.effPcmd code a).fld secCmdstatCode 0 = code ∧ (s.effPcmd code a).fld secCmdstatResult 0 = 2 ∧
      (s.effPcmd code a).sec = s.sec ∧ (s.effPcmd code a).security = s.security := by
  obtain ⟨hc, hr, hkeep⟩ := State.cmdResult_spec (State.setFld_wf h secPcmdArg 0 a) code true 2
  have harg := State.keepsFields_put h secPcmdArg 0 a (l := [(secPcmdArg, 0)]) (by decide)
  rw [State.effPcmd_wrongState h hp hb h1 h5 ha]
  refine ⟨hc.trans (Nat.mod_eq_of_lt (by omega)), hr, ?_, (hkeep.fld secStateState 0).trans (harg.fld secStateState 0)⟩
  rw [State.cmdResult_only (s.setFld secPcmdArg 0 a) code true 2]
  rfl

/-- The states in which a presence command may start (Table 13.4). -/
theorem presAllowed_iff {code st : Nat} : presAllowed code st = true ↔
    (code = 1 → st = secOpen) ∧ (code = 2 → st ≠ secOpen) ∧ (code ≠ 1 → code ≠ 2 → st ≠ secLockdown) := by
  unfold presAllowed
  by_cases h1 : code = 1
  · simp [h1]
  · by_cases h2 : code = 2 <;> simp [h1, h2]

/-- The presence commands with their codes. -/
def presenceCommands (arg : Nat) (src : Src) : List (Nat × Instr) :=
  [(1, .seal src), (2, .unseal src), (3, .calWrite src), (4, .feedShare src), (5, .rollback arg src)]

/-- An accepted presence command is a write of SEC.PCMD with its code; ROLLBACK brings its own argument. -/
theorem presenceCommands_exec {arg : Nat} {src : Src} {code : Nat} {c : Instr} (hm : (code, c) ∈ presenceCommands arg src) {s : State}
    (hacc : s.accepts src .secPcmd 0 = true) :
    (1 ≤ code ∧ code ≤ 5) ∧ ∃ a, (code = 5 → a = arg) ∧ exec c s = .next (s.effPcmd code a) := by
  have hgate : ∀ f : State → State, (Host.Outcome.next (s.gate src .secPcmd 0 f) : Out) = .next (f s) := fun f => by
    rw [State.gate_accepts hacc]
  simp only [presenceCommands, List.mem_cons, Prod.mk.injEq, List.not_mem_nil, or_false] at hm
  rcases hm with ⟨rfl, rfl⟩ | ⟨rfl, rfl⟩ | ⟨rfl, rfl⟩ | ⟨rfl, rfl⟩ | ⟨rfl, rfl⟩
  · exact ⟨by decide, s.fld secPcmdArg 0, fun h => absurd h (by decide), hgate _⟩
  · exact ⟨by decide, s.fld secPcmdArg 0, fun h => absurd h (by decide), hgate _⟩
  · exact ⟨by decide, s.fld secPcmdArg 0, fun h => absurd h (by decide), hgate _⟩
  · exact ⟨by decide, s.fld secPcmdArg 0, fun h => absurd h (by decide), hgate _⟩
  · exact ⟨by decide, arg, fun _ => rfl, hgate _⟩

/-! ## The end of a command -/

theorem State.wakeWaiting_none {s : State} (h : s.pwr.waiting = none) : s.wakeWaiting = s := by
  simp only [State.wakeWaiting, h]

/-- No command is in progress any more. -/
def State.clearCmd (s : State) : State := { (s.setFld secStateBusy 0 0).setFld secPcmdCode 0 0 with sec := { s.sec with cmd := none } }

/-- A command that ends while no power request waits leaves its result and no more. -/
theorem State.endCmd_eq {s : State} (hw : s.pwr.waiting = none) (c : SecCmd) (r : Nat) :
    s.endCmd c r = s.clearCmd.cmdResult c.code c.presence r := by
  refine State.wakeWaiting_none (s := s.clearCmd.cmdResult c.code c.presence r) ?_
  rw [State.cmdResult_only s.clearCmd c.code c.presence r]
  exact hw

theorem State.clearCmd_spec {s : State} (h : s.wf = true) : s.clearCmd.wf = true ∧ s.clearCmd.fld secStateBusy 0 = 0 ∧
    s.clearCmd.fld secPcmdCode 0 = 0 ∧ s.keepsFields s.clearCmd [(secStateBusy, 0), (secPcmdCode, 0)] := by
  have hw := State.setFld_wf h secStateBusy 0 0
  have k1 := State.keepsFields_put h secStateBusy 0 0 (l := [(secStateBusy, 0), (secPcmdCode, 0)]) (by decide)
  have k2 := State.keepsFields_put hw secPcmdCode 0 0 (l := [(secPcmdCode, 0)]) (by decide)
  have hbusy := (k2.fld secStateBusy 0).trans (State.fld_setFld h (k := .secState) (f := secStateBusy) (by decide) 0 0)
  have hcode := State.fld_setFld hw (k := .secPcmd) (f := secPcmdCode) (by decide) 0 0
  exact ⟨State.wf_same (State.setFld_wf hw secPcmdCode 0 0) rfl rfl rfl rfl rfl rfl, hbusy, hcode,
    State.keepsFields_trans k1 (State.keepsFields_mono k2 (by decide))⟩

/-- The end of a command: BUSY and PCMD fall, CMDSTAT shows the result, and nothing else of the map but the interrupt and the lost event
is written. -/
theorem State.endCmd_spec {s : State} (h : s.wf = true) (hw : s.pwr.waiting = none) (c : SecCmd) (r : Nat) :
    (s.endCmd c r).fld secCmdstatResult 0 = r % 8 ∧ (s.endCmd c r).flag secStateBusy 0 = false ∧ (s.endCmd c r).fld secPcmdCode 0 = 0 ∧
      s.endCmd c r = { s with regs := (s.endCmd c r).regs, log := (s.endCmd c r).log, sec := { s.sec with cmd := none } } ∧
      s.keepsFields (s.endCmd c r) ((secStateBusy, 0) :: (secPcmdCode, 0) :: resultFields) := by
  obtain ⟨hwf, hbusy, hcode, hclear⟩ := State.clearCmd_spec h
  obtain ⟨-, hres, hkeep⟩ := State.cmdResult_spec hwf c.code c.presence r
  have honly := State.cmdResult_only s.clearCmd c.code c.presence r
  rw [State.endCmd_eq hw]
  refine ⟨hres, ?_, (hkeep.fld secPcmdCode 0).trans hcode, honly, ?_⟩
  · rw [hkeep.flag secStateBusy 0, State.flag, hbusy]
    rfl
  · exact State.keepsFields_trans (State.keepsFields_mono hclear (by decide)) (State.keepsFields_mono hkeep (by decide))

/-- PRESENCE falls while no presence command is in progress: nothing else happens. -/
theorem State.exec_presenceRelease_other {s : State} (h : ∀ c, s.sec.cmd = some c → c.presence = false) :
    exec .presenceRelease s = .next (s.setFld secStatePresence 0 0) := by
  show execPresenceRelease s = _
  unfold execPresenceRelease
  cases hc : s.sec.cmd with
  | none => simp only [State.setFld, State.setWord_sec, hc]
  | some c => simp only [State.setFld, State.setWord_sec, hc, h c hc, Bool.false_eq_true, if_false]

/-- PRESENCE falls during a presence command: it ends with PRESENCE_LOST. -/
theorem State.exec_presenceRelease_presence {s : State} {c : SecCmd} (hc : s.sec.cmd = some c) (hp : c.presence = true) :
    exec .presenceRelease s = .next ((s.setFld secStatePresence 0 0).endCmd c 3) := by
  show execPresenceRelease s = _
  simp only [execPresenceRelease, State.setFld, State.setWord_sec, hc, hp, if_true]

end Sys2Proof.Machine
end

section
/-!
PROOFS. The statements on scope, registers and PRESENCE: O5, O6, O7, O18, O2, O59.
-/
namespace Sys2Proof.Proofs
open Sys2Proof Sys2Proof.Machine

/-- Settles O5: the engine's write reads back by the rules of fields; a write from the bus gives each field the value of its access code. -/
theorem writesOfFields : Obligations.WritesOfFields := by
  unfold Obligations.WritesOfFields
  refine ⟨fun s k f u v h hf hu => ⟨State.fld_setFld h hf u v, State.keepsFields_setFld (State.wf_regs h) hf hu v List.mem_cons_self,
    s.onlyRegs_setFld f u v, State.setFld_wf h f u v⟩, ?_⟩
  intro s addr v src k u h hat hplain hacc
  have hu := regAt_unit_lt hat
  refine ⟨s.fieldWrite k u v, ?_, s.fieldWrite_only k u v, ?_, ?_, ?_, ?_⟩
  · rw [exec_registerWrite_accepted hat v hacc, State.effWrite_plain hplain]
  · intro f hf h1 h2
    rw [State.fld_fieldWrite h hf hu v (by simp [h1, h2])]
    exact ⟨fun ha => fldAfter_rw ha _ _ _, fun ha => fldAfter_ro ha _ _ _, fun ha => fldAfter_w1c_bit ha _ _ _,
      fun ha => fldAfter_rwl ha _ _ _⟩
  · intro j hj g hg w hw h1 h2
    exact State.fld_fieldWrite_kind h hj hg u hw v (by simp [h1, h2])
  · intro hnone
    rw [State.fieldWrite_of_taken hnone]
    refine ⟨rfl, fun hk => ?_⟩
    exact State.fld_setWord_kind h (g := mgtCperrLocked) hk.symm 0 u _
  · exact fun hr hk => State.fieldWrite_locked h hk hr

/-- Settles O6: the gate's refusals one by one; an address that names no register counts in UNMAPPED. -/
theorem discardedAndUnmappedWrites : Obligations.DiscardedAndUnmappedWrites := by
  unfold Obligations.DiscardedAndUnmappedWrites
  refine ⟨?_, ?_⟩
  · intro s addr v src k u hat
    rw [exec_registerWrite hat]
    refine ⟨fun ha => ?_, ?_, fun hn => ⟨?_, ?_⟩, ?_, ?_⟩
    · rw [State.gate_dead _ ha]
    · rintro ha rfl hl hk
      rw [State.gate_tap _ ha hl hk]
      rfl
    · simp only [State.read, State.readUnder, State.readsZero, hn, Bool.true_or, if_true]
    · rintro rfl
      rw [State.gate_absent _ hn]
    · rintro ha rfl hn hs hz hp hk
      rw [State.gate_asleep _ ha hn hs hz hp hk]
      rfl
    · rintro ha rfl hn hz h1 h2 h3
      rw [State.gate_lockdown _ ha hn hz h1 h2 h3]
      rfl
  · intro s addr v h hat ha
    refine ⟨s.bump mgtCperrUnmapped 0 1, ?_, State.fld_bump h (k := .mgtCperr) (by decide) 0 1,
      State.keepsFields_bump h (k := .mgtCperr) (by decide) (by decide) 1 (by decide), s.onlyRegs_bump _ _ _⟩
    show execRegisterWrite addr v .cp s = _
    simp [execRegisterWrite, hat, ha]

/-- Settles O7: registers of one command bit, registers of the caps, SEC.POLICY, CAL.STAGE. -/
theorem writesOfCommandRegisters : Obligations.WritesOfCommandRegisters := by
  unfold Obligations.WritesOfCommandRegisters
  refine ⟨fun s addr v src k u h hat hacc => ⟨?_, ?_⟩, ?_, ?_, ?_⟩
  · intro hk f hf g hg hfg haf hag hvf hvg
    have hk' : k ∈ oneCommandRegs := hk
    exact ⟨_, exec_registerWrite_several hat hk' hacc hf hg hfg haf hag hvf hvg, s.severalBits_only k u v,
      State.severalBits_count h k u v, State.severalBits_keeps h k u v, rfl⟩
  · rintro c f hm rfl hv hrest
    obtain ⟨hk, e, he, hgate⟩ := bitCommands_gate hm (regAt_unit hat).1
    rw [exec_registerWrite_alone hat hk hacc he hv hrest, hgate]
  · intro s addr v src k h hat hk hacc
    obtain ⟨honly, hfields, hN, hupd, hkeep⟩ := State.writeCaps_spec h hk v
    refine ⟨_, by rw [exec_registerWrite_accepted hat v hacc, State.effWrite_caps hk], honly, fun f hf => ?_, hN, hupd, hkeep⟩
    rw [hfields f hf]
    exact ⟨fun ha => fldAfter_rw ha _ _ _, fun ha => fldAfter_ro ha _ _ _, fun ha => fldAfter_w1c_bit ha _ _ _⟩
  · intro s addr v src h hat hacc
    refine ⟨fun hp => ?_, fun hp => ?_⟩
    · obtain ⟨hval, honly, hkeep, hrec⟩ := State.writePolicy_present h hp v
      exact ⟨_, exec_registerWrite_accepted hat v hacc, hval, honly, hkeep, hrec⟩
    · obtain ⟨honly, hkeep, hcount⟩ := State.writePolicy_absent h hp v
      exact ⟨_, exec_registerWrite_accepted hat v hacc, honly, hkeep, hcount⟩
  · exact fun s addr v src hat hacc => exec_registerWrite_accepted hat v hacc

/-- Settles O18: the presence commands by the outcomes of a write of SEC.PCMD, and PRESENCE itself. -/
theorem presenceAndItsCommands : Obligations.PresenceAndItsCommands := by
  unfold Obligations.PresenceAndItsCommands
  refine ⟨fun s src code c arg h hacc _ hm => ?_, fun s h => ⟨fun hon => ?_, fun hcmd => ?_, fun c hc hpres hw => ?_⟩⟩
  · obtain ⟨⟨h1, h5⟩, a, ha, hexec⟩ := presenceCommands_exec hm hacc
    rw [hexec]
    refine ⟨fun hp hb hs1 hs2 hs3 => ?_, fun hp hb hcode => ?_, fun hb => ⟨fun hp => ?_, ?_⟩, fun hp hb hwrong => ?_⟩
    · have hallow : presAllowed code s.security = true := presAllowed_iff.2 ⟨hs1, hs2, fun n1 n2 => hs3 (by omega)⟩
      obtain ⟨hread, hbusy, hsec, hkeep, honly⟩ := State.effPcmd_start_spec h hp hb h1 h5 hallow a
      exact ⟨_, rfl, hread, hbusy, ⟨a, hsec, ha⟩, hkeep, honly⟩
    · rw [State.effPcmd_absent h hp hb (by omega)]
      exact ⟨_, rfl, s.countDiscard_only _ _ _, State.countDiscard_locked h _ _ _, State.countDiscard_keeps h _ _ _⟩
    · rcases State.effPcmd_busy h hb code a with he | ⟨hno, -⟩
      · rw [he]
      · exact absurd (hp.symm.trans hno) (by decide)
    · obtain ⟨honly, hshown, hres⟩ := State.effPcmd_busy_spec h hb h5 a
      exact ⟨_, rfl, honly, hshown, hres⟩
    · have hdeny : presAllowed code s.security = false := by
        refine Bool.eq_false_iff.2 fun hyes => ?_
        obtain ⟨hs1, hs2, hs3⟩ := presAllowed_iff.1 hyes
        rcases hwrong with ⟨h1, hne⟩ | ⟨h2, hopen⟩ | ⟨h3, hlock⟩
        · exact hne (hs1 h1)
        · exact hs2 h2 hopen
        · exact hs3 (by omega) (by omega) hlock
      obtain ⟨hshown, hres, hsec, hstate⟩ := State.effPcmd_wrongState_spec h hp hb h1 h5 hdeny a
      exact ⟨_, rfl, hshown, hres, hsec, hstate⟩
  · refine ⟨s.setFld secStatePresence 0 1, ?_, State.fld_setFld h (k := .secState) (by decide) 0 1,
      State.keepsFields_put h _ 0 1 List.mem_cons_self, s.onlyRegs_setFld _ _ _⟩
    exact congrArg Host.Outcome.next (if_pos hon)
  · refine ⟨s.setFld secStatePresence 0 0, State.exec_presenceRelease_other hcmd, State.fld_setFld h (k := .secState) (by decide) 0 0,
      State.keepsFields_put h _ 0 0 List.mem_cons_self, s.onlyRegs_setFld _ _ _⟩
  · have hwp := State.setFld_wf h secStatePresence 0 0
    obtain ⟨hres, hbusy, hcode, honly, hkeep⟩ := State.endCmd_spec hwp hw c 3
    have hfell := State.fld_setFld h (k := .secState) (f := secStatePresence) (by decide) 0 0
    have hput := State.keepsFields_put h secStatePresence 0 0 (l := [(secStatePresence, 0)]) (by decide)
    refine ⟨_, State.exec_presenceRelease_presence hc hpres, (hkeep.fld secStatePresence 0).trans hfell, hres, hbusy, hcode, ?_,
      (hkeep.fld secStateState 0).trans (hput.fld secStateState 0), ?_⟩
    · rw [honly]
      rfl
    · rw [honly]
      exact ⟨rfl, rfl, rfl, rfl, rfl⟩

/-- Settles O2: the register words by the field tables, the other parts as the reset state lists them. -/
theorem resetState : Obligations.ResetState := by
  unfold Obligations.ResetState
  refine ⟨rfl, rfl, rfl, rfl, rfl, ?_, rfl, rfl, rfl, rfl, rfl, State.reset_wf, State.resetFor_sized .e128⟩
  exact fun k f hf u hu => State.resetFor_fld .e128 hf hu

/-- Settles O59: ID.CAP is computed from the configuration alone. -/
theorem capabilitiesOfE64 : Obligations.CapabilitiesOfE64 := by
  unfold Obligations.CapabilitiesOfE64
  intro s hc
  have hview : s.read .idCap 0 = putFields 0 (s.viewFields .idCap 0 0) := by
    simp [State.read, State.readUnder, State.readsZero, regAbsent, regAon, regBlock, State.view, State.selNow, selectorOf, isComputed, isWindow,
      sideBFields, putFields]
  rw [hview]
  simp only [State.viewFields, hc]
  decide

end Sys2Proof.Proofs
end

section
/-!
PROOFS. Binary floating-point codes: a code's own value needs no rounding, and packs back into the code (02 section 2.6).
-/
namespace Sys2Proof.Machine

/-! ## Values that a format holds exactly (R49) -/

/-- No place is rounded away: at most p significant bits and no bit below the format's lowest weight. -/
theorem rneNat_exact {p m : Nat} {qmin e : Int} (hm : m < 2 ^ p) (he : qmin ≤ e) : rneNat p qmin m e = (m, e) := by
  unfold rneNat
  split
  next h0 => rw [h0]
  next h0 =>
    have hlog : Nat.log2 m < p := (Nat.log2_lt h0).2 hm
    exact if_pos (Int.max_le.2 ⟨by omega, he⟩)

/-! ## The fields of an exact value -/

@[simp] theorem shiftExact_zero (m : Nat) : shiftExact m 0 = m := by simp [shiftExact]

/-- A significand below 2^fb at the lowest weight is its own fraction field, under exponent field 0. -/
theorem fieldsOf_subnormal {fb m : Nat} (bias : Nat) (hm : m < 2 ^ fb) : fieldsOf fb bias m (1 - (bias : Int) - fb) = m := by
  unfold fieldsOf
  split
  next h0 => exact h0.symm
  next h0 =>
    have hlog : Nat.log2 m < fb := (Nat.log2_lt h0).2 hm
    simp only [Int.sub_self, shiftExact_zero]
    exact if_pos (by omega)

/-- A significand with its hidden bit is not 0. -/
theorem hiddenBit_ne_zero (fb f : Nat) : 2 ^ fb + f ≠ 0 := Nat.ne_of_gt (Nat.add_pos_left (Nat.two_pow_pos fb) f)

/-- The logarithm of a significand with its hidden bit. -/
theorem log2_hiddenBit {fb f : Nat} (hf : f < 2 ^ fb) : Nat.log2 (2 ^ fb + f) = fb :=
  (Nat.log2_eq_iff (hiddenBit_ne_zero fb f)).2 ⟨Nat.le_add_right _ _, by rw [Nat.pow_succ]; omega⟩

/-- A significand with its hidden bit gives its exponent and fraction fields back. -/
theorem fieldsOf_normal {fb e f : Nat} (bias : Nat) (he : 0 < e) (hf : f < 2 ^ fb) :
    fieldsOf fb bias (2 ^ fb + f) ((e : Int) - bias - fb) = e * 2 ^ fb + f := by
  have hexp : (e : Int) - bias - fb + fb + bias = e := by omega
  simp only [fieldsOf, if_neg (hiddenBit_ne_zero fb f), log2_hiddenBit hf, hexp, Int.sub_self, shiftExact_zero, Int.toNat_natCast,
    Nat.add_sub_cancel_left]
  exact if_neg (by omega)

/-! ## Decoding and encoding, case by case -/

theorem decodeIeee_subnormal {fb bias esp : Nat} (neg : Bool) (f : Nat) (hesp : 0 ≠ esp) :
    decodeIeee fb bias esp neg 0 f = .fin neg f (1 - (bias : Int) - fb) :=
  (if_neg hesp).trans (if_pos rfl)

theorem decodeIeee_normal {fb bias esp e : Nat} (neg : Bool) (f : Nat) (hesp : e ≠ esp) (he : 0 < e) :
    decodeIeee fb bias esp neg e f = .fin neg (2 ^ fb + f) ((e : Int) - bias - fb) :=
  (if_neg hesp).trans (if_neg (Nat.ne_of_gt he))

/-- The special exponent field holds the infinity and the NaNs. -/
theorem decodeIeee_special (fb bias esp : Nat) (neg : Bool) (f : Nat) :
    decodeIeee fb bias esp neg esp f = if f = 0 then .inf neg else .nan := if_pos rfl

/-- A value that needs no rounding takes the code of its fields; it underflows only where a value other than 0 has code 0. -/
theorem encodeFloat_fin_exact {t : FloatFmt} {m c : Nat} {e : Int} (neg : Bool) (hm : m < 2 ^ (t.fb + 1))
    (he : 1 - (t.bias : Int) - t.fb ≤ e) (hc : fieldsOf t.fb t.bias m e = c) (hmax : c ≤ t.maxCode) (hzero : c = 0 → m = 0) :
    encodeFloat t (.fin neg m e) = ⟨(if neg then 2 ^ t.sign else 0) + c, false, false⟩ := by
  have hunf : (decide (c = 0) && decide (m ≠ 0)) = false := by simpa using hzero
  simp only [encodeFloat, rneNat_exact hm he, hc, if_neg (Nat.not_lt.2 hmax), hunf]

/-! ## One code -/

/-- A finite magnitude that the format holds is what its own value rounds to. -/
theorem encodeFloat_decodeIeee_finite {t : FloatFmt} {esp e f : Nat} (neg : Bool) (he : e ≠ esp) (hf : f < 2 ^ t.fb)
    (hmax : e * 2 ^ t.fb + f ≤ t.maxCode) : encodeFloat t (decodeIeee t.fb t.bias esp neg e f) =
      ⟨(if neg then 2 ^ t.sign else 0) + (e * 2 ^ t.fb + f), false, false⟩ := by
  have hwide : 2 ^ (t.fb + 1) = 2 ^ t.fb * 2 := Nat.pow_succ 2 t.fb
  rcases Nat.eq_zero_or_pos e with rfl | hpos
  · rw [Nat.zero_mul, Nat.zero_add] at hmax ⊢
    rw [decodeIeee_subnormal neg f he]
    exact encodeFloat_fin_exact neg (by omega) (Int.le_refl _) (fieldsOf_subnormal t.bias hf) hmax id
  · have hcode : 0 < e * 2 ^ t.fb := Nat.mul_pos hpos (Nat.two_pow_pos _)
    rw [decodeIeee_normal neg f he hpos]
    exact encodeFloat_fin_exact neg (by omega) (by omega) (fieldsOf_normal t.bias hpos hf) hmax (by omega)

/-- A format whose infinity takes the exponent field esp and fraction 0, next above the largest finite code, and does not count (R52). -/
def FloatFmt.infinityAt (t : FloatFmt) (esp : Nat) : Prop :=
  t.maxCode + 1 = esp * 2 ^ t.fb ∧ t.infCode = esp * 2 ^ t.fb ∧ t.infCounts = false

/-- Fields of such a format that are not a NaN's pack back into the code. -/
theorem encodeFloat_decodeIeee {t : FloatFmt} {esp e f : Nat} (ht : t.infinityAt esp) (neg : Bool) (he : e ≤ esp) (hf : f < 2 ^ t.fb)
    (hnan : valIsNan (decodeIeee t.fb t.bias esp neg e f) = false) : encodeFloat t (decodeIeee t.fb t.bias esp neg e f) =
      ⟨(if neg then 2 ^ t.sign else 0) + (e * 2 ^ t.fb + f), false, false⟩ := by
  obtain ⟨hmax, hinf, hcounts⟩ := ht
  rcases Nat.eq_or_lt_of_le he with rfl | hlt
  · by_cases hzero : f = 0
    · rw [decodeIeee_special, if_pos hzero, hzero, Nat.add_zero, ← hinf, encodeFloat, hcounts]
    · rw [decodeIeee_special, if_neg hzero] at hnan
      cases hnan
  · have hstep : (e + 1) * 2 ^ t.fb ≤ esp * 2 ^ t.fb := Nat.mul_le_mul_right _ hlt
    rw [Nat.succ_mul] at hstep
    exact encodeFloat_decodeIeee_finite neg (Nat.ne_of_lt hlt) hf (by omega)

/-- A code is its sign bit, its exponent field and its fraction field. -/
theorem code_eq_fields {eb fb c : Nat} (hc : c < 2 ^ (eb + fb + 1)) :
    (if decide (c / 2 ^ (eb + fb) % 2 = 1) then 2 ^ (eb + fb) else 0) + (c / 2 ^ fb % 2 ^ eb * 2 ^ fb + c % 2 ^ fb) = c := by
  have hbit : c / 2 ^ (eb + fb) < 2 := Nat.div_lt_of_lt_mul (by rwa [← Nat.pow_succ])
  have hlow : c / 2 ^ fb % 2 ^ eb * 2 ^ fb + c % 2 ^ fb = c % 2 ^ (eb + fb) := by
    rw [Nat.add_comm eb fb, Nat.pow_add, Nat.mod_mul, Nat.mul_comm, Nat.add_comm]
  have hsplit := Nat.div_add_mod c (2 ^ (eb + fb))
  rw [hlow]
  rcases Nat.le_one_iff_eq_zero_or_eq_one.1 (Nat.le_of_lt_succ hbit) with h | h
  · rw [h, Nat.mul_zero] at hsplit
    rw [h]
    exact hsplit
  · rw [h, Nat.mul_one] at hsplit
    rw [h]
    exact hsplit

/-- A code of a format with an infinity is what its own value rounds to, unless it is a NaN. -/
theorem encodeFloat_decodeBits {t : FloatFmt} {eb esp c : Nat} (ht : t.infinityAt esp) (hesp : esp + 1 = 2 ^ eb)
    (hsign : t.sign = eb + t.fb) (hc : c < 2 ^ (t.sign + 1)) (hnan : valIsNan (decodeBits eb t.fb t.bias esp c) = false) :
    encodeFloat t (decodeBits eb t.fb t.bias esp c) = ⟨c, false, false⟩ := by
  have he : c / 2 ^ t.fb % 2 ^ eb ≤ esp := by
    have := Nat.mod_lt (c / 2 ^ t.fb) (Nat.two_pow_pos eb)
    omega
  have hf : c % 2 ^ t.fb < 2 ^ t.fb := Nat.mod_lt _ (Nat.two_pow_pos _)
  unfold decodeBits at hnan ⊢
  rw [encodeFloat_decodeIeee ht _ he hf hnan, hsign, code_eq_fields (hsign ▸ hc)]

/-- A code of F8A, which has no infinity, is what its own value rounds to, unless it is a NaN (R37). -/
theorem encodeFloat_decodeF8A {c : Nat} (hc : c < 256) (hnan : valIsNan (decodeF8A c) = false) :
    encodeFloat fmtF8A (decodeF8A c) = ⟨c, false, false⟩ := by
  have hmag : c % 128 ≠ 127 := fun h => by simp [decodeF8A, h, valIsNan] at hnan
  have hfin := encodeFloat_decodeIeee_finite (t := fmtF8A) (esp := 16) (e := c / 8 % 16) (f := c % 8) (decide (c / 128 % 2 = 1))
    (by omega) (Nat.mod_lt _ (by decide)) (show c / 8 % 16 * 8 + c % 8 ≤ 126 by omega)
  rw [decodeF8A, if_neg hmag]
  exact hfin.trans (congrArg (Conv.mk · false false) (code_eq_fields (eb := 4) (fb := 3) hc))

end Sys2Proof.Machine
end

section
/-!
PROOFS. The statement on number formats: O58.
-/
namespace Sys2Proof.Proofs
open Sys2Proof Sys2Proof.Machine

/-- Settles O58: F8A by its own lemma, the formats with an infinity by the one on their fields. -/
theorem formatsAgree : Obligations.FormatsAgree := by
  unfold Obligations.FormatsAgree
  refine fun c => ⟨encodeFloat_decodeF8A, ?f8b, ?g16, ?h16, ?b16, ?s32⟩
  case f8b => exact encodeFloat_decodeBits (t := fmtF8B) (eb := 5) ⟨rfl, rfl, rfl⟩ rfl rfl
  case g16 => exact encodeFloat_decodeBits (t := fmtG16) (eb := 6) ⟨rfl, rfl, rfl⟩ rfl rfl
  case h16 => exact encodeFloat_decodeBits (t := fmtH16) (eb := 5) ⟨rfl, rfl, rfl⟩ rfl rfl
  case b16 => exact encodeFloat_decodeBits (t := fmtB16) (eb := 8) ⟨rfl, rfl, rfl⟩ rfl rfl
  case s32 => exact encodeFloat_decodeBits (t := fmtS32) (eb := 8) ⟨rfl, rfl, rfl⟩ rfl rfl

end Sys2Proof.Proofs
end
